-- ==== Sys2Proof/Word.lean ====
section
/-! DEFINITION. The words of the DN-80 and their plainest arithmetic (R2, R3), and the small data types that the
events of the opcode table carry as operands. -/

namespace Sys2Proof

/-- A scalar register, a queue slot, an effective address (R99, R101, R226). -/
abbrev Word := BitVec 64
/-- The smallest addressable unit (R3). -/
abbrev Byte := BitVec 8
/-- A logical core of the package, 0 to 63 (R15). -/
abbrev CoreId := Fin 64
/-- A compute die, 0 to 3 (R15). -/
abbrev DieId := Fin 4
/-- An engine of a core by R264: 0 and 1 Tongs, 2 Anvil, 3 Temper, 4 Swage, 5 Link. -/
abbrev EngId := Fin 6
/-- A host function, 0 to 3 (R404). -/
abbrev FnId := Fin 4
/-- An Akirna Link port, 0 to 15 (R392). -/
abbrev PortId := Fin 16

/-- The unsigned number in bits `[lo + len - 1 : lo]` (R2). -/
def bitsAt (x lo len : Nat) : Nat := x / 2 ^ lo % 2 ^ len

/-- Bits `[lo + len - 1 : lo]` of a bit vector as a number (R2). -/
def fld {w : Nat} (x : BitVec w) (lo len : Nat) : Nat := bitsAt x.toNat lo len

/-- `x` with bits `[lo + len - 1 : lo]` replaced by the low bits of `v`. -/
def setBits (x lo len v : Nat) : Nat :=
  x - bitsAt x lo len * 2 ^ lo + v % 2 ^ len * 2 ^ lo

/-- `setBits` on a bit vector. -/
def setFld {w : Nat} (x : BitVec w) (lo len v : Nat) : BitVec w := BitVec.ofNat w (setBits x.toNat lo len v)

/-- The two's complement reading of the low `w` bits of `n` (R2). -/
def signed (w n : Nat) : Int :=
  let m := n % 2 ^ w
  if m < 2 ^ (w - 1) then (m : Int) else (m : Int) - (2 ^ w : Nat)

/-- The low `w` bits of an integer, two's complement (R7). -/
def wrapTo (w : Nat) (i : Int) : Nat := (i % ((2 ^ w : Nat) : Int)).toNat

/-- `i` held within `[lo, hi]` (R63, R162). -/
def clampInt (lo hi i : Int) : Int := if i < lo then lo else if i > hi then hi else i

/-- `ceil(a / b)`. -/
def ceilDiv (a b : Nat) : Nat := (a + b - 1) / b

/-- One if the proposition's Boolean holds. -/
def ofBool (b : Bool) : Nat := if b then 1 else 0

/-- The little-endian number of a list of bytes (R3). -/
def leNat : List Byte → Nat
  | [] => 0
  | b :: t => b.toNat + 256 * leNat t

/-- The `n` little-endian bytes of a number (R3). -/
def leBytes : Nat → Nat → List Byte
  | 0, _ => []
  | n + 1, v => BitVec.ofNat 8 v :: leBytes n (v / 256)

/-- What the SECDED code finds in the words of one Ember read (R204). -/
inductive Ecc where
  | clean        -- no new error
  | single       -- a single-bit error in the first word read
  | double       -- an uncorrectable error in the first word read
  deriving DecidableEq, Repr, Inhabited

/-- Where a job card comes from (R326, R331). -/
inductive CardSource where
  | ring (f : FnId)          -- the submission ring of a host function
  | pool (entry : Nat)       -- a spawned card held by the pool or a spill queue
  deriving DecidableEq, Repr

/-- What Salamander chooses when it accepts a card (R10, R231 to R233, R240). -/
structure CardChoice where
  asidId : BitVec 12
  root   : BitVec 40
  heapb  : BitVec 48
  heapl  : BitVec 48
  heapo  : BitVec 48
  deriving DecidableEq, Repr

/-- The host-visible registers of R405, R409 and R414 that hold fields and have no behaviour of their own. -/
inductive HostReg where
  | sqbase | cqbase | ringerr
  | attnonce (i : Fin 4)
  | ring (i : Fin 2048)                       -- doubleword `i` of the function's hub ring memory (R415)
  | sqhead | cqtail | bootwhy | elogtail      -- read-only ones, which a write leaves
  deriving DecidableEq, Repr

/-- The chorus-table fields Salamander writes (R364). -/
inductive ChorusField where
  | safe | dticks | rack
  deriving DecidableEq, Repr

/-- The contents of a chorus message (R369), and of a member entry that an ADMIT carries: what R363 lists and, so that the joiner keeps agreement,
the ticks of its admission, of what is still to come, and of its own ADMITs (log 111). -/
structure ChorusMsg where
  sender : BitVec 10      -- chorus index
  seq    : BitVec 32      -- per-sender sequence number
  stamp  : BitVec 64      -- the stamp tick t
  ceil   : BitVec 5       -- ceiling step
  demand : BitVec 16      -- demand in watts
  linkid : BitVec 32 := 0 -- of an entry: its LINKID
  state  : BitVec 3 := 2  -- of an entry: its STATE
  since  : BitVec 64 := 0 -- of an entry: the switch tick of its admission
  due    : BitVec 64 := 0 -- of an entry: the switch tick of its admission, leave or loss to come (STATE 1, 3 or 4)
  admits : List (BitVec 64) := []   -- of an entry: the ticks of ADMITs that its numbers count and that nothing heard of it has followed
  deriving DecidableEq, Repr

/-- The header fields of a link stream and one flit of it (R392, R393). -/
structure Flit where
  src     : CoreId            -- P of R395
  dst     : CoreId            -- Q of R395
  chan    : BitVec 6
  index   : Nat               -- which flit of the stream
  last    : Bool
  pairs   : Bool              -- stream kind: pairs, else dense
  npairs  : Nat
  fmt     : BitVec 4
  grp     : BitVec 2
  d0      : Nat
  d1      : Nat
  release : Bool              -- the sender's command released at GROUP or SYS (R403)
  payload : List Byte         -- at most 224 bytes
  deriving DecidableEq, Repr

/-- How the work of one start-up stage turned out (R412). -/
structure StageResult where
  reason   : Byte                 -- 0 for success, else the failure reason of R412
  badCores : List (Fin 72)        -- stage 4: cores that fail self-test
  trained  : BitVec 16            -- stage 5: ports trained
  enabled  : BitVec 4             -- stage 6: functions trained
  bifurc   : BitVec 2             -- stage 6: bifurcated ports
  digests  : List (BitVec 256)    -- digests of the images loaded (R408): stage 1 Salamander firmware and security-block configuration,
                                  -- stage 3 the microcode of dies 0 to 3
  versions : List Nat             -- the security version of each of those images, in the order of their digests (R407)
  reported : List Nat             -- versions of accepted images that Salamander reports (R407)
  deriving DecidableEq, Repr

end Sys2Proof
end

