-- ==== Sys2Proof/Syntax.lean ====
section
/-! DEFINITION. The instructions and events of the DN-80: one constructor per row of spec/opcode_table.json, under the
row's own mnemonic. An instruction row carries the operand fields of its word, each at its width (R82, R90); an event row
(95_what_each_step_holds.md) carries what tells the event apart and what is decided outside the machine. -/

namespace Sys2Proof

inductive Instr where
  | BLK_IMMEDIATE (l : BitVec 10) (r : BitVec 12)
  | BLK_REGISTER (l : BitVec 10) (s : BitVec 6)
  | END
  | YIELD
  | TRAP (d a b : BitVec 6)
  | RETT
  | BRK
  | FENCE (a : BitVec 6)
  | SEQW (a b : BitVec 6)
  | WAITV (c : BitVec 3) (a b : BitVec 6)
  | NOP
  | WAIT (l s c t : BitVec 6)
  | CSRR (d : BitVec 6) (c : BitVec 11)
  | CSRW (d a : BitVec 6) (c : BitVec 11)
  | CSRS (d a : BitVec 6) (c : BitVec 11)
  | CSRC (d a : BitVec 6) (c : BitVec 11)
  | ADD (d a b : BitVec 6)
  | SUB (d a b : BitVec 6)
  | MUL (d a b : BitVec 6)
  | MULH (d a b : BitVec 6)
  | MULHU (d a b : BitVec 6)
  | DIV (d a b : BitVec 6)
  | DIVU (d a b : BitVec 6)
  | REM (d a b : BitVec 6)
  | REMU (d a b : BitVec 6)
  | AND (d a b : BitVec 6)
  | OR (d a b : BitVec 6)
  | XOR (d a b : BitVec 6)
  | SHL (d a b : BitVec 6)
  | SHR (d a b : BitVec 6)
  | SHRA (d a b : BitVec 6)
  | MIN (d a b : BitVec 6)
  | MAX (d a b : BitVec 6)
  | MINU (d a b : BitVec 6)
  | MAXU (d a b : BitVec 6)
  | CLZ (d a : BitVec 6)
  | CTZ (d a : BitVec 6)
  | POPC (d a : BitVec 6)
  | CMPEQ (d a b : BitVec 6)
  | CMPNE (d a b : BitVec 6)
  | CMPLT (d a b : BitVec 6)
  | CMPLTU (d a b : BitVec 6)
  | CMPGE (d a b : BitVec 6)
  | CMPGEU (d a b : BitVec 6)
  | SEL (d a b : BitVec 6)
  | ADDW (d a b : BitVec 6)
  | SUBW (d a b : BitVec 6)
  | SH1ADD (d a b : BitVec 6)
  | SH2ADD (d a b : BitVec 6)
  | SH3ADD (d a b : BitVec 6)
  | BFX (d a b : BitVec 6)
  | BFI (d a b : BitVec 6)
  | ADDI (d a : BitVec 6) (i : BitVec 13)
  | ANDI (d a : BitVec 6) (i : BitVec 13)
  | ORI (d a : BitVec 6) (i : BitVec 13)
  | XORI (d a : BitVec 6) (i : BitVec 13)
  | SHLI (d a s : BitVec 6)
  | SHRI (d a s : BitVec 6)
  | SHRAI (d a s : BitVec 6)
  | CMPLTI (d a : BitVec 6) (i : BitVec 13)
  | CMPEQI (d a : BitVec 6) (i : BitVec 13)
  | LI (d : BitVec 6) (i : BitVec 19)
  | LUI (d : BitVec 6) (i : BitVec 19)
  | BEQ (a b : BitVec 6) (n : BitVec 2) (o : BitVec 11)
  | BNE (a b : BitVec 6) (n : BitVec 2) (o : BitVec 11)
  | BLT (a b : BitVec 6) (n : BitVec 2) (o : BitVec 11)
  | BGE (a b : BitVec 6) (n : BitVec 2) (o : BitVec 11)
  | BLTU (a b : BitVec 6) (n : BitVec 2) (o : BitVec 11)
  | BGEU (a b : BitVec 6) (n : BitVec 2) (o : BitVec 11)
  | J (o : BitVec 19)
  | JAL (d : BitVec 6) (o : BitVec 19)
  | JALR (d a : BitVec 6) (i : BitVec 13)
  | LD_B (t a : BitVec 6) (c : BitVec 4) (i : BitVec 6)
  | LD_BU (t a : BitVec 6) (c : BitVec 4) (i : BitVec 6)
  | LD_H (t a : BitVec 6) (c : BitVec 4) (i : BitVec 6)
  | LD_HU (t a : BitVec 6) (c : BitVec 4) (i : BitVec 6)
  | LD_W (t a : BitVec 6) (c : BitVec 4) (i : BitVec 6)
  | LD_WU (t a : BitVec 6) (c : BitVec 4) (i : BitVec 6)
  | LD_D (t a : BitVec 6) (c : BitVec 4) (i : BitVec 6)
  | ST_B (t a : BitVec 6) (c : BitVec 4) (i : BitVec 6)
  | ST_H (t a : BitVec 6) (c : BitVec 4) (i : BitVec 6)
  | ST_W (t a : BitVec 6) (c : BitVec 4) (i : BitVec 6)
  | ST_D (t a : BitVec 6) (c : BitVec 4) (i : BitVec 6)
  | FADD_S (d a b : BitVec 6)
  | FSUB_S (d a b : BitVec 6)
  | FMUL_S (d a b : BitVec 6)
  | FDIV_S (d a b : BitVec 6)
  | FSQRT_S (d a : BitVec 6)
  | FMIN_S (d a b : BitVec 6)
  | FMAX_S (d a b : BitVec 6)
  | FCMPEQ_S (d a b : BitVec 6)
  | FCMPLT_S (d a b : BitVec 6)
  | FCMPLE_S (d a b : BitVec 6)
  | FCLASS_S (d a : BitVec 6)
  | FMA_S (d a b : BitVec 6)
  | FADD_D (d a b : BitVec 6)
  | FSUB_D (d a b : BitVec 6)
  | FMUL_D (d a b : BitVec 6)
  | FDIV_D (d a b : BitVec 6)
  | FSQRT_D (d a : BitVec 6)
  | FMIN_D (d a b : BitVec 6)
  | FMAX_D (d a b : BitVec 6)
  | FCMPEQ_D (d a b : BitVec 6)
  | FCMPLT_D (d a b : BitVec 6)
  | FCMPLE_D (d a b : BitVec 6)
  | FCLASS_D (d a : BitVec 6)
  | FMA_D (d a b : BitVec 6)
  | FCVT_S_D (d a : BitVec 6)
  | FCVT_D_S (d a : BitVec 6)
  | FCVT_S_L (d a : BitVec 6)
  | FCVT_D_L (d a : BitVec 6)
  | FCVT_L_S (d a : BitVec 6)
  | FCVT_L_D (d a : BitVec 6)
  | FCVT_S_BF (d a : BitVec 6)
  | FCVT_BF_S (d a : BitVec 6)
  | FCVT_S_H (d a : BitVec 6)
  | FCVT_H_S (d a : BitVec 6)
  | VADD (d a b : BitVec 5) (k g : BitVec 3)
  | VSUB (d a b : BitVec 5) (k g : BitVec 3)
  | VMUL (d a b : BitVec 5) (k g : BitVec 3)
  | VFMA (d a b : BitVec 5) (k g : BitVec 3)
  | VMIN (d a b : BitVec 5) (k g : BitVec 3)
  | VMAX (d a b : BitVec 5) (k g : BitVec 3)
  | VAND (d a b : BitVec 5) (k g : BitVec 3)
  | VOR (d a b : BitVec 5) (k g : BitVec 3)
  | VXOR (d a b : BitVec 5) (k g : BitVec 3)
  | VSHL (d a b : BitVec 5) (k g : BitVec 3)
  | VSHR (d a b : BitVec 5) (k g : BitVec 3)
  | VCMPEQ (d a b : BitVec 5) (k g : BitVec 3)
  | VCMPNE (d a b : BitVec 5) (k g : BitVec 3)
  | VCMPLT (d a b : BitVec 5) (k g : BitVec 3)
  | VCMPLE (d a b : BitVec 5) (k g : BitVec 3)
  | VSEL (d a b : BitVec 5) (k g : BitVec 3)
  | VNEG (d a : BitVec 5) (k g : BitVec 3)
  | VABS (d a : BitVec 5) (k g : BitVec 3)
  | VEXP2 (d a : BitVec 5) (k g : BitVec 3)
  | VLOG2 (d a : BitVec 5) (k g : BitVec 3)
  | VRCP (d a : BitVec 5) (k g : BitVec 3)
  | VRSQ (d a : BitVec 5) (k g : BitVec 3)
  | VSQRT (d a : BitVec 5) (k g : BitVec 3)
  | VTANH (d a : BitVec 5) (k g : BitVec 3)
  | VSIGM (d a : BitVec 5) (k g : BitVec 3)
  | VFLOOR (d a : BitVec 5) (k g : BitVec 3)
  | VCVT (d a f : BitVec 5) (k g : BitVec 3)
  | VCOAL (d a : BitVec 5) (k g : BitVec 3)
  | VMOV (d a : BitVec 5) (k g : BitVec 3)
  | VSCAN (d a : BitVec 5) (k g : BitVec 3)
  | VNOT (d a : BitVec 5) (k g : BitVec 3)
  | VRSUM (d a : BitVec 5) (k g : BitVec 3)
  | VRMAX (d a : BitVec 5) (k g : BitVec 3)
  | VRMIN (d a : BitVec 5) (k g : BitVec 3)
  | VRCNT (d a : BitVec 5) (k g : BitVec 3)
  | VRFIRST (d a : BitVec 5) (k g : BitVec 3)
  | VLEN (d a : BitVec 5) (g : BitVec 3)
  | VRUNS (d a : BitVec 5) (g : BitVec 3)
  | VSPLAT (d a b : BitVec 5) (k : BitVec 3)
  | VIOTA (d a b : BitVec 5) (k : BitVec 3)
  | VSLICE (d a b : BitVec 5)
  | VCAT (d a b : BitVec 5)
  | VSETLEN (d a b : BitVec 5)
  | VEXTR (d a b : BitVec 5)
  | VINS (d a b : BitVec 5)
  | VLD (d a b : BitVec 5) (m : BitVec 4)
  | VLDS (d a b : BitVec 5) (k : BitVec 3) (m : BitVec 4)
  | VLDFF (d a b : BitVec 5) (k : BitVec 3) (m : BitVec 4)
  | VST (d a : BitVec 5) (k : BitVec 3) (m : BitVec 4)
  | VSTS (d a b : BitVec 5) (k : BitVec 3) (m : BitVec 4)
  | VPOP (d b : BitVec 5) (n : BitVec 3) (m : BitVec 4)
  | PSET (k : BitVec 3) (a : BitVec 6) (w : BitVec 2)
  | PCNT (k : BitVec 3) (a : BitVec 6)
  | PMIN (k i j : BitVec 3)
  | PGET (d : BitVec 6) (i : BitVec 3)
  | PALL (k : BitVec 3)
  | EALLOC (a b : BitVec 6)
  | EFREE (a b : BitVec 6)
  | ETOUCH (a b : BitVec 6)
  | EAGE (d a : BitVec 6)
  | ECLASS (a b : BitVec 6)
  | TDSET (a b : BitVec 6)
  | TDGET (d a : BitVec 6)
  | TDCOPY (a b : BitVec 6)
  | TDCLR (a : BitVec 6)
  | BSET (a b : BitVec 6)
  | BGET (d a : BitVec 6)
  | COPY (x : BitVec 5) (y z : BitVec 6) (t : BitVec 1)
  | COPYX (x : BitVec 5) (y z : BitVec 6) (t f s : BitVec 1)
  | COPYM (x : BitVec 4) (y z : BitVec 6) (t l : BitVec 1)
  | COPYF (x : BitVec 5) (p : BitVec 3) (n : BitVec 2) (z : BitVec 6) (t : BitVec 1)
  | COPYT (x : BitVec 5) (y z : BitVec 6) (t : BitVec 1)
  | COPYO (x : BitVec 5) (y z : BitVec 6) (t : BitVec 1)
  | EXPORT (y z : BitVec 6) (t : BitVec 1)
  | SACC (y z : BitVec 6) (o : BitVec 3)
  | SACCR (f : BitVec 3) (y z : BitVec 6) (o : BitVec 3)
  | ROWSM (y z : BitVec 6)
  | ROWNM (x : BitVec 5) (y z : BitVec 6) (e : BitVec 5)
  | ROWLN (x : BitVec 5) (y z : BitVec 6) (e : BitVec 5)
  | ROWMX (y z : BitVec 6)
  | MMA (t : BitVec 2) (a b : BitVec 6) (m : BitVec 2) (n : BitVec 6) (c s : BitVec 1)
  | MZERO (t f : BitVec 2)
  | MSTORE (t : BitVec 2) (y : BitVec 6)
  | MLOAD (t : BitVec 2) (z : BitVec 6) (f : BitVec 2)
  | BAR (a : BitVec 6)
  | BARA (a : BitVec 6)
  | BARW (a : BitVec 6)
  | BARX (a : BitVec 6)
  | DEPDEC (a : BitVec 6)
  | SPAWN (a : BitVec 6)
  | SPATCH (a b : BitVec 6)
  | PWRQ (a : BitVec 6)
  | PWRL
  | PWRG (d : BitVec 6)
  | LXFER (b : BitVec 4) (z : BitVec 6) (p : BitVec 4)
  | LRECV (b : BitVec 4) (y : BitVec 6) (p : BitVec 4)
  | LRED (b : BitVec 4) (y z : BitVec 6) (p : BitVec 4)
  | LTOPK (b : BitVec 4) (y z : BitVec 6) (p : BitVec 4)
  | STAMP (n : BitVec 24)
  | C_CLS (c : BitVec 4) (a r : BitVec 1) (s : BitVec 3)
  | C_ADDI (d : BitVec 5) (i : BitVec 6)
  | C_ADD (d : BitVec 5) (a : BitVec 6)
  | C_MV (d : BitVec 5) (a : BitVec 6)
  | C_LI (d : BitVec 5) (i : BitVec 6)
  | C_BZ (a : BitVec 5) (o : BitVec 6)
  | C_BNZ (a : BitVec 5) (o : BitVec 6)
  | C_J (o : BitVec 11)
  | C_LDD (d : BitVec 5) (b o : BitVec 3)
  | C_STD (t : BitVec 5) (b o : BitVec 3)
  | C_WAIT (c : BitVec 5) (t : BitVec 6)
  | C_SHLI (d : BitVec 5) (s : BitVec 6)
  | C_SUB (d : BitVec 5) (a : BitVec 6)
  | C_AND (d : BitVec 5) (a : BitVec 6)
  | C_NOP
  | C_BRK
  | ANNULLED_POSITION (c : CoreId)
  | RESULT_LANDING (c : CoreId) (id : Nat)
  | VECTOR_OCCUPANCY_END (c : CoreId)
  | ISSUE_STALL_RELEASE (c : CoreId)
  | WAIT_CONDITION_MET (c : CoreId)
  | WAITV_READ (c : CoreId) (e : Ecc)
  | EXPOSED_STORE_WRITE (c : CoreId) (id : Nat)
  | WRITE_HOLD_DRAIN (c : CoreId) (bank : Fin 32)
  | LANDING_ENTRY_REPLAY (c : CoreId) (slot : Fin 8)
  | EMBER_READ_RETURN (c : CoreId) (id : Nat) (e : Ecc)
  | STORE_ACCEPT (c : CoreId)
  | COMMIT_LINE (c : CoreId)
  | WALK_COMPLETE (c : CoreId) (id : Nat)
  | ENGINE_COMMAND_HEAD (c : CoreId) (e : EngId)
  | ENGINE_COMMAND_COMPLETE (c : CoreId) (e : EngId)
  | TONGS_LINE_WRITE (c : CoreId) (u : Fin 2)
  | FEED_ELEMENT_ENTRY (c : CoreId) (f : Fin 8)
  | SWAGE_RMW (c : CoreId)
  | TEMPER_LOAD (c : CoreId)
  | TEMPER_PHASE (c : CoreId)
  | TEMPER_ROW_WRITE (c : CoreId)
  | CRUCIBLE_FILL_START (c : CoreId)
  | CRUCIBLE_FILL_COMPLETE (c : CoreId)
  | EBX_BLOCK_BUILD (c : CoreId)
  | EBX_BLOCK_DECODE (c : CoreId)
  | EBX_BLOCK_CHECK (c : CoreId)
  | CRUCIBLE_COPYX_SERVE (c : CoreId) (u : Fin 2)
  | ANVIL_PASS_START (c : CoreId)
  | ANVIL_PASS_END (c : CoreId) (residue : Bool)
  | MZERO_WRITE (c : CoreId)
  | MSTORE_LINE_WRITE (c : CoreId)
  | MLOAD_ROW_WRITE (c : CoreId)
  | SCHEDULE_MISS (c : CoreId) (e : EngId)
  | BELLOWS_STEP (d : DieId)
  | LINK_FLIT_SEND (c : CoreId)
  | LINK_FLIT_ARRIVAL (p : PortId) (flit : Flit) (auth : Bool)
  | LINK_FLIT_RECEIVE (c : CoreId)
  | LINK_TRAIN (p : PortId) (ok : Bool) (neighbour : BitVec 10)
  | TRAP_ENTRY (c : CoreId) (code : Byte) (tval : Word) (eng : Option EngId) (single : Bool)
  | SYSTEM_SERVICE (c : CoreId)
  | TASK_RETIRE (c : CoreId)
  | AGE_TICK_BOUNDARY (t0 t1 t2 t3 : Byte)
  | REFRESH_REWRITE (c : CoreId)
  | REWRITE_END (c : CoreId)
  | CHUNK_REQUEST (c : CoreId)
  | JOB_CARD_ACCEPT (src : CardSource) (ch : CardChoice)
  | DEP_DECREMENT (ctr : BitVec 12)
  | SPILL_CARD_RETURN (entry : Nat)
  | BIND (card : Nat) (cores : List (Nat × CoreId)) (start launch : BitVec 64) (span : List (BitVec 10))
  | TASK_START (c : CoreId)
  | PRIORITY_AGEING (card : Nat)
  | PREEMPT_REQUEST (c : CoreId)
  | CONTEXT_RESTORE (c : CoreId) (card task : Nat)
  | REGROWTH (c : CoreId)
  | CORE_POLL (c : CoreId) (answers : Bool)
  | DEADLOCK_SAMPLE
  | BARRIER_COMPLETE (card : Nat) (tag : Fin 9) (unit : Nat)
  | GANG_END_COMMIT (card : Nat)
  | COMPLETION_RECORD_WRITE (f : FnId)
  | SQ_DOORBELL (f : FnId) (v : Word)
  | CQ_HEAD_WRITE (f : FnId) (v : Word)
  | SQ_CTL_WRITE (f : FnId) (v : Word)
  | CQ_CTL_WRITE (f : FnId) (v : Word)
  | HOST_TEMPLATE_WRITE (f : FnId) (n : Fin 1024) (dword : Fin 72) (v : Word)
  | HOST_HBM_READ (f : FnId) (addr : Nat)
  | HOST_HBM_WRITE (f : FnId) (addr : Nat) (v : Word)
  | ATTESTATION_GO (f : FnId) (v : Word)
  | ATTESTATION_DONE
  | STARTCLR_WRITE (f : FnId) (v : Word)
  | REGISTER_WRITE (f : FnId) (r : HostReg) (v : Word)
  | TEMP_TABLE_WRITE (band cls : Fin 8) (v : Byte)
  | RAMP_TABLE_WRITE (d : DieId) (t : Vector (BitVec 16) 16)
  | RAMP_TABLE_APPLY (d : DieId)
  | ASID_INVALIDATE (id : BitVec 12)
  | REFERENCE_TICK
  | DECISION_TICK
  | SWITCH_TICK
  | CHORUS_JOIN (m : ChorusMsg) (linkid : BitVec 32) (dticks : BitVec 16) (direct : Bool)
  | CHORUS_ADMIT (self : BitVec 10) (tick wa stampWa : BitVec 64) (step : BitVec 5) (members : List ChorusMsg)
  | CHORUS_LEAVE (m : ChorusMsg)
  | CHORUS_DECLARE (m : ChorusMsg)
  | CHORUS_LIMIT (m : ChorusMsg) (wl : BitVec 64)
  | CHORUS_LOST (m : ChorusMsg) (lost : BitVec 10) (at_ : BitVec 64)
  | DECLARE_SEND (ceil : BitVec 5) (demand : BitVec 16)
  | CORE_GATE (p : Fin 72)
  | CORE_WAKE_REQUEST (p : Fin 72)
  | GATE_HOLD_END (p : Fin 72)
  | WAKE_START (d : DieId)
  | VOLTAGE_ADJUST (d : DieId) (count : Nat)
  | VOLTAGE_RETURN (d : DieId)
  | UNDERVOLT_REENABLE (d : DieId)
  | DEVICE_RESET (t0 t1 t2 t3 : Byte)
  | BOOT_STAGE (r : StageResult)
  | BOOT_STAGE_TIMEOUT
  | ILLEGAL_INSTRUCTION (c : CoreId) (reserved : Bool) (parcel : Word)
  | LIMIT_SEND (ceil : BitVec 5) (demand : BitVec 16) (wl : BitVec 64)
  | JOIN_SEND (p : PortId) (ceil : BitVec 5) (demand : BitVec 16)
  | LEAVE_SEND
  | CHORUS_TABLE_WRITE (fieldName : ChorusField) (v : BitVec 32)
  | DIE_BUDGET_WRITE (d : DieId) (u : BitVec 13)
  | RESERVATION_SET_ASIDE (c : CoreId) (cls : Fin 8)
  | GLOBAL_READ_RETURN (c : CoreId) (e : EngId)
  | IDE_ESTABLISH (f : FnId)
  | STANDBY_POWER_LOSS
  deriving DecidableEq, Repr

end Sys2Proof
end

