-- ==== Sys2Proof/WellFormed.lean ====
section
/-! DEFINITION. Which instruction terms the DN-80 has: the operand values that R80, R84, R89, R91, R166, R183, R288 and R316
refuse with fault 0x01 (`illegal`) or with fault 0x02 (`badValue`). -/

namespace Sys2Proof

/-- A source specifier without a meaning: 56 to 63 (R80). -/
def srcIllegal (x : BitVec 6) : Bool := decide (56 ≤ x.toNat)

/-- A destination specifier without a meaning: 32 to 63 (R80). -/
def dstIllegal (x : BitVec 6) : Bool := decide (32 ≤ x.toNat)

/-- The CSR numbers of R185, R269, R312 and R391. -/
def csrKnown (n : Nat) : Bool :=
  n ≤ 0x07 || (0x10 ≤ n && n ≤ 0x13) || (0x20 ≤ n && n ≤ 0x22) || (0x24 ≤ n && n ≤ 0x26) || (0x28 ≤ n && n ≤ 0x2A)
    || n == 0x40 || n == 0x41 || (0x48 ≤ n && n ≤ 0x4B) || (0x50 ≤ n && n ≤ 0x5A) || (0x60 ≤ n && n ≤ 0x63)
    || n == 0x70 || n == 0x71 || n == 0x80 || (0x100 ≤ n && n ≤ 0x105) || (0x108 ≤ n && n ≤ 0x10D)
    || n == 0x110 || (0x120 ≤ n && n ≤ 0x12F)

/-- A group size the V format refuses (R89). -/
def groupIllegal (g : BitVec 3) : Bool := g == 0 || g == 7

/-- A bound-operand field that names no register and is not zero (R277). -/
def boundBad (x : BitVec 5) : Bool := decide (x.toNat < 16) && x != 0

/-- An operand value that raises fault 0x01 (R93, order 3). -/
def Instr.illegal : Instr → Bool
  | .BLK_IMMEDIATE l r => l == 0 || r == 0
  | .BLK_REGISTER l s => l == 0 || decide (32 ≤ s.toNat)
  | .TRAP d a b => srcIllegal a || srcIllegal b || dstIllegal d
  | .FENCE a => srcIllegal a
  | .SEQW a b => srcIllegal a || srcIllegal b
  | .WAITV c a b => srcIllegal a || srcIllegal b || decide (6 ≤ c.toNat)
  | .CSRR d c => !csrKnown c.toNat || dstIllegal d
  | .CSRW d a c => !csrKnown c.toNat || srcIllegal a || dstIllegal d
  | .CSRS d a c => !csrKnown c.toNat || srcIllegal a || dstIllegal d
  | .CSRC d a c => !csrKnown c.toNat || srcIllegal a || dstIllegal d
  | .ADD d a b => srcIllegal a || srcIllegal b || dstIllegal d
  | .SUB d a b => srcIllegal a || srcIllegal b || dstIllegal d
  | .MUL d a b => srcIllegal a || srcIllegal b || dstIllegal d
  | .MULH d a b => srcIllegal a || srcIllegal b || dstIllegal d
  | .MULHU d a b => srcIllegal a || srcIllegal b || dstIllegal d
  | .DIV d a b => srcIllegal a || srcIllegal b || dstIllegal d
  | .DIVU d a b => srcIllegal a || srcIllegal b || dstIllegal d
  | .REM d a b => srcIllegal a || srcIllegal b || dstIllegal d
  | .REMU d a b => srcIllegal a || srcIllegal b || dstIllegal d
  | .AND d a b => srcIllegal a || srcIllegal b || dstIllegal d
  | .OR d a b => srcIllegal a || srcIllegal b || dstIllegal d
  | .XOR d a b => srcIllegal a || srcIllegal b || dstIllegal d
  | .SHL d a b => srcIllegal a || srcIllegal b || dstIllegal d
  | .SHR d a b => srcIllegal a || srcIllegal b || dstIllegal d
  | .SHRA d a b => srcIllegal a || srcIllegal b || dstIllegal d
  | .MIN d a b => srcIllegal a || srcIllegal b || dstIllegal d
  | .MAX d a b => srcIllegal a || srcIllegal b || dstIllegal d
  | .MINU d a b => srcIllegal a || srcIllegal b || dstIllegal d
  | .MAXU d a b => srcIllegal a || srcIllegal b || dstIllegal d
  | .CLZ d a => srcIllegal a || dstIllegal d
  | .CTZ d a => srcIllegal a || dstIllegal d
  | .POPC d a => srcIllegal a || dstIllegal d
  | .CMPEQ d a b => srcIllegal a || srcIllegal b || dstIllegal d
  | .CMPNE d a b => srcIllegal a || srcIllegal b || dstIllegal d
  | .CMPLT d a b => srcIllegal a || srcIllegal b || dstIllegal d
  | .CMPLTU d a b => srcIllegal a || srcIllegal b || dstIllegal d
  | .CMPGE d a b => srcIllegal a || srcIllegal b || dstIllegal d
  | .CMPGEU d a b => srcIllegal a || srcIllegal b || dstIllegal d
  | .SEL d a b => srcIllegal a || srcIllegal b || dstIllegal d
  | .ADDW d a b => srcIllegal a || srcIllegal b || dstIllegal d
  | .SUBW d a b => srcIllegal a || srcIllegal b || dstIllegal d
  | .SH1ADD d a b => srcIllegal a || srcIllegal b || dstIllegal d
  | .SH2ADD d a b => srcIllegal a || srcIllegal b || dstIllegal d
  | .SH3ADD d a b => srcIllegal a || srcIllegal b || dstIllegal d
  | .BFX d a b => srcIllegal a || srcIllegal b || dstIllegal d
  | .BFI d a b => srcIllegal a || srcIllegal b || dstIllegal d
  | .ADDI d a _ => srcIllegal a || dstIllegal d
  | .ANDI d a _ => srcIllegal a || dstIllegal d
  | .ORI d a _ => srcIllegal a || dstIllegal d
  | .XORI d a _ => srcIllegal a || dstIllegal d
  | .SHLI d a _ => srcIllegal a || dstIllegal d
  | .SHRI d a _ => srcIllegal a || dstIllegal d
  | .SHRAI d a _ => srcIllegal a || dstIllegal d
  | .CMPLTI d a _ => srcIllegal a || dstIllegal d
  | .CMPEQI d a _ => srcIllegal a || dstIllegal d
  | .LI d _ => dstIllegal d
  | .LUI d _ => dstIllegal d
  | .BEQ a b _ _ => srcIllegal a || srcIllegal b
  | .BNE a b _ _ => srcIllegal a || srcIllegal b
  | .BLT a b _ _ => srcIllegal a || srcIllegal b
  | .BGE a b _ _ => srcIllegal a || srcIllegal b
  | .BLTU a b _ _ => srcIllegal a || srcIllegal b
  | .BGEU a b _ _ => srcIllegal a || srcIllegal b
  | .JAL d _ => dstIllegal d
  | .JALR d a _ => srcIllegal a || dstIllegal d
  | .LD_B t a _ _ => srcIllegal a || dstIllegal t
  | .LD_BU t a _ _ => srcIllegal a || dstIllegal t
  | .LD_H t a _ _ => srcIllegal a || dstIllegal t
  | .LD_HU t a _ _ => srcIllegal a || dstIllegal t
  | .LD_W t a _ _ => srcIllegal a || dstIllegal t
  | .LD_WU t a _ _ => srcIllegal a || dstIllegal t
  | .LD_D t a _ _ => srcIllegal a || dstIllegal t
  | .ST_B t a _ _ => srcIllegal a || srcIllegal t
  | .ST_H t a _ _ => srcIllegal a || srcIllegal t
  | .ST_W t a _ _ => srcIllegal a || srcIllegal t
  | .ST_D t a _ _ => srcIllegal a || srcIllegal t
  | .FADD_S d a b => srcIllegal a || srcIllegal b || dstIllegal d
  | .FSUB_S d a b => srcIllegal a || srcIllegal b || dstIllegal d
  | .FMUL_S d a b => srcIllegal a || srcIllegal b || dstIllegal d
  | .FDIV_S d a b => srcIllegal a || srcIllegal b || dstIllegal d
  | .FSQRT_S d a => srcIllegal a || dstIllegal d
  | .FMIN_S d a b => srcIllegal a || srcIllegal b || dstIllegal d
  | .FMAX_S d a b => srcIllegal a || srcIllegal b || dstIllegal d
  | .FCMPEQ_S d a b => srcIllegal a || srcIllegal b || dstIllegal d
  | .FCMPLT_S d a b => srcIllegal a || srcIllegal b || dstIllegal d
  | .FCMPLE_S d a b => srcIllegal a || srcIllegal b || dstIllegal d
  | .FCLASS_S d a => srcIllegal a || dstIllegal d
  | .FMA_S d a b => srcIllegal a || srcIllegal b || dstIllegal d
  | .FADD_D d a b => srcIllegal a || srcIllegal b || dstIllegal d
  | .FSUB_D d a b => srcIllegal a || srcIllegal b || dstIllegal d
  | .FMUL_D d a b => srcIllegal a || srcIllegal b || dstIllegal d
  | .FDIV_D d a b => srcIllegal a || srcIllegal b || dstIllegal d
  | .FSQRT_D d a => srcIllegal a || dstIllegal d
  | .FMIN_D d a b => srcIllegal a || srcIllegal b || dstIllegal d
  | .FMAX_D d a b => srcIllegal a || srcIllegal b || dstIllegal d
  | .FCMPEQ_D d a b => srcIllegal a || srcIllegal b || dstIllegal d
  | .FCMPLT_D d a b => srcIllegal a || srcIllegal b || dstIllegal d
  | .FCMPLE_D d a b => srcIllegal a || srcIllegal b || dstIllegal d
  | .FCLASS_D d a => srcIllegal a || dstIllegal d
  | .FMA_D d a b => srcIllegal a || srcIllegal b || dstIllegal d
  | .FCVT_S_D d a => srcIllegal a || dstIllegal d
  | .FCVT_D_S d a => srcIllegal a || dstIllegal d
  | .FCVT_S_L d a => srcIllegal a || dstIllegal d
  | .FCVT_D_L d a => srcIllegal a || dstIllegal d
  | .FCVT_L_S d a => srcIllegal a || dstIllegal d
  | .FCVT_L_D d a => srcIllegal a || dstIllegal d
  | .FCVT_S_BF d a => srcIllegal a || dstIllegal d
  | .FCVT_BF_S d a => srcIllegal a || dstIllegal d
  | .FCVT_S_H d a => srcIllegal a || dstIllegal d
  | .FCVT_H_S d a => srcIllegal a || dstIllegal d
  | .VADD _ _ _ _ g => groupIllegal g
  | .VSUB _ _ _ _ g => groupIllegal g
  | .VMUL _ _ _ _ g => groupIllegal g
  | .VFMA _ _ _ _ g => groupIllegal g
  | .VMIN _ _ _ _ g => groupIllegal g
  | .VMAX _ _ _ _ g => groupIllegal g
  | .VAND _ _ _ _ g => groupIllegal g
  | .VOR _ _ _ _ g => groupIllegal g
  | .VXOR _ _ _ _ g => groupIllegal g
  | .VSHL _ _ _ _ g => groupIllegal g
  | .VSHR _ _ _ _ g => groupIllegal g
  | .VCMPEQ _ _ _ _ g => groupIllegal g
  | .VCMPNE _ _ _ _ g => groupIllegal g
  | .VCMPLT _ _ _ _ g => groupIllegal g
  | .VCMPLE _ _ _ _ g => groupIllegal g
  | .VSEL _ _ _ _ g => groupIllegal g
  | .VNEG _ _ _ g => groupIllegal g
  | .VABS _ _ _ g => groupIllegal g
  | .VEXP2 _ _ _ g => groupIllegal g
  | .VLOG2 _ _ _ g => groupIllegal g
  | .VRCP _ _ _ g => groupIllegal g
  | .VRSQ _ _ _ g => groupIllegal g
  | .VSQRT _ _ _ g => groupIllegal g
  | .VTANH _ _ _ g => groupIllegal g
  | .VSIGM _ _ _ g => groupIllegal g
  | .VFLOOR _ _ _ g => groupIllegal g
  | .VCVT _ _ f _ g => groupIllegal g || decide (16 ≤ f.toNat)
  | .VCOAL _ _ _ g => groupIllegal g
  | .VMOV _ _ _ g => groupIllegal g
  | .VSCAN _ _ _ g => groupIllegal g
  | .VNOT _ _ _ g => groupIllegal g
  | .VRSUM _ _ _ g => groupIllegal g
  | .VRMAX _ _ _ g => groupIllegal g
  | .VRMIN _ _ _ g => groupIllegal g
  | .VRCNT _ _ _ g => groupIllegal g
  | .VRFIRST _ _ _ g => groupIllegal g
  | .VLEN _ _ g => groupIllegal g
  | .VRUNS _ _ g => groupIllegal g
  | .PSET _ a _ => srcIllegal a
  | .PCNT _ a => decide (32 ≤ a.toNat)
  | .PGET d _ => dstIllegal d
  | .EALLOC a b => srcIllegal a || srcIllegal b
  | .EFREE a b => srcIllegal a || srcIllegal b
  | .ETOUCH a b => srcIllegal a || srcIllegal b
  | .EAGE d a => srcIllegal a || dstIllegal d
  | .ECLASS a b => srcIllegal a || srcIllegal b
  | .TDSET a b => srcIllegal a || srcIllegal b
  | .TDGET d a => srcIllegal a || dstIllegal d
  | .TDCOPY a b => srcIllegal a || srcIllegal b
  | .TDCLR a => srcIllegal a
  | .BSET a b => srcIllegal a || srcIllegal b
  | .BGET d a => srcIllegal a || dstIllegal d
  | .SACC _ _ o => decide (6 ≤ o.toNat)
  | .SACCR _ _ _ o => decide (6 ≤ o.toNat)
  | .MZERO _ f => f == 3
  | .MLOAD _ _ f => f == 3
  | .BAR a => srcIllegal a
  | .BARA a => srcIllegal a
  | .BARW a => srcIllegal a
  | .BARX a => srcIllegal a
  | .DEPDEC a => srcIllegal a
  | .SPAWN a => srcIllegal a
  | .SPATCH a b => srcIllegal a || srcIllegal b
  | .PWRQ a => srcIllegal a
  | .PWRG d => dstIllegal d
  | .C_CLS _ _ _ s => decide (6 ≤ s.toNat)
  | .C_ADD _ a => srcIllegal a
  | .C_MV _ a => srcIllegal a
  | .C_SUB _ a => srcIllegal a
  | .C_AND _ a => srcIllegal a
  | _ => false

/-- An operand value that raises fault 0x02 (R93, order 4). -/
def Instr.badValue : Instr → Bool
  | .BEQ _ _ n _ => n == 3
  | .BNE _ _ n _ => n == 3
  | .BLT _ _ n _ => n == 3
  | .BGE _ _ n _ => n == 3
  | .BLTU _ _ n _ => n == 3
  | .BGEU _ _ n _ => n == 3
  | .COPY x _ _ _ => boundBad x
  | .COPYX x y _ _ f _ => boundBad x || (f == 1 && decide (32 ≤ y.toNat))
  | .COPYF x _ _ _ _ => boundBad x
  | .COPYT x _ _ _ => boundBad x
  | .COPYO x _ _ _ => boundBad x
  | .MMA _ _ _ m n _ _ => m == 3 || n == 0
  | .C_CLS _ a r s => (a == 0 && r == 0 && s != 0)
  | .C_ADDI d _ => d == 0
  | _ => false

/-- An instruction that decodes without fault 0x01 or 0x02 (R93). -/
def Instr.wellFormed (i : Instr) : Bool := !i.illegal && !i.badValue

end Sys2Proof
end

