-- ==== Sys2Proof/Decode.lean ====
section
/-! DEFINITION. The decoder of the parcel stream (R77, R87, R88, R90) and the encoder beside it, both written from the
opcode table's patterns. The decoder is total: a word whose major or function is unassigned is rejected as `unassigned`, a
word of an assigned row with a reserved bit set as `reservedBits` (R93, orders 3 and 4). -/

namespace Sys2Proof

/-- The field of a word at bit `lo`, as wide as its place in the instruction asks. -/
def at_ {n : Nat} (lo w : Nat) : BitVec n := .ofNat n (w / 2 ^ lo)

/-- Why the decoder rejects a word (R93). -/
inductive DecodeError where
  | unassigned      -- order 3: no row has this major and function
  | reservedBits    -- order 4: a reserved bit of the row is not zero
  deriving DecidableEq, Repr

/-- The rows of W[6:0] = 0x01 by their function field (R88). -/
def decodeBlk (w : Nat) : Option Instr :=
  match bitsAt w 17 1 with
  | 0 => some (.BLK_IMMEDIATE (at_ 7 w) (at_ 18 w))
  | 1 => some (.BLK_REGISTER (at_ 7 w) (at_ 18 w))
  | _ => none

/-- The rows of W[6:0] = 0x03 by their function field (R88). -/
def decodeSys (w : Nat) : Option Instr :=
  match bitsAt w 25 7 with
  | 0 => some (.END)
  | 1 => some (.YIELD)
  | 2 => some (.TRAP (at_ 7 w) (at_ 13 w) (at_ 19 w))
  | 3 => some (.RETT)
  | 4 => some (.BRK)
  | 5 => some (.FENCE (at_ 13 w))
  | 6 => some (.SEQW (at_ 13 w) (at_ 19 w))
  | 7 => some (.WAITV (at_ 7 w) (at_ 13 w) (at_ 19 w))
  | 8 => some (.NOP)
  | _ => none

/-- The rows of W[6:0] = 0x07 by their function field (R88). -/
def decodeCsr (w : Nat) : Option Instr :=
  match bitsAt w 30 2 with
  | 0 => some (.CSRR (at_ 7 w) (at_ 19 w))
  | 1 => some (.CSRW (at_ 7 w) (at_ 13 w) (at_ 19 w))
  | 2 => some (.CSRS (at_ 7 w) (at_ 13 w) (at_ 19 w))
  | 3 => some (.CSRC (at_ 7 w) (at_ 13 w) (at_ 19 w))
  | _ => none

/-- The rows of W[6:0] = 0x09 by their function field (R88). -/
def decodeAlu (w : Nat) : Option Instr :=
  match bitsAt w 25 7 with
  | 0 => some (.ADD (at_ 7 w) (at_ 13 w) (at_ 19 w))
  | 1 => some (.SUB (at_ 7 w) (at_ 13 w) (at_ 19 w))
  | 2 => some (.MUL (at_ 7 w) (at_ 13 w) (at_ 19 w))
  | 3 => some (.MULH (at_ 7 w) (at_ 13 w) (at_ 19 w))
  | 4 => some (.MULHU (at_ 7 w) (at_ 13 w) (at_ 19 w))
  | 5 => some (.DIV (at_ 7 w) (at_ 13 w) (at_ 19 w))
  | 6 => some (.DIVU (at_ 7 w) (at_ 13 w) (at_ 19 w))
  | 7 => some (.REM (at_ 7 w) (at_ 13 w) (at_ 19 w))
  | 8 => some (.REMU (at_ 7 w) (at_ 13 w) (at_ 19 w))
  | 9 => some (.AND (at_ 7 w) (at_ 13 w) (at_ 19 w))
  | 10 => some (.OR (at_ 7 w) (at_ 13 w) (at_ 19 w))
  | 11 => some (.XOR (at_ 7 w) (at_ 13 w) (at_ 19 w))
  | 12 => some (.SHL (at_ 7 w) (at_ 13 w) (at_ 19 w))
  | 13 => some (.SHR (at_ 7 w) (at_ 13 w) (at_ 19 w))
  | 14 => some (.SHRA (at_ 7 w) (at_ 13 w) (at_ 19 w))
  | 15 => some (.MIN (at_ 7 w) (at_ 13 w) (at_ 19 w))
  | 16 => some (.MAX (at_ 7 w) (at_ 13 w) (at_ 19 w))
  | 17 => some (.MINU (at_ 7 w) (at_ 13 w) (at_ 19 w))
  | 18 => some (.MAXU (at_ 7 w) (at_ 13 w) (at_ 19 w))
  | 19 => some (.CLZ (at_ 7 w) (at_ 13 w))
  | 20 => some (.CTZ (at_ 7 w) (at_ 13 w))
  | 21 => some (.POPC (at_ 7 w) (at_ 13 w))
  | 22 => some (.CMPEQ (at_ 7 w) (at_ 13 w) (at_ 19 w))
  | 23 => some (.CMPNE (at_ 7 w) (at_ 13 w) (at_ 19 w))
  | 24 => some (.CMPLT (at_ 7 w) (at_ 13 w) (at_ 19 w))
  | 25 => some (.CMPLTU (at_ 7 w) (at_ 13 w) (at_ 19 w))
  | 26 => some (.CMPGE (at_ 7 w) (at_ 13 w) (at_ 19 w))
  | 27 => some (.CMPGEU (at_ 7 w) (at_ 13 w) (at_ 19 w))
  | 28 => some (.SEL (at_ 7 w) (at_ 13 w) (at_ 19 w))
  | 29 => some (.ADDW (at_ 7 w) (at_ 13 w) (at_ 19 w))
  | 30 => some (.SUBW (at_ 7 w) (at_ 13 w) (at_ 19 w))
  | 31 => some (.SH1ADD (at_ 7 w) (at_ 13 w) (at_ 19 w))
  | 32 => some (.SH2ADD (at_ 7 w) (at_ 13 w) (at_ 19 w))
  | 33 => some (.SH3ADD (at_ 7 w) (at_ 13 w) (at_ 19 w))
  | 34 => some (.BFX (at_ 7 w) (at_ 13 w) (at_ 19 w))
  | 35 => some (.BFI (at_ 7 w) (at_ 13 w) (at_ 19 w))
  | _ => none

/-- The rows of W[6:0] = 0x33 by their function field (R88). -/
def decodeLoad (w : Nat) : Option Instr :=
  match bitsAt w 19 3 with
  | 0 => some (.LD_B (at_ 7 w) (at_ 13 w) (at_ 22 w) (at_ 26 w))
  | 1 => some (.LD_BU (at_ 7 w) (at_ 13 w) (at_ 22 w) (at_ 26 w))
  | 2 => some (.LD_H (at_ 7 w) (at_ 13 w) (at_ 22 w) (at_ 26 w))
  | 3 => some (.LD_HU (at_ 7 w) (at_ 13 w) (at_ 22 w) (at_ 26 w))
  | 4 => some (.LD_W (at_ 7 w) (at_ 13 w) (at_ 22 w) (at_ 26 w))
  | 5 => some (.LD_WU (at_ 7 w) (at_ 13 w) (at_ 22 w) (at_ 26 w))
  | 6 => some (.LD_D (at_ 7 w) (at_ 13 w) (at_ 22 w) (at_ 26 w))
  | _ => none

/-- The rows of W[6:0] = 0x35 by their function field (R88). -/
def decodeStore (w : Nat) : Option Instr :=
  match bitsAt w 19 3 with
  | 0 => some (.ST_B (at_ 7 w) (at_ 13 w) (at_ 22 w) (at_ 26 w))
  | 2 => some (.ST_H (at_ 7 w) (at_ 13 w) (at_ 22 w) (at_ 26 w))
  | 4 => some (.ST_W (at_ 7 w) (at_ 13 w) (at_ 22 w) (at_ 26 w))
  | 6 => some (.ST_D (at_ 7 w) (at_ 13 w) (at_ 22 w) (at_ 26 w))
  | _ => none

/-- The rows of W[6:0] = 0x37 by their function field (R88). -/
def decodeFp (w : Nat) : Option Instr :=
  match bitsAt w 25 7 with
  | 0 => some (.FADD_S (at_ 7 w) (at_ 13 w) (at_ 19 w))
  | 1 => some (.FSUB_S (at_ 7 w) (at_ 13 w) (at_ 19 w))
  | 2 => some (.FMUL_S (at_ 7 w) (at_ 13 w) (at_ 19 w))
  | 3 => some (.FDIV_S (at_ 7 w) (at_ 13 w) (at_ 19 w))
  | 4 => some (.FSQRT_S (at_ 7 w) (at_ 13 w))
  | 5 => some (.FMIN_S (at_ 7 w) (at_ 13 w) (at_ 19 w))
  | 6 => some (.FMAX_S (at_ 7 w) (at_ 13 w) (at_ 19 w))
  | 7 => some (.FCMPEQ_S (at_ 7 w) (at_ 13 w) (at_ 19 w))
  | 8 => some (.FCMPLT_S (at_ 7 w) (at_ 13 w) (at_ 19 w))
  | 9 => some (.FCMPLE_S (at_ 7 w) (at_ 13 w) (at_ 19 w))
  | 10 => some (.FCLASS_S (at_ 7 w) (at_ 13 w))
  | 11 => some (.FMA_S (at_ 7 w) (at_ 13 w) (at_ 19 w))
  | 16 => some (.FADD_D (at_ 7 w) (at_ 13 w) (at_ 19 w))
  | 17 => some (.FSUB_D (at_ 7 w) (at_ 13 w) (at_ 19 w))
  | 18 => some (.FMUL_D (at_ 7 w) (at_ 13 w) (at_ 19 w))
  | 19 => some (.FDIV_D (at_ 7 w) (at_ 13 w) (at_ 19 w))
  | 20 => some (.FSQRT_D (at_ 7 w) (at_ 13 w))
  | 21 => some (.FMIN_D (at_ 7 w) (at_ 13 w) (at_ 19 w))
  | 22 => some (.FMAX_D (at_ 7 w) (at_ 13 w) (at_ 19 w))
  | 23 => some (.FCMPEQ_D (at_ 7 w) (at_ 13 w) (at_ 19 w))
  | 24 => some (.FCMPLT_D (at_ 7 w) (at_ 13 w) (at_ 19 w))
  | 25 => some (.FCMPLE_D (at_ 7 w) (at_ 13 w) (at_ 19 w))
  | 26 => some (.FCLASS_D (at_ 7 w) (at_ 13 w))
  | 27 => some (.FMA_D (at_ 7 w) (at_ 13 w) (at_ 19 w))
  | 40 => some (.FCVT_S_D (at_ 7 w) (at_ 13 w))
  | 41 => some (.FCVT_D_S (at_ 7 w) (at_ 13 w))
  | 42 => some (.FCVT_S_L (at_ 7 w) (at_ 13 w))
  | 43 => some (.FCVT_D_L (at_ 7 w) (at_ 13 w))
  | 44 => some (.FCVT_L_S (at_ 7 w) (at_ 13 w))
  | 45 => some (.FCVT_L_D (at_ 7 w) (at_ 13 w))
  | 46 => some (.FCVT_S_BF (at_ 7 w) (at_ 13 w))
  | 47 => some (.FCVT_BF_S (at_ 7 w) (at_ 13 w))
  | 48 => some (.FCVT_S_H (at_ 7 w) (at_ 13 w))
  | 49 => some (.FCVT_H_S (at_ 7 w) (at_ 13 w))
  | _ => none

/-- The rows of W[6:0] = 0x39 by their function field (R88). -/
def decodeVArith (w : Nat) : Option Instr :=
  match bitsAt w 28 4 with
  | 0 => some (.VADD (at_ 7 w) (at_ 12 w) (at_ 17 w) (at_ 22 w) (at_ 25 w))
  | 1 => some (.VSUB (at_ 7 w) (at_ 12 w) (at_ 17 w) (at_ 22 w) (at_ 25 w))
  | 2 => some (.VMUL (at_ 7 w) (at_ 12 w) (at_ 17 w) (at_ 22 w) (at_ 25 w))
  | 3 => some (.VFMA (at_ 7 w) (at_ 12 w) (at_ 17 w) (at_ 22 w) (at_ 25 w))
  | 4 => some (.VMIN (at_ 7 w) (at_ 12 w) (at_ 17 w) (at_ 22 w) (at_ 25 w))
  | 5 => some (.VMAX (at_ 7 w) (at_ 12 w) (at_ 17 w) (at_ 22 w) (at_ 25 w))
  | 6 => some (.VAND (at_ 7 w) (at_ 12 w) (at_ 17 w) (at_ 22 w) (at_ 25 w))
  | 7 => some (.VOR (at_ 7 w) (at_ 12 w) (at_ 17 w) (at_ 22 w) (at_ 25 w))
  | 8 => some (.VXOR (at_ 7 w) (at_ 12 w) (at_ 17 w) (at_ 22 w) (at_ 25 w))
  | 9 => some (.VSHL (at_ 7 w) (at_ 12 w) (at_ 17 w) (at_ 22 w) (at_ 25 w))
  | 10 => some (.VSHR (at_ 7 w) (at_ 12 w) (at_ 17 w) (at_ 22 w) (at_ 25 w))
  | 11 => some (.VCMPEQ (at_ 7 w) (at_ 12 w) (at_ 17 w) (at_ 22 w) (at_ 25 w))
  | 12 => some (.VCMPNE (at_ 7 w) (at_ 12 w) (at_ 17 w) (at_ 22 w) (at_ 25 w))
  | 13 => some (.VCMPLT (at_ 7 w) (at_ 12 w) (at_ 17 w) (at_ 22 w) (at_ 25 w))
  | 14 => some (.VCMPLE (at_ 7 w) (at_ 12 w) (at_ 17 w) (at_ 22 w) (at_ 25 w))
  | 15 => some (.VSEL (at_ 7 w) (at_ 12 w) (at_ 17 w) (at_ 22 w) (at_ 25 w))
  | _ => none

/-- The rows of W[6:0] = 0x3B by their function field (R88). -/
def decodeVUnary (w : Nat) : Option Instr :=
  match bitsAt w 28 4 with
  | 0 => some (.VNEG (at_ 7 w) (at_ 12 w) (at_ 22 w) (at_ 25 w))
  | 1 => some (.VABS (at_ 7 w) (at_ 12 w) (at_ 22 w) (at_ 25 w))
  | 2 => some (.VEXP2 (at_ 7 w) (at_ 12 w) (at_ 22 w) (at_ 25 w))
  | 3 => some (.VLOG2 (at_ 7 w) (at_ 12 w) (at_ 22 w) (at_ 25 w))
  | 4 => some (.VRCP (at_ 7 w) (at_ 12 w) (at_ 22 w) (at_ 25 w))
  | 5 => some (.VRSQ (at_ 7 w) (at_ 12 w) (at_ 22 w) (at_ 25 w))
  | 6 => some (.VSQRT (at_ 7 w) (at_ 12 w) (at_ 22 w) (at_ 25 w))
  | 7 => some (.VTANH (at_ 7 w) (at_ 12 w) (at_ 22 w) (at_ 25 w))
  | 8 => some (.VSIGM (at_ 7 w) (at_ 12 w) (at_ 22 w) (at_ 25 w))
  | 9 => some (.VFLOOR (at_ 7 w) (at_ 12 w) (at_ 22 w) (at_ 25 w))
  | 10 => some (.VCVT (at_ 7 w) (at_ 12 w) (at_ 17 w) (at_ 22 w) (at_ 25 w))
  | 11 => some (.VCOAL (at_ 7 w) (at_ 12 w) (at_ 22 w) (at_ 25 w))
  | 12 => some (.VMOV (at_ 7 w) (at_ 12 w) (at_ 22 w) (at_ 25 w))
  | 13 => some (.VSCAN (at_ 7 w) (at_ 12 w) (at_ 22 w) (at_ 25 w))
  | 14 => some (.VNOT (at_ 7 w) (at_ 12 w) (at_ 22 w) (at_ 25 w))
  | _ => none

/-- The rows of W[6:0] = 0x3D by their function field (R88). -/
def decodeVRed (w : Nat) : Option Instr :=
  match bitsAt w 28 4 with
  | 0 => some (.VRSUM (at_ 7 w) (at_ 12 w) (at_ 22 w) (at_ 25 w))
  | 1 => some (.VRMAX (at_ 7 w) (at_ 12 w) (at_ 22 w) (at_ 25 w))
  | 2 => some (.VRMIN (at_ 7 w) (at_ 12 w) (at_ 22 w) (at_ 25 w))
  | 3 => some (.VRCNT (at_ 7 w) (at_ 12 w) (at_ 22 w) (at_ 25 w))
  | 4 => some (.VRFIRST (at_ 7 w) (at_ 12 w) (at_ 22 w) (at_ 25 w))
  | 5 => some (.VLEN (at_ 7 w) (at_ 12 w) (at_ 25 w))
  | 6 => some (.VRUNS (at_ 7 w) (at_ 12 w) (at_ 25 w))
  | 7 => some (.VSPLAT (at_ 7 w) (at_ 12 w) (at_ 17 w) (at_ 22 w))
  | 8 => some (.VIOTA (at_ 7 w) (at_ 12 w) (at_ 17 w) (at_ 22 w))
  | 9 => some (.VSLICE (at_ 7 w) (at_ 12 w) (at_ 17 w))
  | 10 => some (.VCAT (at_ 7 w) (at_ 12 w) (at_ 17 w))
  | 11 => some (.VSETLEN (at_ 7 w) (at_ 12 w) (at_ 17 w))
  | 12 => some (.VEXTR (at_ 7 w) (at_ 12 w) (at_ 17 w))
  | 13 => some (.VINS (at_ 7 w) (at_ 12 w) (at_ 17 w))
  | _ => none

/-- The rows of W[6:0] = 0x3F by their function field (R88). -/
def decodeVMem (w : Nat) : Option Instr :=
  match bitsAt w 29 3 with
  | 0 => some (.VLD (at_ 7 w) (at_ 12 w) (at_ 17 w) (at_ 25 w))
  | 1 => some (.VLDS (at_ 7 w) (at_ 12 w) (at_ 17 w) (at_ 22 w) (at_ 25 w))
  | 2 => some (.VLDFF (at_ 7 w) (at_ 12 w) (at_ 17 w) (at_ 22 w) (at_ 25 w))
  | 3 => some (.VST (at_ 7 w) (at_ 12 w) (at_ 22 w) (at_ 25 w))
  | 4 => some (.VSTS (at_ 7 w) (at_ 12 w) (at_ 17 w) (at_ 22 w) (at_ 25 w))
  | 5 => some (.VPOP (at_ 7 w) (at_ 17 w) (at_ 22 w) (at_ 25 w))
  | _ => none

/-- The rows of W[6:0] = 0x41 by their function field (R88). -/
def decodePred (w : Nat) : Option Instr :=
  match bitsAt w 25 7 with
  | 0 => some (.PSET (at_ 7 w) (at_ 13 w) (at_ 19 w))
  | 1 => some (.PCNT (at_ 7 w) (at_ 13 w))
  | 2 => some (.PMIN (at_ 7 w) (at_ 13 w) (at_ 19 w))
  | 3 => some (.PGET (at_ 7 w) (at_ 13 w))
  | 4 => some (.PALL (at_ 7 w))
  | _ => none

/-- The rows of W[6:0] = 0x43 by their function field (R88). -/
def decodeEmb (w : Nat) : Option Instr :=
  match bitsAt w 25 7 with
  | 0 => some (.EALLOC (at_ 13 w) (at_ 19 w))
  | 1 => some (.EFREE (at_ 13 w) (at_ 19 w))
  | 2 => some (.ETOUCH (at_ 13 w) (at_ 19 w))
  | 3 => some (.EAGE (at_ 7 w) (at_ 13 w))
  | 4 => some (.ECLASS (at_ 13 w) (at_ 19 w))
  | _ => none

/-- The rows of W[6:0] = 0x45 by their function field (R88). -/
def decodeTd (w : Nat) : Option Instr :=
  match bitsAt w 25 7 with
  | 0 => some (.TDSET (at_ 13 w) (at_ 19 w))
  | 1 => some (.TDGET (at_ 7 w) (at_ 13 w))
  | 2 => some (.TDCOPY (at_ 13 w) (at_ 19 w))
  | 3 => some (.TDCLR (at_ 13 w))
  | 4 => some (.BSET (at_ 13 w) (at_ 19 w))
  | 5 => some (.BGET (at_ 7 w) (at_ 13 w))
  | _ => none

/-- The rows of W[6:0] = 0x47 by their function field (R88). -/
def decodeCopy (w : Nat) : Option Instr :=
  match bitsAt w 24 3 with
  | 0 => some (.COPY (at_ 7 w) (at_ 12 w) (at_ 18 w) (at_ 27 w))
  | 1 => some (.COPYX (at_ 7 w) (at_ 12 w) (at_ 18 w) (at_ 27 w) (at_ 28 w) (at_ 29 w))
  | 2 => some (.COPYM (at_ 7 w) (at_ 12 w) (at_ 18 w) (at_ 27 w) (at_ 28 w))
  | 3 => some (.COPYF (at_ 7 w) (at_ 12 w) (at_ 15 w) (at_ 18 w) (at_ 27 w))
  | 4 => some (.COPYT (at_ 7 w) (at_ 12 w) (at_ 18 w) (at_ 27 w))
  | 5 => some (.COPYO (at_ 7 w) (at_ 12 w) (at_ 18 w) (at_ 27 w))
  | 6 => some (.EXPORT (at_ 12 w) (at_ 18 w) (at_ 27 w))
  | _ => none

/-- The rows of W[6:0] = 0x49 by their function field (R88). -/
def decodeSwage (w : Nat) : Option Instr :=
  match bitsAt w 24 3 with
  | 0 => some (.SACC (at_ 12 w) (at_ 18 w) (at_ 27 w))
  | 1 => some (.SACCR (at_ 7 w) (at_ 12 w) (at_ 18 w) (at_ 27 w))
  | _ => none

/-- The rows of W[6:0] = 0x4B by their function field (R88). -/
def decodeRowMajor (w : Nat) : Option Instr :=
  match bitsAt w 24 3 with
  | 0 => some (.ROWSM (at_ 12 w) (at_ 18 w))
  | 1 => some (.ROWNM (at_ 7 w) (at_ 12 w) (at_ 18 w) (at_ 27 w))
  | 2 => some (.ROWLN (at_ 7 w) (at_ 12 w) (at_ 18 w) (at_ 27 w))
  | 3 => some (.ROWMX (at_ 12 w) (at_ 18 w))
  | _ => none

/-- The rows of W[6:0] = 0x4F by their function field (R88). -/
def decodeMTile (w : Nat) : Option Instr :=
  match bitsAt w 24 3 with
  | 0 => some (.MZERO (at_ 7 w) (at_ 27 w))
  | 1 => some (.MSTORE (at_ 7 w) (at_ 12 w))
  | 2 => some (.MLOAD (at_ 7 w) (at_ 18 w) (at_ 27 w))
  | _ => none

/-- The rows of W[6:0] = 0x51 by their function field (R88). -/
def decodeSync (w : Nat) : Option Instr :=
  match bitsAt w 25 7 with
  | 0 => some (.BAR (at_ 13 w))
  | 1 => some (.BARA (at_ 13 w))
  | 2 => some (.BARW (at_ 13 w))
  | 3 => some (.BARX (at_ 13 w))
  | 4 => some (.DEPDEC (at_ 13 w))
  | 5 => some (.SPAWN (at_ 13 w))
  | 6 => some (.SPATCH (at_ 13 w) (at_ 19 w))
  | _ => none

/-- The rows of W[6:0] = 0x53 by their function field (R88). -/
def decodePwr (w : Nat) : Option Instr :=
  match bitsAt w 25 7 with
  | 0 => some (.PWRQ (at_ 13 w))
  | 1 => some (.PWRL)
  | 2 => some (.PWRG (at_ 7 w))
  | _ => none

/-- The rows of W[6:0] = 0x55 by their function field (R88). -/
def decodeLink (w : Nat) : Option Instr :=
  match bitsAt w 24 3 with
  | 0 => some (.LXFER (at_ 7 w) (at_ 18 w) (at_ 27 w))
  | 1 => some (.LRECV (at_ 7 w) (at_ 12 w) (at_ 27 w))
  | 2 => some (.LRED (at_ 7 w) (at_ 12 w) (at_ 18 w) (at_ 27 w))
  | 3 => some (.LTOPK (at_ 7 w) (at_ 12 w) (at_ 18 w) (at_ 27 w))
  | _ => none

/-- The row of a 32-bit instruction, whatever its reserved bits hold (R87). -/
def decodeRow32 (w : Nat) : Option Instr :=
  match w % 128 with
  | 0x01 => decodeBlk w
  | 0x03 => decodeSys w
  | 0x05 => some (.WAIT (at_ 7 w) (at_ 13 w) (at_ 19 w) (at_ 25 w))
  | 0x07 => decodeCsr w
  | 0x09 => decodeAlu w
  | 0x0B => some (.ADDI (at_ 7 w) (at_ 13 w) (at_ 19 w))
  | 0x0D => some (.ANDI (at_ 7 w) (at_ 13 w) (at_ 19 w))
  | 0x0F => some (.ORI (at_ 7 w) (at_ 13 w) (at_ 19 w))
  | 0x11 => some (.XORI (at_ 7 w) (at_ 13 w) (at_ 19 w))
  | 0x13 => some (.SHLI (at_ 7 w) (at_ 13 w) (at_ 19 w))
  | 0x15 => some (.SHRI (at_ 7 w) (at_ 13 w) (at_ 19 w))
  | 0x17 => some (.SHRAI (at_ 7 w) (at_ 13 w) (at_ 19 w))
  | 0x19 => some (.CMPLTI (at_ 7 w) (at_ 13 w) (at_ 19 w))
  | 0x1B => some (.CMPEQI (at_ 7 w) (at_ 13 w) (at_ 19 w))
  | 0x1D => some (.LI (at_ 7 w) (at_ 13 w))
  | 0x1F => some (.LUI (at_ 7 w) (at_ 13 w))
  | 0x21 => some (.BEQ (at_ 7 w) (at_ 13 w) (at_ 19 w) (at_ 21 w))
  | 0x23 => some (.BNE (at_ 7 w) (at_ 13 w) (at_ 19 w) (at_ 21 w))
  | 0x25 => some (.BLT (at_ 7 w) (at_ 13 w) (at_ 19 w) (at_ 21 w))
  | 0x27 => some (.BGE (at_ 7 w) (at_ 13 w) (at_ 19 w) (at_ 21 w))
  | 0x29 => some (.BLTU (at_ 7 w) (at_ 13 w) (at_ 19 w) (at_ 21 w))
  | 0x2B => some (.BGEU (at_ 7 w) (at_ 13 w) (at_ 19 w) (at_ 21 w))
  | 0x2D => some (.J (at_ 13 w))
  | 0x2F => some (.JAL (at_ 7 w) (at_ 13 w))
  | 0x31 => some (.JALR (at_ 7 w) (at_ 13 w) (at_ 19 w))
  | 0x33 => decodeLoad w
  | 0x35 => decodeStore w
  | 0x37 => decodeFp w
  | 0x39 => decodeVArith w
  | 0x3B => decodeVUnary w
  | 0x3D => decodeVRed w
  | 0x3F => decodeVMem w
  | 0x41 => decodePred w
  | 0x43 => decodeEmb w
  | 0x45 => decodeTd w
  | 0x47 => decodeCopy w
  | 0x49 => decodeSwage w
  | 0x4B => decodeRowMajor w
  | 0x4D => some (.MMA (at_ 7 w) (at_ 9 w) (at_ 15 w) (at_ 21 w) (at_ 23 w) (at_ 29 w) (at_ 30 w))
  | 0x4F => decodeMTile w
  | 0x51 => decodeSync w
  | 0x53 => decodePwr w
  | 0x55 => decodeLink w
  | 0x57 => some (.STAMP (at_ 7 w))
  | _ => none

/-- The row of a 16-bit instruction (R90). -/
def decodeRow16 (w : Nat) : Option Instr :=
  match w % 32 with
  | 0x00 => some (.C_CLS (at_ 5 w) (at_ 9 w) (at_ 10 w) (at_ 11 w))
  | 0x02 => some (.C_ADDI (at_ 5 w) (at_ 10 w))
  | 0x04 => some (.C_ADD (at_ 5 w) (at_ 10 w))
  | 0x06 => some (.C_MV (at_ 5 w) (at_ 10 w))
  | 0x08 => some (.C_LI (at_ 5 w) (at_ 10 w))
  | 0x0A => some (.C_BZ (at_ 5 w) (at_ 10 w))
  | 0x0C => some (.C_BNZ (at_ 5 w) (at_ 10 w))
  | 0x0E => some (.C_J (at_ 5 w))
  | 0x10 => some (.C_LDD (at_ 5 w) (at_ 10 w) (at_ 13 w))
  | 0x12 => some (.C_STD (at_ 5 w) (at_ 10 w) (at_ 13 w))
  | 0x14 => some (.C_WAIT (at_ 5 w) (at_ 10 w))
  | 0x16 => some (.C_SHLI (at_ 5 w) (at_ 10 w))
  | 0x18 => some (.C_SUB (at_ 5 w) (at_ 10 w))
  | 0x1A => some (.C_AND (at_ 5 w) (at_ 10 w))
  | 0x1C => if bitsAt w 5 1 = 0 then some .C_NOP else some .C_BRK
  | _ => none

/-- The size in bits of an instruction whose first parcel is `p` (R77). -/
def sizeOfParcel (p : Nat) : Nat := if p % 2 = 0 then 16 else 32

/-- The row a word belongs to, by its size (R77). -/
def decodeRow (w : Nat) : Option Instr :=
  if w % 2 = 0 then decodeRow16 (w % 2 ^ 16) else decodeRow32 (w % 2 ^ 32)

/-- The fields of a word put at their places over the fixed bits `m` (R82). -/
def word (n m : Nat) (fields : List (Nat × Nat)) : Nat × Nat :=
  (n, fields.foldl (fun acc f => acc + f.2 * 2 ^ f.1) m)

/-- The word of an instruction row with its size in bits; an event has none. -/
def encode : Instr → Nat × Nat
  | .BLK_IMMEDIATE l r => word 32 0x1 [(7, l.toNat), (18, r.toNat)]
  | .BLK_REGISTER l s => word 32 0x20001 [(7, l.toNat), (18, s.toNat)]
  | .END => word 32 0x3 []
  | .YIELD => word 32 0x2000003 []
  | .TRAP d a b => word 32 0x4000003 [(7, d.toNat), (13, a.toNat), (19, b.toNat)]
  | .RETT => word 32 0x6000003 []
  | .BRK => word 32 0x8000003 []
  | .FENCE a => word 32 0xA000003 [(13, a.toNat)]
  | .SEQW a b => word 32 0xC000003 [(13, a.toNat), (19, b.toNat)]
  | .WAITV c a b => word 32 0xE000003 [(7, c.toNat), (13, a.toNat), (19, b.toNat)]
  | .NOP => word 32 0x10000003 []
  | .WAIT l s c t => word 32 0x5 [(7, l.toNat), (13, s.toNat), (19, c.toNat), (25, t.toNat)]
  | .CSRR d c => word 32 0x7 [(7, d.toNat), (19, c.toNat)]
  | .CSRW d a c => word 32 0x40000007 [(7, d.toNat), (13, a.toNat), (19, c.toNat)]
  | .CSRS d a c => word 32 0x80000007 [(7, d.toNat), (13, a.toNat), (19, c.toNat)]
  | .CSRC d a c => word 32 0xC0000007 [(7, d.toNat), (13, a.toNat), (19, c.toNat)]
  | .ADD d a b => word 32 0x9 [(7, d.toNat), (13, a.toNat), (19, b.toNat)]
  | .SUB d a b => word 32 0x2000009 [(7, d.toNat), (13, a.toNat), (19, b.toNat)]
  | .MUL d a b => word 32 0x4000009 [(7, d.toNat), (13, a.toNat), (19, b.toNat)]
  | .MULH d a b => word 32 0x6000009 [(7, d.toNat), (13, a.toNat), (19, b.toNat)]
  | .MULHU d a b => word 32 0x8000009 [(7, d.toNat), (13, a.toNat), (19, b.toNat)]
  | .DIV d a b => word 32 0xA000009 [(7, d.toNat), (13, a.toNat), (19, b.toNat)]
  | .DIVU d a b => word 32 0xC000009 [(7, d.toNat), (13, a.toNat), (19, b.toNat)]
  | .REM d a b => word 32 0xE000009 [(7, d.toNat), (13, a.toNat), (19, b.toNat)]
  | .REMU d a b => word 32 0x10000009 [(7, d.toNat), (13, a.toNat), (19, b.toNat)]
  | .AND d a b => word 32 0x12000009 [(7, d.toNat), (13, a.toNat), (19, b.toNat)]
  | .OR d a b => word 32 0x14000009 [(7, d.toNat), (13, a.toNat), (19, b.toNat)]
  | .XOR d a b => word 32 0x16000009 [(7, d.toNat), (13, a.toNat), (19, b.toNat)]
  | .SHL d a b => word 32 0x18000009 [(7, d.toNat), (13, a.toNat), (19, b.toNat)]
  | .SHR d a b => word 32 0x1A000009 [(7, d.toNat), (13, a.toNat), (19, b.toNat)]
  | .SHRA d a b => word 32 0x1C000009 [(7, d.toNat), (13, a.toNat), (19, b.toNat)]
  | .MIN d a b => word 32 0x1E000009 [(7, d.toNat), (13, a.toNat), (19, b.toNat)]
  | .MAX d a b => word 32 0x20000009 [(7, d.toNat), (13, a.toNat), (19, b.toNat)]
  | .MINU d a b => word 32 0x22000009 [(7, d.toNat), (13, a.toNat), (19, b.toNat)]
  | .MAXU d a b => word 32 0x24000009 [(7, d.toNat), (13, a.toNat), (19, b.toNat)]
  | .CLZ d a => word 32 0x26000009 [(7, d.toNat), (13, a.toNat)]
  | .CTZ d a => word 32 0x28000009 [(7, d.toNat), (13, a.toNat)]
  | .POPC d a => word 32 0x2A000009 [(7, d.toNat), (13, a.toNat)]
  | .CMPEQ d a b => word 32 0x2C000009 [(7, d.toNat), (13, a.toNat), (19, b.toNat)]
  | .CMPNE d a b => word 32 0x2E000009 [(7, d.toNat), (13, a.toNat), (19, b.toNat)]
  | .CMPLT d a b => word 32 0x30000009 [(7, d.toNat), (13, a.toNat), (19, b.toNat)]
  | .CMPLTU d a b => word 32 0x32000009 [(7, d.toNat), (13, a.toNat), (19, b.toNat)]
  | .CMPGE d a b => word 32 0x34000009 [(7, d.toNat), (13, a.toNat), (19, b.toNat)]
  | .CMPGEU d a b => word 32 0x36000009 [(7, d.toNat), (13, a.toNat), (19, b.toNat)]
  | .SEL d a b => word 32 0x38000009 [(7, d.toNat), (13, a.toNat), (19, b.toNat)]
  | .ADDW d a b => word 32 0x3A000009 [(7, d.toNat), (13, a.toNat), (19, b.toNat)]
  | .SUBW d a b => word 32 0x3C000009 [(7, d.toNat), (13, a.toNat), (19, b.toNat)]
  | .SH1ADD d a b => word 32 0x3E000009 [(7, d.toNat), (13, a.toNat), (19, b.toNat)]
  | .SH2ADD d a b => word 32 0x40000009 [(7, d.toNat), (13, a.toNat), (19, b.toNat)]
  | .SH3ADD d a b => word 32 0x42000009 [(7, d.toNat), (13, a.toNat), (19, b.toNat)]
  | .BFX d a b => word 32 0x44000009 [(7, d.toNat), (13, a.toNat), (19, b.toNat)]
  | .BFI d a b => word 32 0x46000009 [(7, d.toNat), (13, a.toNat), (19, b.toNat)]
  | .ADDI d a i => word 32 0xB [(7, d.toNat), (13, a.toNat), (19, i.toNat)]
  | .ANDI d a i => word 32 0xD [(7, d.toNat), (13, a.toNat), (19, i.toNat)]
  | .ORI d a i => word 32 0xF [(7, d.toNat), (13, a.toNat), (19, i.toNat)]
  | .XORI d a i => word 32 0x11 [(7, d.toNat), (13, a.toNat), (19, i.toNat)]
  | .SHLI d a s => word 32 0x13 [(7, d.toNat), (13, a.toNat), (19, s.toNat)]
  | .SHRI d a s => word 32 0x15 [(7, d.toNat), (13, a.toNat), (19, s.toNat)]
  | .SHRAI d a s => word 32 0x17 [(7, d.toNat), (13, a.toNat), (19, s.toNat)]
  | .CMPLTI d a i => word 32 0x19 [(7, d.toNat), (13, a.toNat), (19, i.toNat)]
  | .CMPEQI d a i => word 32 0x1B [(7, d.toNat), (13, a.toNat), (19, i.toNat)]
  | .LI d i => word 32 0x1D [(7, d.toNat), (13, i.toNat)]
  | .LUI d i => word 32 0x1F [(7, d.toNat), (13, i.toNat)]
  | .BEQ a b n o => word 32 0x21 [(7, a.toNat), (13, b.toNat), (19, n.toNat), (21, o.toNat)]
  | .BNE a b n o => word 32 0x23 [(7, a.toNat), (13, b.toNat), (19, n.toNat), (21, o.toNat)]
  | .BLT a b n o => word 32 0x25 [(7, a.toNat), (13, b.toNat), (19, n.toNat), (21, o.toNat)]
  | .BGE a b n o => word 32 0x27 [(7, a.toNat), (13, b.toNat), (19, n.toNat), (21, o.toNat)]
  | .BLTU a b n o => word 32 0x29 [(7, a.toNat), (13, b.toNat), (19, n.toNat), (21, o.toNat)]
  | .BGEU a b n o => word 32 0x2B [(7, a.toNat), (13, b.toNat), (19, n.toNat), (21, o.toNat)]
  | .J o => word 32 0x2D [(13, o.toNat)]
  | .JAL d o => word 32 0x2F [(7, d.toNat), (13, o.toNat)]
  | .JALR d a i => word 32 0x31 [(7, d.toNat), (13, a.toNat), (19, i.toNat)]
  | .LD_B t a c i => word 32 0x33 [(7, t.toNat), (13, a.toNat), (22, c.toNat), (26, i.toNat)]
  | .LD_BU t a c i => word 32 0x80033 [(7, t.toNat), (13, a.toNat), (22, c.toNat), (26, i.toNat)]
  | .LD_H t a c i => word 32 0x100033 [(7, t.toNat), (13, a.toNat), (22, c.toNat), (26, i.toNat)]
  | .LD_HU t a c i => word 32 0x180033 [(7, t.toNat), (13, a.toNat), (22, c.toNat), (26, i.toNat)]
  | .LD_W t a c i => word 32 0x200033 [(7, t.toNat), (13, a.toNat), (22, c.toNat), (26, i.toNat)]
  | .LD_WU t a c i => word 32 0x280033 [(7, t.toNat), (13, a.toNat), (22, c.toNat), (26, i.toNat)]
  | .LD_D t a c i => word 32 0x300033 [(7, t.toNat), (13, a.toNat), (22, c.toNat), (26, i.toNat)]
  | .ST_B t a c i => word 32 0x35 [(7, t.toNat), (13, a.toNat), (22, c.toNat), (26, i.toNat)]
  | .ST_H t a c i => word 32 0x100035 [(7, t.toNat), (13, a.toNat), (22, c.toNat), (26, i.toNat)]
  | .ST_W t a c i => word 32 0x200035 [(7, t.toNat), (13, a.toNat), (22, c.toNat), (26, i.toNat)]
  | .ST_D t a c i => word 32 0x300035 [(7, t.toNat), (13, a.toNat), (22, c.toNat), (26, i.toNat)]
  | .FADD_S d a b => word 32 0x37 [(7, d.toNat), (13, a.toNat), (19, b.toNat)]
  | .FSUB_S d a b => word 32 0x2000037 [(7, d.toNat), (13, a.toNat), (19, b.toNat)]
  | .FMUL_S d a b => word 32 0x4000037 [(7, d.toNat), (13, a.toNat), (19, b.toNat)]
  | .FDIV_S d a b => word 32 0x6000037 [(7, d.toNat), (13, a.toNat), (19, b.toNat)]
  | .FSQRT_S d a => word 32 0x8000037 [(7, d.toNat), (13, a.toNat)]
  | .FMIN_S d a b => word 32 0xA000037 [(7, d.toNat), (13, a.toNat), (19, b.toNat)]
  | .FMAX_S d a b => word 32 0xC000037 [(7, d.toNat), (13, a.toNat), (19, b.toNat)]
  | .FCMPEQ_S d a b => word 32 0xE000037 [(7, d.toNat), (13, a.toNat), (19, b.toNat)]
  | .FCMPLT_S d a b => word 32 0x10000037 [(7, d.toNat), (13, a.toNat), (19, b.toNat)]
  | .FCMPLE_S d a b => word 32 0x12000037 [(7, d.toNat), (13, a.toNat), (19, b.toNat)]
  | .FCLASS_S d a => word 32 0x14000037 [(7, d.toNat), (13, a.toNat)]
  | .FMA_S d a b => word 32 0x16000037 [(7, d.toNat), (13, a.toNat), (19, b.toNat)]
  | .FADD_D d a b => word 32 0x20000037 [(7, d.toNat), (13, a.toNat), (19, b.toNat)]
  | .FSUB_D d a b => word 32 0x22000037 [(7, d.toNat), (13, a.toNat), (19, b.toNat)]
  | .FMUL_D d a b => word 32 0x24000037 [(7, d.toNat), (13, a.toNat), (19, b.toNat)]
  | .FDIV_D d a b => word 32 0x26000037 [(7, d.toNat), (13, a.toNat), (19, b.toNat)]
  | .FSQRT_D d a => word 32 0x28000037 [(7, d.toNat), (13, a.toNat)]
  | .FMIN_D d a b => word 32 0x2A000037 [(7, d.toNat), (13, a.toNat), (19, b.toNat)]
  | .FMAX_D d a b => word 32 0x2C000037 [(7, d.toNat), (13, a.toNat), (19, b.toNat)]
  | .FCMPEQ_D d a b => word 32 0x2E000037 [(7, d.toNat), (13, a.toNat), (19, b.toNat)]
  | .FCMPLT_D d a b => word 32 0x30000037 [(7, d.toNat), (13, a.toNat), (19, b.toNat)]
  | .FCMPLE_D d a b => word 32 0x32000037 [(7, d.toNat), (13, a.toNat), (19, b.toNat)]
  | .FCLASS_D d a => word 32 0x34000037 [(7, d.toNat), (13, a.toNat)]
  | .FMA_D d a b => word 32 0x36000037 [(7, d.toNat), (13, a.toNat), (19, b.toNat)]
  | .FCVT_S_D d a => word 32 0x50000037 [(7, d.toNat), (13, a.toNat)]
  | .FCVT_D_S d a => word 32 0x52000037 [(7, d.toNat), (13, a.toNat)]
  | .FCVT_S_L d a => word 32 0x54000037 [(7, d.toNat), (13, a.toNat)]
  | .FCVT_D_L d a => word 32 0x56000037 [(7, d.toNat), (13, a.toNat)]
  | .FCVT_L_S d a => word 32 0x58000037 [(7, d.toNat), (13, a.toNat)]
  | .FCVT_L_D d a => word 32 0x5A000037 [(7, d.toNat), (13, a.toNat)]
  | .FCVT_S_BF d a => word 32 0x5C000037 [(7, d.toNat), (13, a.toNat)]
  | .FCVT_BF_S d a => word 32 0x5E000037 [(7, d.toNat), (13, a.toNat)]
  | .FCVT_S_H d a => word 32 0x60000037 [(7, d.toNat), (13, a.toNat)]
  | .FCVT_H_S d a => word 32 0x62000037 [(7, d.toNat), (13, a.toNat)]
  | .VADD d a b k g => word 32 0x39 [(7, d.toNat), (12, a.toNat), (17, b.toNat), (22, k.toNat), (25, g.toNat)]
  | .VSUB d a b k g => word 32 0x10000039 [(7, d.toNat), (12, a.toNat), (17, b.toNat), (22, k.toNat), (25, g.toNat)]
  | .VMUL d a b k g => word 32 0x20000039 [(7, d.toNat), (12, a.toNat), (17, b.toNat), (22, k.toNat), (25, g.toNat)]
  | .VFMA d a b k g => word 32 0x30000039 [(7, d.toNat), (12, a.toNat), (17, b.toNat), (22, k.toNat), (25, g.toNat)]
  | .VMIN d a b k g => word 32 0x40000039 [(7, d.toNat), (12, a.toNat), (17, b.toNat), (22, k.toNat), (25, g.toNat)]
  | .VMAX d a b k g => word 32 0x50000039 [(7, d.toNat), (12, a.toNat), (17, b.toNat), (22, k.toNat), (25, g.toNat)]
  | .VAND d a b k g => word 32 0x60000039 [(7, d.toNat), (12, a.toNat), (17, b.toNat), (22, k.toNat), (25, g.toNat)]
  | .VOR d a b k g => word 32 0x70000039 [(7, d.toNat), (12, a.toNat), (17, b.toNat), (22, k.toNat), (25, g.toNat)]
  | .VXOR d a b k g => word 32 0x80000039 [(7, d.toNat), (12, a.toNat), (17, b.toNat), (22, k.toNat), (25, g.toNat)]
  | .VSHL d a b k g => word 32 0x90000039 [(7, d.toNat), (12, a.toNat), (17, b.toNat), (22, k.toNat), (25, g.toNat)]
  | .VSHR d a b k g => word 32 0xA0000039 [(7, d.toNat), (12, a.toNat), (17, b.toNat), (22, k.toNat), (25, g.toNat)]
  | .VCMPEQ d a b k g => word 32 0xB0000039 [(7, d.toNat), (12, a.toNat), (17, b.toNat), (22, k.toNat), (25, g.toNat)]
  | .VCMPNE d a b k g => word 32 0xC0000039 [(7, d.toNat), (12, a.toNat), (17, b.toNat), (22, k.toNat), (25, g.toNat)]
  | .VCMPLT d a b k g => word 32 0xD0000039 [(7, d.toNat), (12, a.toNat), (17, b.toNat), (22, k.toNat), (25, g.toNat)]
  | .VCMPLE d a b k g => word 32 0xE0000039 [(7, d.toNat), (12, a.toNat), (17, b.toNat), (22, k.toNat), (25, g.toNat)]
  | .VSEL d a b k g => word 32 0xF0000039 [(7, d.toNat), (12, a.toNat), (17, b.toNat), (22, k.toNat), (25, g.toNat)]
  | .VNEG d a k g => word 32 0x3B [(7, d.toNat), (12, a.toNat), (22, k.toNat), (25, g.toNat)]
  | .VABS d a k g => word 32 0x1000003B [(7, d.toNat), (12, a.toNat), (22, k.toNat), (25, g.toNat)]
  | .VEXP2 d a k g => word 32 0x2000003B [(7, d.toNat), (12, a.toNat), (22, k.toNat), (25, g.toNat)]
  | .VLOG2 d a k g => word 32 0x3000003B [(7, d.toNat), (12, a.toNat), (22, k.toNat), (25, g.toNat)]
  | .VRCP d a k g => word 32 0x4000003B [(7, d.toNat), (12, a.toNat), (22, k.toNat), (25, g.toNat)]
  | .VRSQ d a k g => word 32 0x5000003B [(7, d.toNat), (12, a.toNat), (22, k.toNat), (25, g.toNat)]
  | .VSQRT d a k g => word 32 0x6000003B [(7, d.toNat), (12, a.toNat), (22, k.toNat), (25, g.toNat)]
  | .VTANH d a k g => word 32 0x7000003B [(7, d.toNat), (12, a.toNat), (22, k.toNat), (25, g.toNat)]
  | .VSIGM d a k g => word 32 0x8000003B [(7, d.toNat), (12, a.toNat), (22, k.toNat), (25, g.toNat)]
  | .VFLOOR d a k g => word 32 0x9000003B [(7, d.toNat), (12, a.toNat), (22, k.toNat), (25, g.toNat)]
  | .VCVT d a f k g => word 32 0xA000003B [(7, d.toNat), (12, a.toNat), (17, f.toNat), (22, k.toNat), (25, g.toNat)]
  | .VCOAL d a k g => word 32 0xB000003B [(7, d.toNat), (12, a.toNat), (22, k.toNat), (25, g.toNat)]
  | .VMOV d a k g => word 32 0xC000003B [(7, d.toNat), (12, a.toNat), (22, k.toNat), (25, g.toNat)]
  | .VSCAN d a k g => word 32 0xD000003B [(7, d.toNat), (12, a.toNat), (22, k.toNat), (25, g.toNat)]
  | .VNOT d a k g => word 32 0xE000003B [(7, d.toNat), (12, a.toNat), (22, k.toNat), (25, g.toNat)]
  | .VRSUM d a k g => word 32 0x3D [(7, d.toNat), (12, a.toNat), (22, k.toNat), (25, g.toNat)]
  | .VRMAX d a k g => word 32 0x1000003D [(7, d.toNat), (12, a.toNat), (22, k.toNat), (25, g.toNat)]
  | .VRMIN d a k g => word 32 0x2000003D [(7, d.toNat), (12, a.toNat), (22, k.toNat), (25, g.toNat)]
  | .VRCNT d a k g => word 32 0x3000003D [(7, d.toNat), (12, a.toNat), (22, k.toNat), (25, g.toNat)]
  | .VRFIRST d a k g => word 32 0x4000003D [(7, d.toNat), (12, a.toNat), (22, k.toNat), (25, g.toNat)]
  | .VLEN d a g => word 32 0x5000003D [(7, d.toNat), (12, a.toNat), (25, g.toNat)]
  | .VRUNS d a g => word 32 0x6000003D [(7, d.toNat), (12, a.toNat), (25, g.toNat)]
  | .VSPLAT d a b k => word 32 0x7200003D [(7, d.toNat), (12, a.toNat), (17, b.toNat), (22, k.toNat)]
  | .VIOTA d a b k => word 32 0x8200003D [(7, d.toNat), (12, a.toNat), (17, b.toNat), (22, k.toNat)]
  | .VSLICE d a b => word 32 0x9200003D [(7, d.toNat), (12, a.toNat), (17, b.toNat)]
  | .VCAT d a b => word 32 0xA200003D [(7, d.toNat), (12, a.toNat), (17, b.toNat)]
  | .VSETLEN d a b => word 32 0xB200003D [(7, d.toNat), (12, a.toNat), (17, b.toNat)]
  | .VEXTR d a b => word 32 0xC200003D [(7, d.toNat), (12, a.toNat), (17, b.toNat)]
  | .VINS d a b => word 32 0xD200003D [(7, d.toNat), (12, a.toNat), (17, b.toNat)]
  | .VLD d a b m => word 32 0x3F [(7, d.toNat), (12, a.toNat), (17, b.toNat), (25, m.toNat)]
  | .VLDS d a b k m => word 32 0x2000003F [(7, d.toNat), (12, a.toNat), (17, b.toNat), (22, k.toNat), (25, m.toNat)]
  | .VLDFF d a b k m => word 32 0x4000003F [(7, d.toNat), (12, a.toNat), (17, b.toNat), (22, k.toNat), (25, m.toNat)]
  | .VST d a k m => word 32 0x6000003F [(7, d.toNat), (12, a.toNat), (22, k.toNat), (25, m.toNat)]
  | .VSTS d a b k m => word 32 0x8000003F [(7, d.toNat), (12, a.toNat), (17, b.toNat), (22, k.toNat), (25, m.toNat)]
  | .VPOP d b n m => word 32 0xA000003F [(7, d.toNat), (17, b.toNat), (22, n.toNat), (25, m.toNat)]
  | .PSET k a w => word 32 0x41 [(7, k.toNat), (13, a.toNat), (19, w.toNat)]
  | .PCNT k a => word 32 0x2000041 [(7, k.toNat), (13, a.toNat)]
  | .PMIN k i j => word 32 0x4000041 [(7, k.toNat), (13, i.toNat), (19, j.toNat)]
  | .PGET d i => word 32 0x6000041 [(7, d.toNat), (13, i.toNat)]
  | .PALL k => word 32 0x8000041 [(7, k.toNat)]
  | .EALLOC a b => word 32 0x43 [(13, a.toNat), (19, b.toNat)]
  | .EFREE a b => word 32 0x2000043 [(13, a.toNat), (19, b.toNat)]
  | .ETOUCH a b => word 32 0x4000043 [(13, a.toNat), (19, b.toNat)]
  | .EAGE d a => word 32 0x6000043 [(7, d.toNat), (13, a.toNat)]
  | .ECLASS a b => word 32 0x8000043 [(13, a.toNat), (19, b.toNat)]
  | .TDSET a b => word 32 0x45 [(13, a.toNat), (19, b.toNat)]
  | .TDGET d a => word 32 0x2000045 [(7, d.toNat), (13, a.toNat)]
  | .TDCOPY a b => word 32 0x4000045 [(13, a.toNat), (19, b.toNat)]
  | .TDCLR a => word 32 0x6000045 [(13, a.toNat)]
  | .BSET a b => word 32 0x8000045 [(13, a.toNat), (19, b.toNat)]
  | .BGET d a => word 32 0xA000045 [(7, d.toNat), (13, a.toNat)]
  | .COPY x y z t => word 32 0x47 [(7, x.toNat), (12, y.toNat), (18, z.toNat), (27, t.toNat)]
  | .COPYX x y z t f s => word 32 0x1000047 [(7, x.toNat), (12, y.toNat), (18, z.toNat), (27, t.toNat), (28, f.toNat), (29, s.toNat)]
  | .COPYM x y z t l => word 32 0x2000847 [(7, x.toNat), (12, y.toNat), (18, z.toNat), (27, t.toNat), (28, l.toNat)]
  | .COPYF x p n z t => word 32 0x3000047 [(7, x.toNat), (12, p.toNat), (15, n.toNat), (18, z.toNat), (27, t.toNat)]
  | .COPYT x y z t => word 32 0x4000047 [(7, x.toNat), (12, y.toNat), (18, z.toNat), (27, t.toNat)]
  | .COPYO x y z t => word 32 0x5000047 [(7, x.toNat), (12, y.toNat), (18, z.toNat), (27, t.toNat)]
  | .EXPORT y z t => word 32 0x6000047 [(12, y.toNat), (18, z.toNat), (27, t.toNat)]
  | .SACC y z o => word 32 0x49 [(12, y.toNat), (18, z.toNat), (27, o.toNat)]
  | .SACCR f y z o => word 32 0x1000049 [(7, f.toNat), (12, y.toNat), (18, z.toNat), (27, o.toNat)]
  | .ROWSM y z => word 32 0x4B [(12, y.toNat), (18, z.toNat)]
  | .ROWNM x y z e => word 32 0x100004B [(7, x.toNat), (12, y.toNat), (18, z.toNat), (27, e.toNat)]
  | .ROWLN x y z e => word 32 0x200004B [(7, x.toNat), (12, y.toNat), (18, z.toNat), (27, e.toNat)]
  | .ROWMX y z => word 32 0x300004B [(12, y.toNat), (18, z.toNat)]
  | .MMA t a b m n c s => word 32 0x4D [(7, t.toNat), (9, a.toNat), (15, b.toNat), (21, m.toNat), (23, n.toNat), (29, c.toNat), (30, s.toNat)]
  | .MZERO t f => word 32 0x4F [(7, t.toNat), (27, f.toNat)]
  | .MSTORE t y => word 32 0x100004F [(7, t.toNat), (12, y.toNat)]
  | .MLOAD t z f => word 32 0x200004F [(7, t.toNat), (18, z.toNat), (27, f.toNat)]
  | .BAR a => word 32 0x51 [(13, a.toNat)]
  | .BARA a => word 32 0x2000051 [(13, a.toNat)]
  | .BARW a => word 32 0x4000051 [(13, a.toNat)]
  | .BARX a => word 32 0x6000051 [(13, a.toNat)]
  | .DEPDEC a => word 32 0x8000051 [(13, a.toNat)]
  | .SPAWN a => word 32 0xA000051 [(13, a.toNat)]
  | .SPATCH a b => word 32 0xC000051 [(13, a.toNat), (19, b.toNat)]
  | .PWRQ a => word 32 0x53 [(13, a.toNat)]
  | .PWRL => word 32 0x2000053 []
  | .PWRG d => word 32 0x4000053 [(7, d.toNat)]
  | .LXFER b z p => word 32 0x855 [(7, b.toNat), (18, z.toNat), (27, p.toNat)]
  | .LRECV b y p => word 32 0x1000855 [(7, b.toNat), (12, y.toNat), (27, p.toNat)]
  | .LRED b y z p => word 32 0x2000855 [(7, b.toNat), (12, y.toNat), (18, z.toNat), (27, p.toNat)]
  | .LTOPK b y z p => word 32 0x3000855 [(7, b.toNat), (12, y.toNat), (18, z.toNat), (27, p.toNat)]
  | .STAMP n => word 32 0x57 [(7, n.toNat)]
  | .C_CLS c a r s => word 16 0x0 [(5, c.toNat), (9, a.toNat), (10, r.toNat), (11, s.toNat)]
  | .C_ADDI d i => word 16 0x2 [(5, d.toNat), (10, i.toNat)]
  | .C_ADD d a => word 16 0x4 [(5, d.toNat), (10, a.toNat)]
  | .C_MV d a => word 16 0x6 [(5, d.toNat), (10, a.toNat)]
  | .C_LI d i => word 16 0x8 [(5, d.toNat), (10, i.toNat)]
  | .C_BZ a o => word 16 0xA [(5, a.toNat), (10, o.toNat)]
  | .C_BNZ a o => word 16 0xC [(5, a.toNat), (10, o.toNat)]
  | .C_J o => word 16 0xE [(5, o.toNat)]
  | .C_LDD d b o => word 16 0x10 [(5, d.toNat), (10, b.toNat), (13, o.toNat)]
  | .C_STD t b o => word 16 0x12 [(5, t.toNat), (10, b.toNat), (13, o.toNat)]
  | .C_WAIT c t => word 16 0x14 [(5, c.toNat), (10, t.toNat)]
  | .C_SHLI d s => word 16 0x16 [(5, d.toNat), (10, s.toNat)]
  | .C_SUB d a => word 16 0x18 [(5, d.toNat), (10, a.toNat)]
  | .C_AND d a => word 16 0x1A [(5, d.toNat), (10, a.toNat)]
  | .C_NOP => word 16 0x1C []
  | .C_BRK => word 16 0x3C []
  | .ANNULLED_POSITION .. => (0, 0)
  | .RESULT_LANDING .. => (0, 0)
  | .VECTOR_OCCUPANCY_END .. => (0, 0)
  | .ISSUE_STALL_RELEASE .. => (0, 0)
  | .WAIT_CONDITION_MET .. => (0, 0)
  | .WAITV_READ .. => (0, 0)
  | .EXPOSED_STORE_WRITE .. => (0, 0)
  | .WRITE_HOLD_DRAIN .. => (0, 0)
  | .LANDING_ENTRY_REPLAY .. => (0, 0)
  | .EMBER_READ_RETURN .. => (0, 0)
  | .STORE_ACCEPT .. => (0, 0)
  | .COMMIT_LINE .. => (0, 0)
  | .WALK_COMPLETE .. => (0, 0)
  | .ENGINE_COMMAND_HEAD .. => (0, 0)
  | .ENGINE_COMMAND_COMPLETE .. => (0, 0)
  | .TONGS_LINE_WRITE .. => (0, 0)
  | .FEED_ELEMENT_ENTRY .. => (0, 0)
  | .SWAGE_RMW .. => (0, 0)
  | .TEMPER_LOAD .. => (0, 0)
  | .TEMPER_PHASE .. => (0, 0)
  | .TEMPER_ROW_WRITE .. => (0, 0)
  | .CRUCIBLE_FILL_START .. => (0, 0)
  | .CRUCIBLE_FILL_COMPLETE .. => (0, 0)
  | .EBX_BLOCK_BUILD .. => (0, 0)
  | .EBX_BLOCK_DECODE .. => (0, 0)
  | .EBX_BLOCK_CHECK .. => (0, 0)
  | .CRUCIBLE_COPYX_SERVE .. => (0, 0)
  | .ANVIL_PASS_START .. => (0, 0)
  | .ANVIL_PASS_END .. => (0, 0)
  | .MZERO_WRITE .. => (0, 0)
  | .MSTORE_LINE_WRITE .. => (0, 0)
  | .MLOAD_ROW_WRITE .. => (0, 0)
  | .SCHEDULE_MISS .. => (0, 0)
  | .BELLOWS_STEP .. => (0, 0)
  | .LINK_FLIT_SEND .. => (0, 0)
  | .LINK_FLIT_ARRIVAL .. => (0, 0)
  | .LINK_FLIT_RECEIVE .. => (0, 0)
  | .LINK_TRAIN .. => (0, 0)
  | .TRAP_ENTRY .. => (0, 0)
  | .SYSTEM_SERVICE .. => (0, 0)
  | .TASK_RETIRE .. => (0, 0)
  | .AGE_TICK_BOUNDARY .. => (0, 0)
  | .REFRESH_REWRITE .. => (0, 0)
  | .REWRITE_END .. => (0, 0)
  | .CHUNK_REQUEST .. => (0, 0)
  | .JOB_CARD_ACCEPT .. => (0, 0)
  | .DEP_DECREMENT .. => (0, 0)
  | .SPILL_CARD_RETURN .. => (0, 0)
  | .BIND .. => (0, 0)
  | .TASK_START .. => (0, 0)
  | .PRIORITY_AGEING .. => (0, 0)
  | .PREEMPT_REQUEST .. => (0, 0)
  | .CONTEXT_RESTORE .. => (0, 0)
  | .REGROWTH .. => (0, 0)
  | .CORE_POLL .. => (0, 0)
  | .DEADLOCK_SAMPLE => (0, 0)
  | .BARRIER_COMPLETE .. => (0, 0)
  | .GANG_END_COMMIT .. => (0, 0)
  | .COMPLETION_RECORD_WRITE .. => (0, 0)
  | .SQ_DOORBELL .. => (0, 0)
  | .CQ_HEAD_WRITE .. => (0, 0)
  | .SQ_CTL_WRITE .. => (0, 0)
  | .CQ_CTL_WRITE .. => (0, 0)
  | .HOST_TEMPLATE_WRITE .. => (0, 0)
  | .HOST_HBM_READ .. => (0, 0)
  | .HOST_HBM_WRITE .. => (0, 0)
  | .ATTESTATION_GO .. => (0, 0)
  | .ATTESTATION_DONE .. => (0, 0)
  | .STARTCLR_WRITE .. => (0, 0)
  | .REGISTER_WRITE .. => (0, 0)
  | .TEMP_TABLE_WRITE .. => (0, 0)
  | .RAMP_TABLE_WRITE .. => (0, 0)
  | .RAMP_TABLE_APPLY .. => (0, 0)
  | .ASID_INVALIDATE .. => (0, 0)
  | .REFERENCE_TICK => (0, 0)
  | .DECISION_TICK => (0, 0)
  | .SWITCH_TICK => (0, 0)
  | .CHORUS_JOIN .. => (0, 0)
  | .CHORUS_ADMIT .. => (0, 0)
  | .CHORUS_LEAVE .. => (0, 0)
  | .CHORUS_DECLARE .. => (0, 0)
  | .CHORUS_LIMIT .. => (0, 0)
  | .CHORUS_LOST .. => (0, 0)
  | .DECLARE_SEND .. => (0, 0)
  | .CORE_GATE .. => (0, 0)
  | .CORE_WAKE_REQUEST .. => (0, 0)
  | .GATE_HOLD_END .. => (0, 0)
  | .WAKE_START .. => (0, 0)
  | .VOLTAGE_ADJUST .. => (0, 0)
  | .VOLTAGE_RETURN .. => (0, 0)
  | .UNDERVOLT_REENABLE .. => (0, 0)
  | .DEVICE_RESET .. => (0, 0)
  | .BOOT_STAGE .. => (0, 0)
  | .BOOT_STAGE_TIMEOUT => (0, 0)
  | .ILLEGAL_INSTRUCTION .. => (0, 0)
  | .LIMIT_SEND .. => (0, 0)
  | .JOIN_SEND .. => (0, 0)
  | .LEAVE_SEND => (0, 0)
  | .CHORUS_TABLE_WRITE .. => (0, 0)
  | .DIE_BUDGET_WRITE .. => (0, 0)
  | .RESERVATION_SET_ASIDE .. => (0, 0)
  | .GLOBAL_READ_RETURN .. => (0, 0)
  | .IDE_ESTABLISH .. => (0, 0)
  | .STANDBY_POWER_LOSS => (0, 0)

/-- What the decoder answers: an instruction, or a rejection by name. -/
inductive Decoded where
  | instr (i : Instr)
  | rejected (e : DecodeError)
  deriving DecidableEq, Repr

/-- The instruction that a word encodes (R93, orders 3 and 4). The low 16 or 32 bits count, by the size (R77). -/
def decode (w : Nat) : Decoded :=
  match decodeRow w with
  | none => .rejected .unassigned
  | some i =>
    if (encode i).2 = w % 2 ^ (encode i).1 then .instr i else .rejected .reservedBits

/-- The instruction read from a table word of `nbits` bits: the parcels are laid out little-endian, every bit above
`nbits` is 0, and the decoder reads the first instruction of them. -/
def decodeTableWord (nbits w : Nat) : Option Instr :=
  match decode (w % 2 ^ nbits) with
  | .instr i => some i
  | .rejected _ => none

end Sys2Proof
end

