-- ==== Sys2Proof/Config.lean ====
section
/-! DEFINITION. What one chip fixes, and the values the spec leaves open. A constant declared `opaque` has no body: nothing
can be proved of its value, so a claim holds whatever it is. The free values take a counter of the state (log 5). -/

namespace Sys2Proof.Config

/-- A time in cycles that the spec does not architect (R11, R106, R193, R199, R230, R402). Log 5 and 9. -/
opaque freeDelay : Nat → Nat
/-- A die temperature reading in whole degrees (R216). Log 5. -/
opaque sensor : Nat → Byte
/-- Corrected errors a die's canary rows counted in one millisecond (R386). Log 5. -/
opaque canary : Nat → Nat
/-- Whether a port gives credit in a cycle for a flit to a core of the neighbour, once 64 flits have been sent to it (R395). Log 49. -/
opaque credit : (port sent cycle : Nat) → Bool
/-- Whether a translating unit misses its TLB on an access (R236, R237). Log 9. -/
opaque tlbMiss : Nat → Bool
/-- Operand SRAM contents after a restore or on a core the task did not write (R229). Log 13. -/
opaque sramByte : Nat → Nat → Byte

/-- The content of state that a breach of a program's obligation touches (R8). Log 12. -/
opaque wild : Nat → Nat

/-- The address of the poisoned run slot that a vector instruction of a core meets in a cycle (R155, R438). Log 5. -/
opaque poisonedSlot : (core cycle : Nat) → Nat

/-- The `tval` of an entry of the result queue or of a feed whose parity has failed (R416): the entry, and the program order of its consumer.
Log 5. -/
opaque poisonedEntry : (entry order : Nat) → Nat

/-- A byte of a context image, or of memory that a breach touches, whose content the spec leaves open (R8, R201, R325), of the image numbered
`image`. Log 12 and 20. -/
opaque contextByte : (image offset : Nat) → Byte

/-- The code in `blkst.OBJECT` of a counter waited on (R187): 0 LD, 1 ST, 2 CP, 3 TL, 4 + e the SEQ of engine e. Log 105. -/
opaque counterCode : Nat → BitVec 48
/-- SHA-256 of a byte string (R407 to R410). Log 14. -/
opaque sha256 : List Byte → BitVec 256
/-- The security block's RSASSA-PKCS1-v1_5 signature of a byte string under the device key (R406, R409). Log 14. -/
opaque deviceSign : List Byte → List Byte
/-- AES-256-XTS encryption of one 64-byte data unit under a context key, with its tweak (R242, R410). Log 14. -/
opaque xtsEncrypt : (key tweak : Nat) → List Byte → List Byte
/-- AES-256-XTS decryption of one 64-byte data unit (R242, R410). Log 14. -/
opaque xtsDecrypt : (key tweak : Nat) → List Byte → List Byte

/-- The silicon revision and the device serial of capability 0x0001 (R366). -/
opaque siliconRevision : BitVec 32
opaque deviceSerial : BitVec 64
/-- The board power limit in watts of capability 0x0002 (R14, R366). -/
opaque boardWatts : BitVec 32
/-- The voltage floor below the guard band in steps of 5 mV, fixed at manufacture (R386). -/
opaque voltageFloor : Nat
/-- The modulus of the device key, big-endian, and Fystan's signature in the device certificate (R406). Log 14. -/
opaque modulusByte : Nat → Byte
opaque signatureByte : Nat → Byte
/-- The device certificate of R406, 780 bytes. -/
def certificate : List Byte :=
  (List.range 384).map modulusByte ++ leBytes 4 65537 ++ leBytes 8 deviceSerial.toNat ++ (List.range 384).map signatureByte

/-- The step SAFE holds at device reset. DESIGN CHOICE, log 4: the nominal sustained step of R12. Unsafe. -/
def safeStep : Nat := 24
/-- Highest and lowest usable step of capability 0x0002 (R12, R366, R371). -/
opaque highestStep : Fin 32
opaque lowestStep : Fin 32

end Sys2Proof.Config
end

