-- ==== Sys2Proof/Machine/State.lean ====
section
/-! DEFINITION. The state of one DN-80 package: its 64 logical cores with their Ember and operand SRAM, HBM and host
memory, the hub, the dies' power control, the chorus clock, links, host functions and start-up. INVENTORY.md lists every
field with its rule and reset value. Numbers that software sees as words are bit vectors; addresses, cycles, ticks and
indexes are `Nat`. -/

namespace Sys2Proof.Machine

/-! ### Memory -/

/-- One memory of bytes (R3). `cells` is canonical: addresses strictly rising and no byte equal to what an unlisted address reads
as, which is 0 (log 6), or the free contents numbered `seed` of operand SRAM after a restore (R229, log 13). `weak` lists the 8-byte words
that hold an uncorrected single-bit error and `pois` the poisoned ones, by address div 8 (R204, R229, R416). -/
structure Mem where
  cells : List Host.Cell := []
  seed  : Option Nat := none
  weak  : List Nat := []
  pois  : List Nat := []
  deriving DecidableEq, Repr

/-! ### Smith -/

/-- A slot of the result queue (R101): its value and, while it is pending (R103) or marked (R131), the identity of its
producer. `pois`: its parity has failed (R416). -/
structure Slot where
  val  : Word := 0
  pend : Option Nat := none
  pois : Bool := false
  deriving DecidableEq, Repr

/-- How a load extends the bytes read (R127). -/
inductive LoadExt where
  | sx | zx
  deriving DecidableEq, Repr

/-- A producer that has issued and not landed (R103, R105). -/
structure Fly where
  id   : Nat                       -- identity, rising in program order
  dst  : Nat := 0                  -- the named register, 0 for none
  val  : Word := 0                 -- the value that lands
  due  : Option Nat := none        -- the cycle at whose start it lands; none: not known yet
  arch : Bool := true              -- the latency is architected (R196)
  ld   : Bool := false             -- counts in LD (R270)
  busy : Nat := 0                  -- 1: the integer divider, 2: the FDIV and FSQRT unit (R106)
  cls  : Nat := 16                 -- ordering class of its access (R247); 16 for no access
  acq  : Bool := false             -- an acquire (R252)
  mark : Option Byte := none       -- a deferred data fault (R131)
  ea   : Word := 0                 -- the load's address
  size : Nat := 0
  ext  : LoadExt := .zx
  walk : Option Nat := none        -- global load: the cycle its walk completes and its value is fixed (R237)
  fwd  : List (Option Byte) := []  -- the bytes its task's buffer forwards (R256)
  deriving DecidableEq, Repr

/-- A deferred fault held after its load has landed (R131). -/
structure Mark where
  id   : Nat
  dst  : Nat
  code : Byte
  ea   : Word
  cls  : Nat
  deriving DecidableEq, Repr

/-- A block entered and not left (R85, R115). -/
structure Block where
  start : Nat
  limit : Nat
  rep   : Bool
  deriving DecidableEq, Repr

/-- What block entry did for a header (R115). -/
inductive Entry where
  | none                   -- not a header, or a header that RETT restored without entry (R196)
  | entered (b : Block)    -- plain, or repeating with a level pushed
  | skipped (after : Nat)  -- the address after its body
  deriving DecidableEq, Repr

/-- A position of the fetch state (R108). `slot` is 1 or 2 for a delay-slot position of R85; `lay` says that a layout fault
of R85 holds for it; `edge` that its successor ends a repeating body; `ctx` the blocks that contain it, innermost first. -/
structure Pos where
  addr  : Word := 0
  ann   : Bool := false
  tgt   : Bool := false
  src   : Word := 0
  slot  : Nat := 0
  entry : Entry := .none
  lay   : Bool := false
  edge  : Bool := false
  ctx   : List Block := []
  deriving DecidableEq, Repr

/-- The fetch state (R108). -/
structure Fetch where
  pc : Pos := {}
  n1 : Pos := {}
  n2 : Pos := {}
  deriving DecidableEq, Repr

/-- The loop state (R114) and the loop buffer with the address it was filled from (R117). -/
structure Loop where
  ldep : BitVec 2 := 0
  lc   : Vector Word 3 := Vector.replicate 3 0
  lbs  : Vector Word 3 := Vector.replicate 3 0
  lbe  : Vector Word 3 := Vector.replicate 3 0
  base : Option Nat := none
  buf  : List (BitVec 16) := []
  deriving DecidableEq, Repr

/-- The prefixes of the unit being executed (R91, R92): the first prefix's fetch and loop state, kept so that a fault of the
unit is taken with `fpc` at the first prefix. -/
structure Pfx where
  cls   : Option (Nat × Bool × Bool × Nat) := none    -- class, acquire, release, scope
  stamp : Option Nat := none
  first : Fetch := {}
  loop  : Loop := {}
  deriving DecidableEq, Repr

/-- Why a position stalls (R32, R33). -/
inductive Stall where
  | interlock (slot : Nat)    -- register interlock (R103); the queue slot or register waited on
  | unitBusy                  -- DIV or FDIV unit (R106)
  | occupancy                 -- vector occupancy (R157)
  | feed (n : Nat)            -- an empty feed (R276)
  | counters (k : Nat)        -- WAIT, SEQW (R271, R272); the counter waited on: 0 LD, 1 ST, 2 CP, 3 TL, 4 + e the SEQ of engine e
  | queueFull                 -- engine queue (R17)
  | classOrder                -- class ordering or an acquire not yet performed (R248, R252)
  | outstanding (k : Nat)     -- LD at 17 or ST at 16 (R270); 0 LD, 1 ST
  | fence                     -- FENCE (R249)
  | emberSerial               -- EALLOC, EFREE, ECLASS (R222)
  | depOrder                  -- DEPDEC (R336)
  | spawn                     -- SPAWN (R338)
  | template                  -- SPATCH (R337)
  | tdcopy                    -- TDCOPY (R352)
  | commitFull                -- commit buffer (R257)
  | power                     -- PWRQ (R381)
  | emberWord (addr : Nat)    -- WAITV (R273)
  | barrier (tag : Nat) (split : Bool)   -- BARW, BAR before its arrival; `split`: BARA (R335)
  | arrived (tag : Nat)       -- BAR after its arrival (R335)
  | gangEnd                   -- END of a gang member (R258)
  | endWait                   -- END's own waits (R200)
  deriving DecidableEq, Repr

/-- An exposed store (R130): issue cycle, bytes, class. `rel` holds a release store back until its order is met (R251). -/
structure Exposed where
  id   : Nat
  t    : Nat
  off  : Nat
  data : List Byte
  cls  : Nat
  rel  : Bool := false
  pendBit : Bool := false          -- the store's pending bits are set (R208)
  deriving DecidableEq, Repr

/-- An entry of the landing list (R194). `resume` is the tag; `at_` is the cycle at whose end it writes, once armed. -/
structure Landing where
  off    : Nat
  data   : List Byte
  r      : Nat
  resume : Bool
  at_    : Option Nat := none
  pendBit : Bool := false
  id     : Nat := 0                -- the store's program order and class
  cls    : Nat := 16
  rel    : Bool := false           -- a release store, which waits for its order too (R251)
  deriving DecidableEq, Repr

/-- A vector register (R136, R137): its format and its runs, each a count and an encoding. `pois` and `weak` list its run slots that hold an
uncorrectable and a single-bit error (R416). -/
structure VReg where
  fmt  : Nat := 1
  runs : List (Nat × Nat) := []
  pois : List Nat := []
  weak : List Nat := []
  deriving DecidableEq, Repr

/-- A predicate register (R145). -/
structure KReg where
  count : BitVec 17 := 0
  wid   : BitVec 2 := 0
  deriving DecidableEq, Repr

/-- The trap shadow (R193), with the model's own record of the producers of its pending slots and of the saved positions. -/
structure Shadow where
  lat   : Vector Nat 16 := Vector.replicate 16 0
  fly   : Vector (Option Fly) 16 := Vector.replicate 16 none   -- the producers of the slots pending at entry
  queue : Vector Word 16 := Vector.replicate 16 0
  loop  : Loop := {}
  fetch : Fetch := {}
  prog  : Nat := 0                 -- program order at entry (log 29)
  deriving DecidableEq, Repr

/-- The control and status registers of R187 that are not views of other state. -/
structure Csr where
  xovf     : Bool := false
  h        : Bool := false
  ann      : BitVec 2 := 0
  tgt      : BitVec 3 := 0
  cause    : Word := 0
  tval     : Word := 0
  fpc      : Word := 0
  npc      : Word := 0
  nnpc     : Word := 0
  thandler : Word := 0
  tscratch : Word := 0
  frm      : BitVec 2 := 0
  vmg      : BitVec 3 := 1
  grp      : BitVec 1 := 1
  spill    : Bool := false
  ss       : Bool := false
  lchk     : Bool := false
  dbgPend  : Bool := false
  stbase   : Word := 0
  grant    : Bool := false
  level    : Nat := 0
  refcnt   : Word := 0
  cycle    : Word := 0
  ev       : Vector Word 16 := Vector.replicate 16 0
  evWas    : Vector Word 16 := Vector.replicate 16 0   -- at the start of the cycle, as a read finds them (R391)
  deriving DecidableEq, Repr

/-- What a bind record gives a task (R28, R328, R358). -/
structure Task where
  card   : Nat                     -- hub card number
  index  : Nat                     -- gang index or record index
  gang   : Bool
  func   : FnId                    -- host function of the root card
  tag    : BitVec 32
  asid   : Word
  root   : Nat
  heapb  : Nat
  heapl  : Nat
  heapo  : Nat
  lvl    : Vector Word 8           -- images of `lvl0` to `lvl7`
  nlvl   : Nat
  gangid : Word
  clsDef : Nat                     -- lifetime class default (R19)
  leases : List (Nat × Nat × Nat)  -- base, end, rights: 1 RD, 2 W, 4 X (R356)
  save   : Nat                     -- this task's part of the save area, 0 for none (R324)
  spill  : Nat                     -- this task's part of the commit-spill area (R325)
  spillN : Nat                     -- spilled lines the part holds
  area   : Nat × Nat := (0, 0)     -- the card's commit-spill area: its base and its end (R325)
  conf   : Bool
  eprio  : Nat := 0                -- effective priority when it was bound (R358)
  resv   : Nat := 0                -- reservation class of its slot (R358)
  start  : Nat := 0                -- start tick of a gang spanning packages, else 0 (R23, R358)
  view   : Option (List Host.Cell) := none   -- the page tables as its units find them; none: as memory holds them (R236, R240)
  deriving DecidableEq, Repr

/-- Where a core's task stands. -/
inductive Run where
  | idle                           -- no task bound
  | bound                          -- a bind record is in force and the task has not started
  | running
  | entering (code : Byte) (tval : Word) (eng : Option EngId) (single : Bool)
                                   -- trap entry waiting for the queue to land (R104, R193)
  | service (a b : Word) (dst : Nat) (due : Nat)   -- waiting for Salamander (R199)
  | ending                         -- END's waits (R200)
  | preempting                     -- stopping for pre-emption (R37)
  | restoring (grant : Bool)       -- waiting for the saved power region (R384)
  | stopped                        -- ended as system, Salamander has been told (R189)
  deriving DecidableEq, Repr

/-! ### Vector unit -/

/-- A store on its way: a plain global store not yet accepted (R256), a release store waiting for its order (R251), or a store
to operand SRAM, which takes effect at the end of its cycle (R228). `addr` is the effective address. -/
structure GStore where
  addr  : Nat
  data  : List (Option Byte)
  cls   : Nat
  prog  : Nat
  rel   : Option Nat := none       -- the scope of a release store
  due   : Nat
  deriving DecidableEq, Repr

/-- Where an access lies. -/
inductive Place where
  | ember (core : CoreId)
  | sram (core : CoreId)
  | glob
  deriving DecidableEq, Repr

/-- The vector memory instructions (R176) but VPOP. -/
inductive VKind where
  | image | strided | firstFault   -- VLD, VLDS, VLDFF
  | store                          -- VST and VSTS
  deriving DecidableEq, Repr

/-- One access of a vector memory instruction (R179): its address, where it lies, its bytes (of a write, or read), and a data
fault that its read found. -/
structure VElem where
  ea    : Word
  place : Place
  addr  : Nat
  n     : Nat
  data  : Option (List Byte) := none
  code  : Option Byte := none
  deriving DecidableEq, Repr

/-- One request of a vector memory instruction (R182): the accesses it serves, all in one line. -/
structure VReq where
  first : Nat
  count : Nat
  deriving DecidableEq, Repr

/-- A vector memory instruction in progress (R182). `stop` is the fault of the first access that failed its checks at issue, the
accesses of `elems` all lying before it. -/
structure VMem where
  kind   : VKind
  dst    : Nat
  fmt    : Nat
  per    : Nat                     -- elements per part
  active : List Nat                -- active elements of each part
  k      : Nat                     -- predicate
  slots  : Nat                     -- slots that a store reads
  elems  : List VElem
  stop   : Option (Byte × Word)
  ember  : List VReq               -- requests to own Ember not granted yet
  side   : List VReq               -- requests to operand SRAM not made yet
  glob   : Option Nat              -- the cycle in which its global reads complete
  land   : Nat                     -- the first cycle in which every access made so far is complete
  keep   : List Host.Cell := []    -- bytes as they stood before stores it must not see (R130)
  bad    : List Nat := []          -- those of them whose word was poisoned
  ld     : Bool                    -- counts in LD until it ends
  rel    : Option Nat              -- the scope of a release
  stored : List GStore := []       -- global stores not yet accepted
  deriving DecidableEq, Repr

/-- A vector instruction in progress (R157): the cycle before which it cannot end. -/
structure VBusy where
  issue  : Nat
  until_ : Nat
  prog   : Nat := 0
  cls    : Nat := 16
  mem    : Option VMem := none
  deriving DecidableEq, Repr

/-! ### Engines -/

/-- The commands of R264. -/
inductive CmdKind where
  | copy | copyt | copyo | exportMeta
  | copyx (toFeed sparse : Bool)
  | copym (slice : Bool)
  | copyf
  | sacc (op : Nat) | saccr (op feed : Nat)
  | rowsm | rownm (e : Nat) | rowln (e : Nat) | rowmx
  | mma (acc m n : Nat) (useAcc spa : Bool)
  | mzero (acc fmt : Nat) | mstore (acc : Nat) | mload (acc fmt : Nat)
  | lxfer (port : PortId) | lrecv (port : PortId) | lred (port : PortId) | ltopk (port : PortId)
  deriving DecidableEq, Repr

/-- A command in an issue queue with what it captured (R265). -/
structure Cmd where
  kind  : CmdKind
  y     : Nat := 0                 -- descriptor numbers, for `tval`
  z     : Nat := 0
  x     : Nat := 0
  ty    : BitVec 256 := 0          -- captured images
  tz    : BitVec 256 := 0
  tx    : BitVec 256 := 0
  bound : Option Word := none
  feed  : Option (CoreId × Nat) := none   -- the feed it delivers to (R274, R275)
  cls   : Nat := 0
  acq   : Bool := false
  rel   : Bool := false
  scope : Nat := 0
  stamp : Option Nat := none       -- target of R313
  prog  : Nat := 0                 -- program order
  entry : Nat := 0                 -- the cycle it entered its queue
  miss  : Option Word := none      -- a schedule miss: the stamp counter at detection (R314)
  lost  : Option Nat := none       -- the port's neighbour has been declared lost (R401)
  pois  : Bool := false            -- the parity of its queue entry has failed (R416)
  deriving DecidableEq, Repr

/-- A line an engine has read ahead: where it lies, its first address, its bytes, the cycle at whose start its data lands (none
while a global read is out), the fault of its place (0x09, 0x0A), its poisoned words, and the tag and class of its valid row group. -/
structure Line where
  place : Place
  addr  : Nat
  bytes : List Byte := []
  due   : Option Nat := none
  bad   : Option Byte := none
  pois  : List Nat := []
  tag   : Option (Nat × Nat) := none
  deriving DecidableEq, Repr

/-- Decoding of an EBX stream (R57 to R60, R304). -/
inductive EbxStage where
  | header | build | decode (bit debt : Nat) | check | done
  deriving DecidableEq, Repr

structure Ebx where
  block : Nat := 0                 -- offset of the block from BASE
  stage : EbxStage := .header
  turn  : Option Nat := none       -- the last cycle in which it advanced
  out   : List Byte := []          -- output of this block
  all   : List Byte := []          -- output of the blocks that passed their checks
  elems : Nat := 0                 -- sum of ECNT of those blocks
  nblk  : Nat := 0                 -- their number
  rows  : List (Nat × List Byte) := []   -- EXPORT: offset and header of each block
  deriving DecidableEq, Repr

/-- A Crucible fill (R302): the command it serves, the lines not granted yet in list order, the lines read, and its outcome. -/
structure Fill where
  prog  : Nat
  start : Nat
  reqs  : List Nat                 -- line addresses in own Ember
  asked : List Nat := []           -- every line that has joined the list
  got   : List Line := []
  shown : Bool := false            -- its last request has been presented (R302)
  ebx   : Option Ebx := none
  done  : Option Nat := none       -- the cycle at whose start it completed
  held  : Option (Byte × Word) := none
  deriving DecidableEq, Repr

/-- One engine (R264 to R268). `micro` is the micro-PC. The other fields are the progress of the head command inside its
micro-step, which a stop discards (R268): `laid` says that its lists are laid, `plan` holds the source lines still to be requested,
`got` those read, `lines` the destination lines still to be written in order. -/
structure Eng where
  queue  : List Cmd := []
  seq    : BitVec 32 := 0
  iss    : BitVec 32 := 0
  head   : Option Nat := none      -- the cycle in which the head command reached the head
  begun  : Option Nat := none      -- the cycle in which it made its first access or pass
  last   : Option Nat := none      -- the cycle at whose end its last access was performed
  micro  : Nat := 0
  laid   : Bool := false
  sub    : Nat := 0                -- a counter inside the micro-step
  t0     : Nat := 0                -- start of a pass or of a timetable
  plan   : List (Place × Nat) := []
  got    : List Line := []
  lines  : List (Place × Nat) := []
  read   : Bool := false           -- its last request in a slice both read and written was a read (R281)
  served : Option Nat := none      -- the last cycle in which Crucible served its COPYX (R305)
  elems  : List (Nat × Nat × Nat) := []   -- elements on their way to a feed: cycle, format, encoding
  made   : Nat := 0                -- elements produced since the start or resumption
  ebx    : Option Ebx := none
  full   : List (Nat × Nat × Nat) := []   -- core, row group and set of its lines that this command has written (R212)
  held   : Option (Byte × Word) := none   -- a fault found and not yet raised
  asked  : Option Nat := none      -- the Bellows boundary at which its MMA first waited (R379)
  grant  : Option Nat := none      -- the cycle in which its MMA may begin a pass on a Bellows grant (R379)
  flits  : List Flit := []         -- flits of its stream received so far (R400)
  freed  : Option Nat := none      -- the cycle in which the previous command left the queue (R293)
  frozen : Bool := false           -- frozen by a fault whose cause is taken or pending (R192)
  cause  : Option (Byte × Word) := none   -- the engine cause waiting for a boundary (R191)
  stop   : Bool := false           -- stopped for pre-emption (R37)
  halts  : Bool := false           -- it stops at the end of the micro-step it is in (R37, R268)
  deriving DecidableEq, Repr

/-- A feed (R274, R275): elements with their formats, bound streams, and the delivering engines in the order they reached
the head; the first of them delivers. -/
structure Feed where
  elems : List (Nat × Nat) := []
  pb    : Nat := 0
  soon  : List Nat := []           -- cycles at whose end a neighbour's binding raises PB
  order : List (CoreId × EngId) := []
  took  : Nat × Nat := (0, 0)      -- a cycle and the elements that have entered in it (R275)
  count : Nat := 0                 -- elements entered since task start, for the detector's "while" (R339)
  pois  : List Nat := []           -- elements whose parity has failed, by the number of their entry (R416)
  deriving DecidableEq, Repr

/-- An accumulator tile (R297): its format, its elements that are not zero by index, its poisoned rows, and its 64-bit words that hold a single-bit
error, 512 to a row (R416). -/
structure Tile where
  tf    : Nat := 0
  elems : List (Nat × Nat) := []
  pois  : List Nat := []
  weak  : List Nat := []
  deriving DecidableEq, Repr

/-! ### Ember -/

/-- State of a row group that is held (R209). -/
inductive RowState where
  | empty | valid | invalid
  deriving DecidableEq, Repr

structure Row where
  g    : Nat
  st   : RowState := .empty
  age  : Nat := 0
  cls  : Nat := 0
  ltag : Nat := 0
  rq   : Bool := false
  deriving DecidableEq, Repr

/-- A write-hold register (R207). -/
structure Hold where
  addr : Nat
  data : List (Option Byte)        -- the bytes of the aligned 8-byte word
  deriving DecidableEq, Repr

/-- A rewrite of the refresh unit (R215). -/
structure Rewrite where
  g     : Nat
  ready : Nat                      -- the first cycle in which it may be presented
  touch : Bool                     -- an ETOUCH request, which counts no `refcnt`
  begun : Option Nat := none       -- the cycle in which it was first presented
  lines : List Nat := []           -- lines presented and not yet rewritten
  deriving DecidableEq, Repr

/-- Who presents a request to a bank (R206). -/
inductive Who where
  | drain | refresh
  | crucible | tongs (core : CoreId) (u : Fin 2) | temper
  | swage (core : CoreId) | vec | smith
  deriving DecidableEq, Repr

/-- A slice of Ember (R203 to R215): its array, its held row groups by rising index, the write-hold registers that are full,
the refresh queue, and how long the requests present in the last cycle have waited. -/
structure Slice where
  mem   : Mem := {}
  rows  : List Row := []
  hold  : List (Nat × Hold) := []
  queue : List Rewrite := []
  waits : List (Who × Nat × Nat) := []   -- requester, line, consecutive cycles waited
  bound : Option Nat := none                 -- the cycle of the last age tick boundary
  acted : List (Nat × Nat) := []   -- row groups and what that boundary did to them: 0 silent, 1 expiry, 2 refresh
  was   : List Nat × Bool := ([], false)   -- the expiry queue and `status.XOVF` before that boundary
  deriving DecidableEq, Repr

/-- A read of Smith at its own Ember (R127, R273, R352): the requester is the load with that identity, TDCOPY or WAITV. TDCOPY's reads of
operand SRAM and of global memory stand here too, already made: `unit` is 0 for Ember, 1 and 2 for those (R417). -/
inductive Reader where
  | load (id : Nat) | tdcopy (td : Nat) | waitv
  deriving DecidableEq, Repr

structure SRead where
  who   : Reader
  off   : Nat
  len   : Nat
  issue : Nat
  land  : Option Nat := none       -- the cycle at whose start its data lands, once granted
  bytes : List Byte := []
  code  : Option Byte := none
  keep  : List Host.Cell := []     -- bytes as they stood before stores it must not see (R130)
  here  : Bool := false            -- the data of a TDCOPY or WAITV has landed
  unit  : Nat := 0
  weak  : Nat := 0                 -- corrected words of a read already made
  pois  : Nat := 0                 -- poisoned words of a read already made
  was   : Option (Option Byte) := none   -- what its read found when its row group was freed before its grant (R210)
  bad   : Bool := false            -- a word of `keep` was poisoned
  deriving DecidableEq, Repr

/-! ### Ordering -/

/-- A line of the commit buffer (R256): its virtual address, byte mask and bytes, and the class and program order of each
store it holds, the youngest last. -/
structure CLine where
  addr   : Nat
  bytes  : List (Option Byte)
  held   : List (Nat × Nat) := []
  due    : Nat := 0                -- the first cycle in which it may commit (R257; log 9)
  deriving DecidableEq, Repr

/-- A barrier tag of a task (R332, R335). `since` is the program order at its last arrival. -/
structure Tag where
  ph   : BitVec 32 := 0
  live : Bool := false
  arr  : Bool := false
  since : Nat := 0
  deriving DecidableEq, Repr

/-! ### A core -/

/-- A PWRQ that waits (R379, R381): the level it declares, the boundary at which it first waited, whether it has been granted. -/
structure PwrReq where
  level   : Nat
  first   : Option Nat := none
  granted : Bool := false
  deriving DecidableEq, Repr

/-- One logical core (R15, R17). -/
structure Core where
  run    : Run := .idle
  task   : Option Task := none
  s      : Vector Word 32 := Vector.replicate 32 0
  q      : Vector Slot 16 := Vector.replicate 16 {}
  fly    : List Fly := []
  marks  : List Mark := []
  fetch  : Fetch := {}
  loop   : Loop := {}
  pfx    : Option Pfx := none
  stall  : Option Stall := none
  parked : List (Nat × Nat × Fly) := []   -- slots pending at a pre-emption stop: index, latency left, producer (R202)
  samples : Nat := 0               -- grid samples at which a handler's wait has stood on frozen commands (R192)
  wait   : Option Nat := none      -- the cycle in which the hub or a global read answers the stalled position
  ready  : Nat := 0                -- the first cycle in which the next position may issue
  late   : Nat := 0                -- loads landed in this cycle, which LD counts to its end (R270)
  nextId : Nat := 1                -- next producer identity and program order
  csr    : Csr := {}
  shadow : Shadow := {}
  land   : List Landing := []
  expiry : List Nat := []
  pend18 : Bool := false           -- cause 0x18 pending (R191)
  pend19 : Option Word := none     -- cause 0x19 pending, with its `tval`
  stepOf : Option Word := none     -- a single-step trap due at the boundary after this position (R197)
  preq   : Bool := false           -- a pre-emption request is pending (R37)
  born   : Nat := 0                -- the cycle in which its task started, for the detector's "while" (R339)
  stood  : Option Nat := none      -- the level of the power region that a stop for pre-emption has released (R384)
  exposed : List Exposed := []
  reads  : List SRead := []
  vbusy  : Option VBusy := none
  v      : Vector VReg 32 := Vector.replicate 32 {}
  k      : Vector KReg 8 := Vector.replicate 8 {}
  ember  : Slice := {}
  sram   : Mem := {}
  wbuf   : List CLine := []
  spilt  : List CLine := []
  gst    : List GStore := []
  closes : List Nat := []          -- program order of what closed the lines before it (R256)
  eng    : Vector Eng 6 := Vector.replicate 6 {}
  fills  : List Fill := []
  feeds  : Vector Feed 8 := Vector.replicate 8 {}
  tiles  : Vector Tile 4 := Vector.replicate 4 {}
  td     : Vector (BitVec 256) 64 := Vector.replicate 64 0
  b      : Vector Word 16 := Vector.replicate 16 0
  tags   : Vector Tag 9 := Vector.replicate 9 {}
  decs   : List (Nat × Nat × Bool) := []   -- decrements held: their word, program order, whether the quantum commit has passed (R336)
  pwrReq : Option PwrReq := none   -- a PWRQ that waits for its grant (R379)
  pwrRet : Nat := 0                -- units returned to Bellows since the last boundary (R379)
  last   : List (Nat × Nat × Nat × Nat) := []   -- last translation of each unit: unit, va, p, ASID (R237)
  records : List Nat := []         -- records of the dealt chunk not yet run (R21)
  strike : Option (Nat × Ecc) := none   -- a cycle and what its first read of own Ember that lands newly finds (R204, log 10)
  residue : Option Nat := none     -- the cycle in which an adder of Anvil fails (R416, log 10)
  deriving DecidableEq, Repr

/-! ### The hub -/

/-- Where a card stands. -/
inductive CardState where
  | spilled | pending | counting | waiting | running | ended
  deriving DecidableEq, Repr

/-- A task that has been saved (R201), in the model's own form (log 20). -/
structure Saved where
  task : Nat
  at_  : CoreId                    -- its logical core, which a task keeps (R18)
  core : Core
  free : Nat := 0                  -- the number of its image's free bytes
  deriving DecidableEq, Repr

/-- A job card (R19, R321). -/
structure Card where
  id     : Nat
  image  : BitVec 4096
  func   : FnId
  st     : CardState
  parent : Option (Nat × Nat) := none    -- the card and the core that armed it (R331)
  held   : Bool := false           -- eligible only after its gang member's next quantum commit (R331)
  order  : Nat := 0                -- order of acceptance (R328)
  choice : CardChoice := ⟨0, 0, 0, 0, 0⟩
  since  : Nat := 0                -- the tick at which it began to wait (R42)
  risen  : Nat := 0                -- levels risen by ageing (R42)
  dealt  : Nat := 0                -- records dealt (R21)
  nbound : Nat := 0                -- cores bound
  given  : Nat := 0                -- the number of the binding that last gave it a core (R41)
  cores  : List (Nat × CoreId) := []   -- gang members: task index and core
  start  : Nat := 0                -- start tick of a gang spanning packages (R23)
  span   : List Nat := []          -- the other chorus members that hold tasks of the gang
  done   : Nat := 0                -- tasks retired
  gangid : Word := 0
  cps    : List (Nat × Nat × BitVec 32) := []   -- completion counts: tag, unit, CP (R332)
  bars   : List (Nat × Nat × Nat × Bool) := []  -- instances that complete: tag, unit, the cycle in which members leave, whether R333 fixes it
  spills : Nat := 0                -- spawned cards it has spilled (R325)
  status : Nat := 0                -- STATUS of its record (R327)
  code   : Byte := 0
  task   : BitVec 32 := 0
  tval   : Word := 0
  diag   : Word := 0
  stops  : Bool := false           -- its tasks are being ended as system (R189)
  told     : Nat × Nat := (0, 0)   -- the cycle and the core of the stop that its record describes (R327)
  left     : List Nat := []        -- records of a chunk whose core was retired, to be dealt again (R21, R340)
  restores : List (Nat × Nat) := []   -- restore count of the task that runs in each part (R325, R341)
  revived  : Nat := 0              -- sum of the restore words of its tasks (R327)
  saved  : List Saved := []
  key    : Option Nat := none      -- context key handle of a confidential card (R410)
  deriving DecidableEq, Repr

/-- A dependence counter that is not at its reset value or has a card waiting (R329). -/
structure Dep where
  ctr  : Nat
  v    : Int
  card : Option Nat
  deriving DecidableEq, Repr

/-- A spawn template that has been written (R360). -/
structure Template where
  n     : Nat
  image : Vector Word 72           -- 576 bytes as doublewords
  deriving DecidableEq, Repr

/-- A physical core of the slot table (R358, R385). -/
structure Phys where
  retired : Bool := false
  gated   : Option Nat := none     -- the tick at which its gating began
  wake    : Option Nat := none     -- the tick of a wake request waiting
  awake   : Nat := 0               -- the tick from which it may begin a task
  missed  : Nat := 0               -- consecutive polls unanswered
  deaf    : Bool := false          -- it answers no poll (R418, log 10)
  errs    : List (Nat × Bool) := []   -- ticks of the errors of its run store and tiles, true for an uncorrectable one (R418)
  failing : Bool := false          -- Salamander has reported it as failing (R418)
  deriving DecidableEq, Repr

/-- An entry of the error log (R417). -/
structure LogEntry where
  tick : Nat
  kind : Nat
  phys : Nat
  unit : Nat
  tag  : BitVec 32
  addr : Nat
  deriving DecidableEq, Repr

/-- What the hub holds: cards, counters, the pool, templates, the map and slots of the dies, and Salamander's own records. -/
structure Hub where
  cards    : List Card := []
  nextCard : Nat := 0
  lastFn   : Option FnId := none   -- host whose waiting card was bound last (R41)
  binds    : Nat := 0              -- bindings made (R41)
  deps     : List Dep := []
  pool     : List Nat := []        -- cards that hold a pool entry (R30)
  freed    : Nat := 0              -- pool and spill entries given back so far, for the detector's "while" (R339)
  spill    : List Nat := []        -- cards in spawn spill queues, oldest first
  templates : List Template := []
  map      : Vector (Option (Fin 72)) 64   -- logical core to physical core (R15, R359)
  phys     : Vector Phys 72 := Vector.replicate 72 {}
  resv     : Vector (Fin 8) 64 := Vector.replicate 64 0   -- reservation class of each logical core (R24)
  gangs    : Word := 0             -- gangs bound since reset (R28)
  asids    : List (Nat × Nat × Nat) := []  -- address-space ID, generation, root (R240)
  invalid  : List Nat := []        -- IDs whose entries were invalidated since they were bound (R240)
  errlog   : List LogEntry := []
  logTail  : BitVec 8 := 0
  sample   : List (Nat × Nat × Nat × Nat) := []   -- wait-for edges of the last grid sample, with a progress number (R44, R339)
  nextKey  : Nat := 0
  keys     : List Nat := []        -- resident context keys (R410)
  tabs     : List (Nat × Nat × List Host.Cell) := []   -- address-space ID, root, and its page tables as units find them (R236, R240)
  caps     : List Byte := []       -- the capability list once start-up has written it (R365)
  lastCard : List (CoreId × Nat) := []            -- the card each core last ran (R229)
  sent     : List (BitVec 12) := []               -- decrements on their way to this package's counters (R336)
  remote   : List (Nat × BitVec 12) := []         -- decrements sent to other members: chorus index, counter (R336)
  regrow   : List CoreId := []     -- cores whose task moves to a spare once it is saved (R340)
  deriving DecidableEq, Repr

/-! ### Dies and power -/

/-- A compute die: Bellows (R378), its tables, its temperature (R216) and its voltage (R386). -/
structure Die where
  c      : Nat := 0
  act    : Nat := 0
  i      : Nat := 0
  d      : Nat := 0
  lastUp : Nat := 0
  u      : Nat := 4096
  ramp   : Vector (BitVec 16) 16
  next   : Option (Vector (BitVec 16) 16) := none
  temp   : Byte := 0
  band   : Nat := 0
  before : Option (Nat × Nat × Nat) := none   -- the last boundary's cycle, and C and i as they stood before it (R383)
  ends   : List (CoreId × Nat × Nat) := []  -- passes that hold units: core, last cycle, units
  wakes  : List (Fin 72) := []     -- wake requests in arrival order (R385)
  lastWake : Option Nat := none    -- the tick of the last wake started
  volt   : Nat := 0                -- steps of 5 mV below the guard band
  offUntil : Option Nat := none    -- undervolting disabled until that tick
  retAt  : Option Nat := none      -- a return to the guard band due at that tick
  deriving DecidableEq, Repr

/-! ### Lifetime table, clock, chorus, links, hosts, start-up -/

/-- The temperature and lifetime table (R354) and the writes that take effect at the next age tick boundary. -/
structure Life where
  table   : Vector Byte 64
  pending : List (Nat × Byte) := []
  deriving DecidableEq, Repr

/-- Which part of a cycle the machine is in (log 1). -/
inductive Phase where
  | edge      -- events at the start of the cycle
  | start     -- engines take what has landed; Temper's loads, EBX decoding and COPYX service
  | pass      -- Bellows, passes and fills that begin, schedule misses, elements that enter feeds
  | issue     -- cores issue
  | bank      -- bank arbitration, grants and writes
  | finish    -- writes at the end of the cycle
  | close     -- what those writes complete
  deriving DecidableEq, Repr

/-- The events that the schedule itself brings about, each named after its row of the opcode table. -/
inductive Event where
  | annulledPosition (c : CoreId)
  | illegalInstruction (c : CoreId) (reserved : Bool) (parcel : Word)
  | issueStallRelease (c : CoreId)
  | waitConditionMet (c : CoreId)
  | trapEntry (c : CoreId) (code : Byte) (tval : Word) (eng : Option EngId) (single : Bool)
  | taskRetire (c : CoreId)
  | systemService (c : CoreId)
  | resultLanding (c : CoreId) (id : Nat)
  | vectorOccupancyEnd (c : CoreId)
  | emberReadReturn (c : CoreId) (id : Nat) (e : Ecc)
  | waitvRead (c : CoreId) (e : Ecc)
  | walkComplete (c : CoreId) (id : Nat)
  | globalReadReturn (c : CoreId) (e : EngId)
  | engineCommandHead (c : CoreId) (e : EngId)
  | chunkRequest (c : CoreId)
  | taskStart (c : CoreId)
  | bellowsStep (d : DieId)
  | rampTableApply (d : DieId)
  | ageTickBoundary (t0 t1 t2 t3 : Byte)
  | referenceTick
  | decisionTick
  | switchTick
  | deadlockSample
  | barrierComplete (card : Nat) (tag : Fin 9) (unit : Nat)
  | gangEndCommit (card : Nat)
  | completionRecordWrite (f : FnId)
  | depDecrement (ctr : BitVec 12)
  | spillCardReturn (entry : Nat)
  | priorityAgeing (card : Nat)
  | corePoll (c : CoreId) (answers : Bool)
  | voltageAdjust (d : DieId) (count : Nat)
  | voltageReturn (d : DieId)
  | undervoltReenable (d : DieId)
  | gateHoldEnd (p : Fin 72)
  | wakeStart (d : DieId)
  | bootStageTimeout
  | declareSend (ceil : BitVec 5) (demand : BitVec 16)
  | preemptRequest (c : CoreId)
  | regrowth (c : CoreId)
  | temperLoad (c : CoreId)
  | crucibleFillComplete (c : CoreId)
  | ebxBlockBuild (c : CoreId)
  | ebxBlockDecode (c : CoreId)
  | ebxBlockCheck (c : CoreId)
  | crucibleCopyxServe (c : CoreId) (u : Fin 2)
  | anvilPassStart (c : CoreId)
  | crucibleFillStart (c : CoreId)
  | scheduleMiss (c : CoreId) (e : EngId)
  | feedElementEntry (c : CoreId) (f : Fin 8)
  | refreshRewrite (c : CoreId)
  | writeHoldDrain (c : CoreId) (bank : Fin 32)
  | storeAccept (c : CoreId)
  | commitLine (c : CoreId)
  | tongsLineWrite (c : CoreId) (u : Fin 2)
  | mstoreLineWrite (c : CoreId)
  | temperRowWrite (c : CoreId)
  | swageRmw (c : CoreId)
  | mzeroWrite (c : CoreId)
  | mloadRowWrite (c : CoreId)
  | anvilPassEnd (c : CoreId) (residue : Bool)
  | linkFlitSend (c : CoreId)
  | linkFlitReceive (c : CoreId)
  | exposedStoreWrite (c : CoreId) (id : Nat)
  | landingEntryReplay (c : CoreId) (slot : Fin 8)
  | temperPhase (c : CoreId)
  | engineCommandComplete (c : CoreId) (e : EngId)
  | rewriteEnd (c : CoreId)
  deriving DecidableEq, Repr

structure Clock where
  phase : Phase := .edge
  fresh : Bool := true             -- the events of the phase have not been listed yet
  todo  : List Event := []         -- events of the phase still to happen
  turn  : Nat := 0                 -- the next core to issue
  now   : Nat := 0                 -- cycle number
  stamp : Word := 0                -- the stamp counter (R314)
  tick  : Word := 0                -- the reference tick count (R367)
  sub   : Nat := 0                 -- half-cycles since the last reference edge (R368)
  free  : Nat := 0                 -- counter of free values (log 5)
  deriving DecidableEq, Repr

/-- A member entry of the chorus table (R363) with what the controller keeps of its messages (R371, R373). -/
structure Member where
  idx    : Nat
  st     : Nat                     -- 1 joining, 2 member, 3 leaving, 4 lost
  linkid : BitVec 32 := 0
  demand : Nat := 0
  ceil   : Nat := 0
  dtick  : Nat := 0
  seen   : List Nat := []          -- stamp ticks of its messages
  seq    : Option (BitVec 32) := none      -- last sequence number received
  decls  : List (Nat × Nat × Nat × Nat) := []   -- declarations: stamp tick, effective tick, ceiling, demand
  joinAt : Option Nat := none      -- admission tick to come
  since  : Nat := 0                -- the switch tick of its admission (R373)
  admits : List Nat := []          -- ticks of the ADMITs it sends, which take up its numbers, not yet followed by a message heard (R388)
  leaveAt : Option Nat := none
  lostAt : Option Nat := none
  mine   : Bool := false           -- this package sponsors it (R374)
  deriving DecidableEq, Repr

/-- A chorus message that this package sends or forwards (R369, R370). -/
inductive ChorusOut where
  | join (p : PortId) (m : ChorusMsg) (linkid : BitVec 32) (dticks : Nat)
  | flood (m : ChorusMsg) (linkid : BitVec 32) (dticks : Nat)        -- a JOIN that its sponsor has stamped
  | admission (m : ChorusMsg) (self wa tick stampWa step : Nat) (members : List ChorusMsg)
  | leave (m : ChorusMsg)
  | declare (m : ChorusMsg)
  | limit (m : ChorusMsg) (wl : Nat)
  | lost (m : ChorusMsg) (idx at_ : Nat)
  deriving DecidableEq, Repr

/-- The chorus table (R363) and the controller (R367 to R376). -/
structure Chorus where
  self    : Nat := 0
  step    : Nat := Config.safeStep
  safe    : Nat := Config.safeStep
  next    : Option (Nat × Nat) := none     -- NEXTTICK and NEXTSTEP when valid (R372)
  dticks  : Nat := 16
  rack    : Nat := 0
  share   : Nat := 0
  members : List Member := []
  seq     : BitVec 32 := 0         -- own sequence number (R369)
  lastDecl : Nat := 0              -- stamp tick of its own last DECLARE
  out     : List ChorusOut := []   -- messages sent and not yet taken by the links
  fresh   : Nat := 0               -- SAFE holds until every remaining member has declared from this tick (R373)
  leaving : Bool := false          -- it leaves at its next switch tick on its own account (R370)
  joining : Option (Nat × Nat × Nat × Nat) := none   -- an ADMIT waiting: index, W_A, stamp, step (R374)
  admitted : List Member := []     -- the members that ADMIT named, kept up to W_A
  sponsor : Option PortId := none  -- a JOIN has been sent on that port (R374)
  joinDecl : Nat × Nat := (0, 0)   -- the ceiling and demand of that JOIN (R371)
  deriving DecidableEq, Repr

/-- A link port (R392, R395): its neighbour, failures, and the inbound store of each core. -/
structure Port where
  trained : Bool := false
  peer    : Option Nat := none     -- chorus index of the neighbour package
  fails   : Nat := 0
  store   : List Flit := []        -- flits waiting, oldest first
  sent    : List Flit := []        -- flits sent and not yet taken by the neighbour
  skip    : List (CoreId × CoreId × BitVec 6) := []   -- source, destination and channel of streams whose rest is discarded (R395)
  deriving DecidableEq, Repr

/-- A host function (R404, R405, R409, R411, R415). -/
structure Func where
  enabled : Bool := false
  ide     : Bool := false
  sqbase  : BitVec 40 := 0
  sqen    : Bool := false
  sqlog   : Nat := 4
  sqtail  : BitVec 12 := 0
  sqhead  : BitVec 12 := 0
  cqbase  : BitVec 40 := 0
  cqien   : Bool := false
  cqen    : Bool := false
  cqlog   : Nat := 4
  cqhead  : BitVec 12 := 0
  cqtail  : BitVec 12 := 0
  cqphase : Bool := true           -- PHASE bit of the next record (R327)
  errSq   : Bool := false
  errCq   : Bool := false
  held    : List Nat := []         -- ended cards whose records wait (R326)
  ring    : List Byte := []        -- hub ring memory, 16 KiB (R415); short of it reads zero
  answer  : Word := 0              -- what the function's last read returned
  nonce   : Vector Word 4 := Vector.replicate 4 0
  deriving DecidableEq, Repr

/-- Start-up and the security block (R406 to R414). -/
structure Boot where
  stage   : Nat := 1               -- the stage in progress, 8 once stage 7 is complete
  began   : Nat := 0               -- the tick at which the stage began
  failed  : Bool := false          -- the attempt has stopped
  counter : BitVec 4 := 0          -- the start counter
  reason  : Byte := 0
  failSt  : BitVec 4 := 7
  minimal : Bool := false
  meas    : Vector (BitVec 256) 8 := Vector.replicate 8 0
  report  : List Byte := []
  signing : Option (List Byte) := none   -- the nonce of the report being built (R409)
  done    : Bool := false
  minVer  : Nat := 0               -- the fused minimum version (R407)
  bifurc  : BitVec 2 := 0
  deriving DecidableEq, Repr

/-- A soft error (R204, R416): what changes in a store or in logic without an instruction (log 10). -/
inductive Upset where
  | word (c : CoreId) (sram : Bool) (off : Nat) (double : Bool)   -- the 8-byte word at an offset of Ember or of operand SRAM
  | hbm (addr : Nat) (double : Bool)                 -- the 8-byte word at a physical address of HBM
  | read (c : CoreId) (e : Ecc)                      -- what the first read of own Ember by Smith that lands in this cycle finds
  | slot (c : CoreId) (v : Fin 32) (i : Nat) (double : Bool)   -- run slot `i` of a vector register
  | tile (c : CoreId) (j : Fin 4) (word : Nat) (double : Bool) -- a 64-bit word of a tile, 512 to a row
  | result (c : CoreId) (i : Fin 16)                 -- the parity of an entry of the result queue
  | feed (c : CoreId) (f : Fin 8) (i : Nat)          -- the parity of an element of a feed, 0 the oldest
  | command (c : CoreId) (e : EngId) (i : Nat)       -- the parity of an entry of an engine queue, 0 the head
  | descriptor (c : CoreId) (n : Fin 64) (bit : Fin 256)   -- a bit of the descriptor table
  | adder (c : CoreId)                               -- the residue of an Anvil pass that ends in this cycle
  | silent (p : Fin 72)                              -- a physical core answers no further poll (R418)
  deriving DecidableEq, Repr

structure State where
  inputs : List (Nat × Instr) := []   -- outside events not yet taken, each with the cycle from which it is taken (log 2)
  upsets : List (Nat × Upset) := []   -- soft errors still to come, each with the cycle from which it strikes (log 10)
  clock  : Clock
  cur    : CoreId := 0             -- the core whose instruction executes
  mem    : Mem := {}               -- HBM and host memory by physical address (R230)
  cores  : Vector Core 64
  hub    : Hub
  dies   : Vector Die 4
  life   : Life
  chorus : Chorus
  ports  : Vector Port 16 := Vector.replicate 16 {}
  funcs  : Vector Func 4 := Vector.replicate 4 {}
  boot   : Boot
  deriving DecidableEq, Repr

/-- Why the machine stops. -/
inductive Fault where
  /-- HOST_HBM_READ and HOST_HBM_WRITE: the address lies beyond the 1 TiB of BAR 2 (R404), so no such access exists. Safe. -/
  | beyondBar2
  deriving DecidableEq, Repr

/-- Why an instruction has no meaning. -/
inductive Refusal where
  /-- Raised by Dispatch alone, for an instruction whose meaning is not written yet. Safe. -/
  | notModelled (mnemonic : String)
  deriving DecidableEq, Repr

/-- The band that contains a temperature (R216). -/
def bandOf (t : Nat) : Nat :=
  if t < 40 then 0 else if t < 55 then 1 else if t < 65 then 2 else if t < 75 then 3
  else if t < 85 then 4 else if t < 95 then 5 else if t < 105 then 6 else 7

/-- The lifetime table at reset (R213), byte 8 × band + class. -/
def lifeReset : Vector Byte 64 := #v[
  255, 255, 255, 255, 255, 255, 255, 255,  128, 255, 255, 255, 255, 255, 255, 255,
  64, 128, 255, 255, 255, 255, 128, 255,   32, 64, 128, 255, 128, 255, 64, 192,
  16, 32, 64, 128, 64, 128, 32, 96,        8, 16, 32, 64, 32, 64, 16, 48,
  4, 8, 16, 32, 16, 32, 8, 24,             0, 0, 0, 0, 0, 0, 4, 12]

/-- The ramp table at reset (R362). -/
def rampReset : Vector (BitVec 16) 16 :=
  #v[64, 64, 96, 96, 128, 128, 160, 160, 192, 192, 224, 224, 256, 256, 256, 256]

/-- The mapping of logical to physical cores at reset (R15). -/
def mapReset : Vector (Option (Fin 72)) 64 := Vector.ofFn fun l => some (Fin.ofNat 72 (18 * (l.val / 16) + l.val % 16))

/-- A die at reset: the sensor is read once (R216). -/
def Die.reset (t : Byte) : Die := { ramp := rampReset, temp := t, band := bandOf t.toNat }

/-- The package as a chorus of one at step SAFE (R368). The member entry is its own; its ceiling and demand have no reset
value (log 4). -/
def Chorus.reset : Chorus := { members := [{ idx := 0, st := 2, ceil := Config.safeStep, decls := [(0, 0, Config.safeStep, 0)] }] }

/-- The machine right after device reset, with an attempt begun (R413): stage 1 is in progress. -/
def State.reset : State where
  clock := { free := 4 }
  cores := Vector.replicate 64 {}
  hub := { map := mapReset }
  dies := #v[Die.reset (Config.sensor 0), Die.reset (Config.sensor 1), Die.reset (Config.sensor 2), Die.reset (Config.sensor 3)]
  life := { table := lifeReset }
  chorus := Chorus.reset
  boot := { counter := 1 }

end Sys2Proof.Machine
end

