-- ==== Sys2Proof/Machine/Memory.lean ====
section
/-! DEFINITION. Memories as canonical lists of bytes (R3), and the poison and single-bit marks of their 8-byte words
(R204, R229, R416). An unlisted byte reads 0 (log 6; Ember by R210), but for restored operand SRAM (log 13). -/

namespace Sys2Proof.Machine

/-- What the unlisted address `a` reads as: 0 (log 6), or a free byte of restored operand SRAM (log 13). -/
def Mem.back (m : Mem) (a : Nat) : Byte := match m.seed with | none => 0 | some k => Config.sramByte k a

/-- The byte at an address of a canonical list over the background `bg`. -/
def cellGet (bg : Nat → Byte) : List Host.Cell → Nat → Byte
  | [], a => bg a
  | (k, v) :: t, a => if k = a then v else cellGet bg t a

/-- Put one byte, keeping the list canonical: the background's byte removes the entry. -/
def cellPut (bg : Nat → Byte) : List Host.Cell → Nat → Byte → List Host.Cell
  | [], a, b => if b = bg a then [] else [(a, b)]
  | (k, v) :: t, a, b =>
    if k < a then (k, v) :: cellPut bg t a b
    else if k = a then (if b = bg a then t else (a, b) :: t)
    else (if b = bg a then (k, v) :: t else (a, b) :: (k, v) :: t)

/-- Addresses strictly rising and above `lo`, no entry equal to the background. -/
def cellsWf (bg : Nat → Byte) : Option Nat → List Host.Cell → Bool
  | _, [] => true
  | lo, (k, v) :: t => (match lo with | none => true | some l => decide (l < k)) && v != bg k && cellsWf bg (some k) t

/-- The canonical form of a memory. -/
def Mem.wf (m : Mem) : Bool := cellsWf m.back none m.cells

/-- One byte. -/
def Mem.get (m : Mem) (a : Nat) : Byte := cellGet m.back m.cells a

/-- `n` bytes from `a`. -/
def Mem.read (m : Mem) (a : Nat) : Nat → List Byte
  | 0 => []
  | n + 1 => m.get a :: Mem.read m (a + 1) n

/-- The little-endian number of `n` bytes at `a` (R3). -/
def Mem.readNat (m : Mem) (a n : Nat) : Nat := leNat (m.read a n)

def cellsWrite (bg : Nat → Byte) : List Host.Cell → Nat → List (Option Byte) → List Host.Cell
  | l, _, [] => l
  | l, a, none :: t => cellsWrite bg l (a + 1) t
  | l, a, some b :: t => cellsWrite bg (cellPut bg l a b) (a + 1) t

/-- The 8-byte words that a write of `bs` at `a` covers whole (R204). -/
def wholeWords (a : Nat) (bs : List (Option Byte)) : List Nat :=
  (List.range (bs.length / 8 + 1)).filterMap fun i =>
    let w := ceilDiv a 8 + i
    if 8 * w + 8 ≤ a + bs.length && ((bs.drop (8 * w - a)).take 8).all Option.isSome then some w else none

/-- A write of the bytes that the mask keeps. A whole word clears its poison and its single-bit error (R204). -/
def Mem.writeMask (m : Mem) (a : Nat) (bs : List (Option Byte)) : Mem :=
  let ws := wholeWords a bs
  { m with
    cells := cellsWrite m.back m.cells a bs
    weak := m.weak.filter (fun w => !ws.contains w)
    pois := m.pois.filter (fun w => !ws.contains w) }

/-- A write of consecutive bytes. -/
def Mem.write (m : Mem) (a : Nat) (bs : List Byte) : Mem := m.writeMask a (bs.map some)

/-- The bytes of `[a, a + n)` discarded: they read as unlisted and carry no mark. -/
def Mem.erase (m : Mem) (a n : Nat) : Mem :=
  { m with
    cells := m.cells.filter fun c => c.1 < a || a + n ≤ c.1
    weak := m.weak.filter fun w => 8 * w < a || a + n ≤ 8 * w
    pois := m.pois.filter fun w => 8 * w < a || a + n ≤ 8 * w }

/-- The first poisoned word that `[a, a + n)` touches, as a byte address (R204). -/
def Mem.poisonIn (m : Mem) (a n : Nat) : Option Nat :=
  ((m.pois.filter fun w => a < 8 * w + 8 && 8 * w < a + n).foldl
    (fun acc w => match acc with | none => some w | some x => some (min x w)) none).map (8 * ·)

/-- The number of words with an uncorrected single-bit error that `[a, a + n)` touches (R204, R391). -/
def Mem.weakIn (m : Mem) (a n : Nat) : Nat := (m.weak.filter fun w => a < 8 * w + 8 && 8 * w < a + n).length

/-- The number of poisoned words that `[a, a + n)` touches (R391). -/
def Mem.poisonsIn (m : Mem) (a n : Nat) : Nat := (m.pois.filter fun w => a < 8 * w + 8 && 8 * w < a + n).length

/-- Fault 0x1A of a read that finds some poisoned words (R204). -/
def poisonCode (n : Nat) : Option Byte := if n = 0 then none else some 0x1A

/-- The poisoned words and the words with a single-bit error among those of which `used` takes a byte, `used` standing for the bytes from `a` on. -/
def Mem.errorsIn (m : Mem) (a : Nat) (used : List Bool) : Nat × Nat :=
  let hit (w : Nat) : Bool := used.zipIdx.any fun x => x.1 && (a + x.2) / 8 == w
  ((m.pois.filter hit).length, (m.weak.filter hit).length)

/-- Mark the word at `a` poisoned. -/
def Mem.poison (m : Mem) (a : Nat) : Mem :=
  { m with pois := if m.pois.contains (a / 8) then m.pois else (a / 8) :: m.pois }

/-- Mark the word at `a` as holding a single-bit error. -/
def Mem.weaken (m : Mem) (a : Nat) : Mem :=
  { m with weak := if m.weak.contains (a / 8) then m.weak else (a / 8) :: m.weak }

end Sys2Proof.Machine
end

