-- ==== Sys2Proof/Machine/Access.lean ====
section
/-! DEFINITION. Access to the parts of the state, effective addresses (R226), physical space (R230), translation
(R231 to R235), leases (R238, R239) and the state of Ember row groups (R203 to R210). -/

namespace Sys2Proof.Machine

/-- An element of a vector by number, `d` outside it. -/
def vget {α : Type} {n : Nat} (v : Vector α n) (i : Nat) (d : α) : α := v[i]?.getD d

/-- A vector with one element replaced; unchanged outside it. -/
def vput {α : Type} {n : Nat} (v : Vector α n) (i : Nat) (x : α) : Vector α n := v.setIfInBounds i x

/-- Insertion by a key, after equal keys. -/
def insertBy {α : Type} (key : α → Nat) (x : α) : List α → List α
  | [] => [x]
  | y :: t => if key x < key y then x :: y :: t else y :: insertBy key x t

/-- A list in ascending order of a key, equal keys in their old order. -/
def sortBy {α : Type} (key : α → Nat) (l : List α) : List α := l.foldl (fun acc x => insertBy key x acc) []

/-- The core with logical number `l`. -/
def State.core (s : State) (l : CoreId) : Core := s.cores[l]

def State.setCore (s : State) (l : CoreId) (c : Core) : State := { s with cores := s.cores.set l c }

def State.modCore (s : State) (l : CoreId) (f : Core → Core) : State := s.setCore l (f (s.core l))

def State.die (s : State) (d : DieId) : Die := s.dies[d]

def State.setDie (s : State) (d : DieId) (x : Die) : State := { s with dies := s.dies.set d x }

/-- The die of a logical core (R15). -/
def dieOf (l : CoreId) : DieId := Fin.ofNat 4 (l.val / 16)

def State.port (s : State) (p : PortId) : Port := s.ports[p]

def State.setPort (s : State) (p : PortId) (x : Port) : State := { s with ports := s.ports.set p x }

def State.func (s : State) (f : FnId) : Func := s.funcs[f]

def State.setFunc (s : State) (f : FnId) (x : Func) : State := { s with funcs := s.funcs.set f x }

/-- The current cycle. -/
def State.now (s : State) : Nat := s.clock.now

/-- A number for a free value, and the state with the counter advanced (log 5). -/
def State.fresh (s : State) : Nat × State :=
  (s.clock.free, { s with clock := { s.clock with free := s.clock.free + 1 } })

/-- An unarchitected time: a free value (log 5, 9). -/
def State.delay (s : State) : Nat × State := (Config.freeDelay s.fresh.1, s.fresh.2)

/-- A scalar register; `s0` reads 0 (R99). -/
def Core.getS (c : Core) (r : Nat) : Word := if r = 0 then 0 else vget c.s r 0

/-- A write of a scalar register; `s0` is never written (R99). -/
def Core.setS (c : Core) (r : Nat) (v : Word) : Core := if r = 0 then c else { c with s := vput c.s r v }

/-- An engine of a core. -/
def Core.getE (c : Core) (e : EngId) : Eng := c.eng[e]

def Core.setE (c : Core) (e : EngId) (x : Eng) : Core := { c with eng := c.eng.set e x }

/-- Count `n` events in the event counter at CSR 0x120 + `i` (R391). They count while the task is bound and not saved. -/
def Core.count (c : Core) (i n : Nat) : Core :=
  if c.task.isSome then
    { c with csr := { c.csr with ev := vput c.csr.ev i (vget c.csr.ev i 0 + BitVec.ofNat 64 n) } } else c

/-- A card of the hub by its number. -/
def Hub.card (h : Hub) (n : Nat) : Option Card := h.cards.find? (·.id == n)

def Hub.setCard (h : Hub) (c : Card) : Hub :=
  { h with cards := h.cards.map fun x => if x.id == c.id then c else x }

def State.setHub (s : State) (h : Hub) : State := { s with hub := h }

/-- A task with the page tables that its address space shows its units (R236, R240). -/
def Hub.shown (h : Hub) (t : Task) : Task :=
  { t with view := (h.tabs.find? fun x => x.1 == fld t.asid 0 12 && x.2.1 == t.root).map (·.2.2) }

def State.modCard (s : State) (n : Nat) (f : Card → Card) : State :=
  match s.hub.card n with
  | none => s
  | some c => s.setHub (s.hub.setCard (f c))

/-! ### Spaces -/

/-- The spaces of the effective address map (R226). -/
inductive Space where
  | ember (off : Nat)
  | sram (off : Nat)
  | glob (va : Nat)
  | none
  deriving DecidableEq, Repr

/-- First byte of the Ember window and of the operand SRAM window (R225, R226; log 7). -/
def emberWindow : Nat := 0xE000000000000000
def sramWindow : Nat := 0xE100000000000000

/-- R226. -/
def spaceOf (ea : Nat) : Space :=
  if ea / 2 ^ 28 = 0xE00000000 then .ember (ea % 2 ^ 28)
  else if ea / 2 ^ 28 = 0xE10000000 then (if bitsAt ea 27 1 = 0 then .sram (ea % 2 ^ 27) else .none)
  else if ea < 2 ^ 48 then .glob ea
  else .none

/-- A physical address that has memory: HBM or one of the two hosts (R230). -/
def physExists (p : Nat) : Bool := decide (p < 2 ^ 40) || (decide (0x400000000000 ≤ p) && decide (p < 0x800000000000))

/-- The rights an access needs (R235): 1 RD, 2 W, 4 X. -/
def needRd : Nat := 1
def needW : Nat := 2
def needX : Nat := 4

/-- Whether a mask of rights holds every right of `need`. -/
def hasRights (rights need : Nat) : Bool := rights &&& need == need

/-- One level of the walk (R235), `fuel` levels from `level` on. -/
def walkFrom (m : Mem) (va need : Nat) : (fuel level t : Nat) → Option (Nat × Bool)
  | 0, _, _ => none
  | fuel + 1, level, t =>
    let idx := if level = 1 then bitsAt va 42 6 else if level = 2 then bitsAt va 29 13 else bitsAt va 16 13
    let e := m.readNat (t + 8 * idx) 8
    if bitsAt e 0 1 = 0 || bitsAt e 6 10 != 0 || bitsAt e 48 16 != 0 then none
    else if bitsAt e 1 1 = 0 then
      if level = 3 || bitsAt e 2 4 != 0 then none
      else
        let t' := bitsAt e 16 32 * 2 ^ 16
        if 2 ^ 40 ≤ t' then none else walkFrom m va need fuel (level + 1) t'
    else if level = 1 then none
    else if level = 2 && bitsAt e 16 13 != 0 then none
    else if !hasRights (bitsAt e 2 3) need then none
    else
      let p := bitsAt e 16 32 * 2 ^ 16 + va % (if level = 2 then 2 ^ 29 else 2 ^ 16)
      let conf := bitsAt e 5 1 = 1
      if !physExists p || (conf && 2 ^ 40 ≤ p) then none else some (p, conf)

/-- Memory as the walks of a task find it: its page tables as they stood at the last invalidation (R236, R240). -/
def Task.tables (t : Task) (m : Mem) : Mem := match t.view with | none => m | some cells => { cells }

/-- The walk of R235 from the root of an address space, with R230 and the host-page rule of R242. -/
def walk (m : Mem) (t : Task) (va need : Nat) : Option (Nat × Bool) := walkFrom (t.tables m) va need 3 1 t.root

/-- Whether `va` lies in the heap window (R231). -/
def Task.inHeap (t : Task) (va : Nat) : Bool := t.heapl != 0 && decide (t.heapb ≤ va) && decide (va < t.heapb + t.heapl)

/-- R231: the physical address of a global virtual address, none for fault 0x09. The window never executes. -/
def translate (m : Mem) (t : Task) (va need : Nat) : Option Nat :=
  if t.inHeap va then
    if need = needX then none
    else
      let p := (va + t.heapo) % 2 ^ 48
      if physExists p then some p else none
  else (walk m t va need).map (·.1)

/-- Whether one lease range holds the byte and grants the right (R238). Heap-window accesses always pass (R239). -/
def Task.leased (t : Task) (va need : Nat) : Bool :=
  t.inHeap va || t.leases.any fun (b, e, r) => decide (b ≤ va) && decide (va < e) && hasRights r need

/-- A global access: its physical address, or fault 0x09 and then 0x08 (R129, R179, R239). -/
def globalAt (m : Mem) (t : Task) (va need : Nat) : Except Byte Nat :=
  match translate m t va need with
  | none => .error 0x09
  | some p => if t.leased va need then .ok p else .error 0x08

/-! ### Ember row groups -/

/-- The bank of an offset (R205). -/
def bankOf (off : Nat) : Nat := (off / 64 % 32) ^^^ (off / 2048 % 32)

def Slice.row (sl : Slice) (g : Nat) : Option Row := sl.rows.find? (·.g == g)

/-- Put a row group's state, keeping the list in ascending index. -/
def rowPut : List Row → Row → List Row
  | [], r => [r]
  | x :: t, r => if x.g < r.g then x :: rowPut t r else if x.g = r.g then r :: t else r :: x :: t

def Slice.setRow (sl : Slice) (r : Row) : Slice := { sl with rows := rowPut sl.rows r }

/-- The state of the row group at an offset: none when it is free (R209). -/
def Slice.rowAt (sl : Slice) (off : Nat) : Option Row := sl.row (off / 4096)

/-- One byte of a slice as a reader finds it: the hold register's byte in place of the array's (R207), zero in an empty row
group (R210). -/
def Slice.byte (sl : Slice) (a : Nat) : Byte :=
  let held := sl.hold.findSome? fun (_, h) =>
    if h.addr ≤ a && a < h.addr + 8 then (h.data.getD (a - h.addr) none) else none
  match sl.rowAt a with
  | some { st := .empty, .. } => held.getD 0
  | _ => held.getD (sl.mem.get a)

def Slice.bytes (sl : Slice) (a : Nat) : Nat → List Byte
  | 0 => []
  | n + 1 => sl.byte a :: Slice.bytes sl (a + 1) n

/-- Whether the hold register of its bank holds a whole word: the write has cleared the word's marks, though it has not drained (R204, R207). -/
def Slice.held (sl : Slice) (w : Nat) : Bool := sl.hold.any fun x => x.2.addr == 8 * w && x.2.data.all Option.isSome

/-- The words of a slice that read as poisoned, and as holding a single-bit error. -/
def Slice.pois (sl : Slice) : List Nat := sl.mem.pois.filter fun w => !sl.held w
def Slice.weak (sl : Slice) : List Nat := sl.mem.weak.filter fun w => !sl.held w

/-- How many words of a list some of the ranges (address, bytes) touch. -/
def touched (ws : List Nat) (ranges : List (Nat × Nat)) : Nat :=
  (ws.filter fun w => ranges.any fun r => r.1 < 8 * w + 8 && 8 * w < r.1 + r.2).length

/-- The poisoned words and the corrected words of a read of a slice; row groups that are not valid hold no code (R204). -/
def Slice.errors (sl : Slice) (ranges : List (Nat × Nat)) : Nat × Nat :=
  let ok := ranges.filter fun r => (sl.rowAt r.1).any (·.st == .valid)
  (touched sl.pois ok, touched sl.weak ok)

/-- The fault of a read of `n` bytes at an offset of one line: 0x09 free, 0x0A invalid, 0x1A poisoned (R204, R210). -/
def Slice.readFault (sl : Slice) (a n : Nat) : Option Byte :=
  match sl.rowAt a with
  | none => some 0x09
  | some r => match r.st with
    | .invalid => some 0x0A
    | .empty => none
    | .valid => poisonCode (touched sl.pois [(a, n)])

/-- The first write makes an empty row group valid; its bytes that no write reaches read zero (R209, R210). -/
def Slice.touch (sl : Slice) (g : Nat) : Slice :=
  match sl.row g with
  | some r => if r.st = .empty then sl.setRow { r with st := .valid } else sl
  | none => sl

/-- The bytes of a hold register that a write of `bs` at `a` replaces (R207). -/
def Hold.replace (h : Hold) (a : Nat) (bs : List (Option Byte)) : Hold :=
  { h with data := (List.range 8).map fun i =>
      let x := h.addr + i
      let new := if a ≤ x then bs.getD (x - a) none else none
      match h.data.getD i none with
      | some old => some (new.getD old)
      | none => none }

/-- A write of an engine or of the vector unit into the array, which also replaces the hold register's bytes (R207). Bytes of a
free row group are not written. -/
def Slice.write (sl : Slice) (a : Nat) (bs : List (Option Byte)) : Slice :=
  if (sl.rowAt a).isNone then sl
  else
    let sl := { sl with mem := sl.mem.writeMask a bs, hold := sl.hold.map fun (x : Nat × Hold) => (x.1, Hold.replace x.2 a bs) }
    sl.touch (a / 4096)

/-- Drain a bank's hold register into the array (R207). -/
def Slice.drain (sl : Slice) (bank : Nat) : Slice :=
  match sl.hold.find? (·.1 == bank) with
  | none => sl
  | some (_, h) =>
    let sl := { sl with hold := sl.hold.filter (·.1 != bank) }
    if (sl.rowAt h.addr).isNone then sl else { sl with mem := sl.mem.writeMask h.addr h.data }

/-- Put a scalar store's bytes into the hold register of its bank; another word that it still holds drains in the same cycle (R207). -/
def Slice.enterHold (sl : Slice) (off : Nat) (data : List Byte) : Slice :=
  if (sl.rowAt off).isNone then sl
  else
    let w := off / 8 * 8
    let sl := if sl.hold.any fun x => x.1 == bankOf off && x.2.addr != w then sl.drain (bankOf off) else sl
    let bytes := (List.range 8).map fun i => if off ≤ w + i then data[w + i - off]? else none
    let old := (sl.hold.find? (fun x => x.1 == bankOf off && x.2.addr == w)).map (·.2.data)
    let merged := match old with
      | none => bytes
      | some o => (List.range 8).map fun i => (bytes.getD i none).orElse fun _ => o.getD i none
    let sl := { sl with hold := (bankOf off, ⟨w, merged⟩) :: sl.hold.filter (·.1 != bankOf off) }
    sl.touch (off / 4096)

/-- Discard a row group's data (R223): it is free, and no rewrite of it stays queued. -/
def Slice.free (sl : Slice) (g : Nat) : Slice :=
  { sl with
    rows := sl.rows.filter (·.g != g)
    mem := sl.mem.erase (4096 * g) 4096
    hold := sl.hold.filter fun (_, h) => h.addr / 4096 != g
    queue := sl.queue.filter (·.g != g) }

end Sys2Proof.Machine
end

