-- ==== Sys2Proof/Machine/Formats.lean ====
section
/-! DEFINITION. Number formats and exact arithmetic (R45 to R75): the value of an encoding, Round and RoundInt, the scalar
operations of R133, conversions, and the six special functions. Every intermediate value is an exact dyadic or rational
number. -/

namespace Sys2Proof.Machine

/-- A rounding mode (R61). -/
inductive Rm where
  | rne | rtz | rdn | rup
  deriving DecidableEq, Repr

/-- The mode that `frm.RM` names (R61). -/
def rmOf (n : Nat) : Rm := if n % 4 = 0 then .rne else if n % 4 = 1 then .rtz else if n % 4 = 2 then .rdn else .rup

/-- The value of an encoding: `fin neg m e` is (-1)^neg * m * 2^e, with the sign kept when m = 0. -/
inductive Val where
  | nan
  | inf (neg : Bool)
  | fin (neg : Bool) (m : Nat) (e : Int)
  deriving DecidableEq, Repr

/-- Element width in bits (R45); 8 for the EBX container. -/
def bitsOf (f : Nat) : Nat :=
  match f with
  | 0 => 64 | 1 => 32 | 2 => 16 | 3 => 16 | 4 => 8 | 5 => 8 | 6 => 8 | 7 => 4 | 8 => 8 | 9 => 4 | 10 => 3
  | 11 => 8 | 12 => 16 | 13 => 32 | 14 => 8 | _ => 8

/-- Element width in bytes of a vector format (R45). -/
def widthOf (f : Nat) : Nat := bitsOf f / 8

/-- The floating-point formats (R47). -/
def isFlt (f : Nat) : Bool := decide (f < 6)
/-- INTS of R160. -/
def isInts (f : Nat) : Bool := f == 6 || f == 12 || f == 13 || f == 14
/-- The formats a vector register may hold (R45). -/
def isVecFmt (f : Nat) : Bool := isFlt f || isInts f || f == 15
/-- NUM of R160. -/
def isNum (f : Nat) : Bool := isFlt f || isInts f
/-- LOG of R160. -/
def isLog (f : Nat) : Bool := f == 14 || f == 12 || f == 13 || f == 15

/-- Precision p (R47). -/
def precOf (f : Nat) : Nat := match f with | 0 => 53 | 1 => 24 | 2 => 8 | 3 => 11 | 4 => 4 | _ => 3
/-- Exponent bias (R47). -/
def biasOf (f : Nat) : Nat := match f with | 0 => 1023 | 1 => 127 | 2 => 127 | 3 => 15 | 4 => 7 | _ => 15
/-- Width of the exponent field (R47). -/
def ebitsOf (f : Nat) : Nat := match f with | 0 => 11 | 1 => 8 | 2 => 8 | 3 => 5 | 4 => 4 | _ => 5
/-- Encoding of the largest finite value (R48). -/
def maxFinite (f : Nat) : Nat :=
  match f with | 0 => 0x7FEFFFFFFFFFFFFF | 1 => 0x7F7FFFFF | 2 => 0x7F7F | 3 => 0x7BFF | 4 => 0x7E | _ => 0x7B
/-- Encoding of +infinity; E4M3 has none and saturates to 448 (R48, R62). -/
def infEnc (f : Nat) : Nat :=
  match f with | 0 => 0x7FF0000000000000 | 1 => 0x7F800000 | 2 => 0x7F80 | 3 => 0x7C00 | 4 => 0x7E | _ => 0x7C
/-- The produced NaN (R48, R49). -/
def nanEnc (f : Nat) : Nat :=
  match f with | 0 => 0x7FF8000000000000 | 1 => 0x7FC00000 | 2 => 0x7FC0 | 3 => 0x7E00 | 4 => 0x7F | _ => 0x7E

/-- Put the sign bit of format `f`. -/
def withSign (f : Nat) (neg : Bool) (mag : Nat) : Nat := if neg then mag + 2 ^ (bitsOf f - 1) else mag

/-- The value of a floating-point encoding (R47). -/
def fltVal (f enc : Nat) : Val :=
  let p := precOf f
  let neg := bitsAt enc (bitsOf f - 1) 1 = 1
  let e := bitsAt enc (p - 1) (ebitsOf f)
  let m := bitsAt enc 0 (p - 1)
  if e = 0 then .fin neg m (1 - (biasOf f : Int) - (p - 1 : Nat))
  else if e = 2 ^ ebitsOf f - 1 && f != 4 then (if m = 0 then .inf neg else .nan)
  else if e = 15 && f == 4 && m = 7 then .nan
  else .fin neg (2 ^ (p - 1) + m) ((e : Int) - biasOf f - (p - 1 : Nat))

/-- The value of an integer, Boolean or INT4 encoding (R51, R52). -/
def intOf (f enc : Nat) : Int :=
  match f with
  | 6 => signed 8 enc | 7 => signed 4 enc | 12 => signed 16 enc | 13 => signed 32 enc
  | 15 => if enc % 256 = 0 then 0 else 1
  | _ => ((enc % 2 ^ bitsOf f : Nat) : Int)

/-- An integer as a value. -/
def Val.ofInt (i : Int) : Val := .fin (decide (i < 0)) i.natAbs 0

/-- The value of an element encoding in any format. -/
def valOf (f enc : Nat) : Val := if isFlt f then fltVal f enc else Val.ofInt (intOf f enc)

/-- Bounds of an integer format (R51, R162). -/
def intMin (f : Nat) : Int := match f with | 6 => -127 | 7 => -7 | 12 => -32768 | 13 => -2147483648 | _ => 0
def intMax (f : Nat) : Int :=
  match f with | 6 => 127 | 7 => 7 | 12 => 32767 | 13 => 2147483647 | 15 => 1 | _ => 255

/-- An integer saturated into format `f`, as an encoding (R63, R162). -/
def narrowInt (f : Nat) (i : Int) : Nat := wrapTo (bitsOf f) (clampInt (intMin f) (intMax f) i)

/-! ### Rounding -/

/-- Whether a quotient `s` with remainder `r` of `d` is raised by one (R61). -/
def incr (mode : Rm) (neg : Bool) (s r d : Nat) : Bool :=
  match mode with
  | .rne => decide (d < 2 * r) || (2 * r == d && s % 2 == 1)
  | .rtz => false
  | .rdn => neg && r != 0
  | .rup => !neg && r != 0

/-- `num / (den * 2^q)` as quotient, remainder and divisor. -/
def quot (num den : Nat) (q : Int) : Nat × Nat × Nat :=
  let n := num * 2 ^ (-q).toNat
  let d := den * 2 ^ q.toNat
  (n / d, n % d, d)

/-- The exponent e with 2^e ≤ num / den < 2^(e+1), for positive numbers. -/
def expOf (num den : Nat) : Int :=
  let e : Int := (num.log2 : Int) - den.log2
  if (quot num den e).1 = 0 then e - 1 else e

/-- Round(F, v, mode) of R62 for v = (-1)^neg * num / den. -/
def roundQ (f : Nat) (neg : Bool) (num den : Nat) (mode : Rm) : Nat :=
  if num = 0 then withSign f neg 0
  else
    let p := precOf f
    let emin : Int := 1 - biasOf f
    let e := max (expOf num den) emin
    let x := quot num den (e - (p - 1 : Nat))
    let mag := (e - emin).toNat * 2 ^ (p - 1) + x.1 + ofBool (incr mode neg x.1 x.2.1 x.2.2)
    if mag ≤ maxFinite f then withSign f neg mag
    else if f == 4 then withSign f neg (maxFinite f)
    else match mode with
      | .rne => withSign f neg (infEnc f)
      | .rtz => withSign f neg (maxFinite f)
      | .rdn => withSign f neg (if neg then infEnc f else maxFinite f)
      | .rup => withSign f neg (if neg then maxFinite f else infEnc f)

/-- Round(F, v, mode) of R62. -/
def roundV (f : Nat) (v : Val) (mode : Rm) : Nat :=
  match v with
  | .nan => nanEnc f
  | .inf neg => withSign f neg (infEnc f)
  | .fin neg m e => roundQ f neg (m * 2 ^ e.toNat) (2 ^ (-e).toNat) mode

/-- RoundInt(v, mode) of R63 for v = (-1)^neg * num / den. -/
def roundIntQ (neg : Bool) (num den : Nat) (mode : Rm) : Int :=
  let s := num / den + ofBool (incr mode neg (num / den) (num % den) den)
  if neg then -(s : Int) else s

/-- RoundInt of a finite value. -/
def roundIntV (neg : Bool) (m : Nat) (e : Int) (mode : Rm) : Int :=
  roundIntQ neg (m * 2 ^ e.toNat) (2 ^ (-e).toNat) mode

/-- Clamp(RoundInt(v, mode), lo, hi), NaN giving 0 (R63). -/
def toIntClamp (lo hi : Int) (v : Val) (mode : Rm) : Int :=
  match v with
  | .nan => 0
  | .inf neg => if neg then lo else hi
  | .fin neg m e => clampInt lo hi (roundIntV neg m e mode)

/-- Whether a value is +0 or -0. -/
def Val.isZero : Val → Bool
  | .fin _ m _ => m == 0
  | _ => false

/-- A conversion between two formats (R62 to R64). -/
def convert (src dst enc : Nat) (mode : Rm) : Nat :=
  let v := valOf src enc
  if dst == 15 then ofBool !v.isZero
  else if isFlt dst then roundV dst v mode
  else if isFlt src then wrapTo (bitsOf dst) (toIntClamp (intMin dst) (intMax dst) v mode)
  else narrowInt dst (intOf src enc)

/-! ### Exact operations -/

def Val.neg : Val → Val
  | .nan => .nan
  | .inf s => .inf (!s)
  | .fin s m e => .fin (!s) m e

def Val.abs : Val → Val
  | .nan => .nan
  | .inf _ => .inf false
  | .fin _ m e => .fin false m e

/-- The integer m * 2^(e - lo) with its sign. -/
def scaled (neg : Bool) (m : Nat) (e lo : Int) : Int :=
  let x : Int := (m * 2 ^ (e - lo).toNat : Nat)
  if neg then -x else x

/-- The exact sum, with the zero of R133. -/
def Val.add (mode : Rm) : Val → Val → Val
  | .nan, _ => .nan
  | _, .nan => .nan
  | .inf s, .inf t => if s = t then .inf s else .nan
  | .inf s, .fin .. => .inf s
  | .fin .., .inf t => .inf t
  | .fin s m e, .fin t n d =>
    let lo := min e d
    let x := scaled s m e lo + scaled t n d lo
    if x = 0 then .fin (if s = t then s else mode == .rdn) 0 0 else .fin (decide (x < 0)) x.natAbs lo

/-- The exact product (R133). -/
def Val.mul : Val → Val → Val
  | .nan, _ => .nan
  | _, .nan => .nan
  | .inf s, .inf t => .inf (s != t)
  | .inf s, .fin t n _ => if n = 0 then .nan else .inf (s != t)
  | .fin s m _, .inf t => if m = 0 then .nan else .inf (s != t)
  | .fin s m e, .fin t n d => .fin (s != t) (m * n) (e + d)

/-- Round of the exact quotient (R133). -/
def divV (f : Nat) (mode : Rm) : Val → Val → Nat
  | .nan, _ => nanEnc f
  | _, .nan => nanEnc f
  | .inf _, .inf _ => nanEnc f
  | .inf s, .fin t _ _ => withSign f (s != t) (infEnc f)
  | .fin s _ _, .inf t => withSign f (s != t) 0
  | .fin s m e, .fin t n d =>
    if n = 0 then (if m = 0 then nanEnc f else withSign f (s != t) (infEnc f))
    else roundQ f (s != t) (m * 2 ^ (e - d).toNat) (n * 2 ^ (d - e).toNat) mode

/-- The integer square root, bit by bit from `b` down. -/
def isqrtFrom (n : Nat) : (b : Nat) → Nat → Nat
  | 0, r => r
  | b + 1, r => let t := r + 2 ^ b; isqrtFrom n b (if t * t ≤ n then t else r)

def isqrt (n : Nat) : Nat := isqrtFrom n (n.log2 / 2 + 1) 0

/-- Round of the square root (R133, R166). An irrational root lies strictly between two neighbouring numbers of 130 more bits
than any precision, and their midpoint rounds as it does. -/
def sqrtV (f : Nat) (mode : Rm) : Val → Nat
  | .nan => nanEnc f
  | .inf neg => if neg then nanEnc f else infEnc f
  | .fin neg m e =>
    if m = 0 then withSign f neg 0
    else if neg then nanEnc f
    else
      let odd := e % 2 != 0
      let n := m * 2 ^ 260 * (if odd then 2 else 1)
      let k : Int := (if odd then e - 1 else e) / 2 - 130
      let r := isqrt n
      let (num, k) := if r * r = n then (r, k) else (2 * r + 1, k - 1)
      roundQ f false (num * 2 ^ k.toNat) (2 ^ (-k).toNat) mode

/-- The order of two values that are not NaN, -0 equal to +0. -/
def Val.lt : Val → Val → Bool
  | .nan, _ => false
  | _, .nan => false
  | .inf s, .inf t => s && !t
  | .inf s, .fin .. => s
  | .fin .., .inf t => !t
  | .fin s m e, .fin t n d => let lo := min e d; decide (scaled s m e lo < scaled t n d lo)

/-- Equality of two values; a NaN equals nothing (R133). -/
def Val.eq (a b : Val) : Bool := a != .nan && b != .nan && !a.lt b && !b.lt a

def Val.le (a b : Val) : Bool := a.lt b || a.eq b

def Val.isNeg : Val → Bool
  | .nan => false
  | .inf s => s
  | .fin s _ _ => s

/-- Whether `a` orders below `b` with -0 below +0 (R133). -/
def Val.below (a b : Val) : Bool := a.lt b || (a.isZero && b.isZero && a.isNeg && !b.isNeg)

/-- FMIN and FMAX of two encodings (R133). -/
def minEnc (f a b : Nat) : Nat :=
  let x := valOf f a
  let y := valOf f b
  if x = .nan || y = .nan then nanEnc f else if y.below x then b else a

def maxEnc (f a b : Nat) : Nat :=
  let x := valOf f a
  let y := valOf f b
  if x = .nan || y = .nan then nanEnc f else if x.below y then b else a

/-- The mask of R134. -/
def fclass (f enc : Nat) : Nat :=
  match fltVal f enc with
  | .nan => 2 ^ 8
  | .inf neg => if neg then 2 ^ 0 else 2 ^ 7
  | .fin neg m _ =>
    if m = 0 then (if neg then 2 ^ 3 else 2 ^ 4)
    else if m < 2 ^ (precOf f - 1) then (if neg then 2 ^ 2 else 2 ^ 5)
    else (if neg then 2 ^ 1 else 2 ^ 6)

/-- What a sum of counted terms has met so far: a NaN, +infinity, -infinity, whether every term was -0, whether every term was
+0, and the finite sum m * 2^e. -/
structure Sum where
  nan  : Bool := false
  pinf : Bool := false
  ninf : Bool := false
  allNZ : Bool := true
  allPZ : Bool := true
  m    : Int := 0
  e    : Int := 0
  deriving DecidableEq, Repr

/-- Add `count` copies of a term. -/
def Sum.add (s : Sum) (v : Val) (count : Nat) : Sum :=
  match v with
  | .nan => { s with nan := true, allNZ := false, allPZ := false }
  | .inf neg => { s with pinf := s.pinf || !neg, ninf := s.ninf || neg, allNZ := false, allPZ := false }
  | .fin neg m e =>
    if m = 0 then { s with allNZ := s.allNZ && neg, allPZ := s.allPZ && !neg }
    else
      let lo := min s.e e
      { s with allNZ := false, allPZ := false, m := s.m * (2 ^ (s.e - lo).toNat : Nat) + scaled neg (m * count) e lo, e := lo }

/-- The value of the sum; a zero is -0 when every term is -0, else `zneg` decides (R66, R171). -/
def Sum.val (s : Sum) (zneg : Bool) : Val :=
  if s.nan || (s.pinf && s.ninf) then .nan
  else if s.pinf then .inf false
  else if s.ninf then .inf true
  else if s.m = 0 then .fin (if s.allNZ then true else if s.allPZ then false else zneg) 0 0
  else .fin (decide (s.m < 0)) s.m.natAbs s.e

/-! ### Special functions (R70 to R75) -/

/-- T2 of R71. -/
def tabT2 : List Nat :=
  [1099511627776, 1111484524408, 1123587797336, 1135822866266, 1148191166361, 1160694148413, 1173333279014,
   1186110040723, 1199025932245, 1212082468605, 1225281181324, 1238623618601, 1252111345494, 1265745944104,
   1279529013758, 1293462171200] ++
  [1307547050779, 1321785304641, 1336178602923, 1350728633946, 1365437104419, 1380305739635, 1395336283673,
   1410530499604, 1425890169699, 1441417095635, 1457113098709, 1472980020050, 1489019720837, 1505234082514,
   1521625007013, 1538194416978] ++
  [1554944255988, 1571876488786, 1588993101510, 1606296101926, 1623787519664, 1641469406453, 1659343836365,
   1677412906057, 1695678735018, 1714143465815, 1732809264348, 1751678320101, 1770752846399, 1790035080670,
   1809527284706, 1829231744928] ++
  [1849150772653, 1869286704369, 1889641902006, 1910218753212, 1931019671637, 1952047097213, 1973303496441,
   1994791362681, 2016513216442, 2038471605683, 2060669106106, 2083108321460, 2105791883849, 2128722454038,
   2151902721764, 2175335406057]

/-- C of R71. -/
def tabC : List Nat :=
  [1099511627776, 762123384786, 264131837702, 61027412866, 10575244791, 1466040222]

/-- L2 of R71. -/
def tabL2 : List Nat :=
  [0, 24593670513, 48811850439, 72665833379, 96166410953, 119323902126, 142148180405, 164648699121, 186834514936,
   208714309726, 230296410986, 251588810853, 272599183877, 293334903628, 313803058232, 334010464915] ++
  [353963683636, 373669029871, 393132586612, 412360215640, 431357568124, 450130094590, 468683054306, 487021524133,
   505150406860, 523074439069, 540798198572, 558326111421, 575662458546, 592811382031, 609776891055, 626562867513] ++
  [643173071356, 659611145637, 675880621313, 691984921795, 707927367273, 723711178821, 739339482309, 754815312112,
   770141614652, 785321251761, 800357003888, 815251573160, 830007586292, 844627597367, 859114090496, 873469482342] ++
  [887696124545, 901796306033, 915772255233, 929626142182, 943360080554, 956976129588, 970476295949, 983862535498,
   997136754992, 1010300813719, 1023356525056, 1036305657968, 1049149938451, 1061891050909, 1074530639480,
   1087070309310]

/-- D[1] to D[7] of R71. -/
def tabD : List Nat :=
  [1586259972792, 793129986396, 528753324264, 396564993198, 317251994558, 264376662132, 226608567542]

/-- LOG2E of R71. -/
def log2e : Nat := 1586259972792

/-- RC[i] of R71: the nearest integer to 2^48 / (257 + 2i). -/
def tabRC (i : Nat) : Nat := (2 ^ 49 + (257 + 2 * i)) / (2 * (257 + 2 * i))

/-- RS[i] of R71: the nearest integer to 2^40 / sqrt(1 + (2i + 1) / 256), which is sqrt(2^88 / (257 + 2i)). -/
def tabRS (i : Nat) : Nat := (isqrt (2 ^ 90 / (257 + 2 * i)) + 1) / 2

/-- An exact rational num / den, den positive. -/
structure Frac where
  num : Int
  den : Nat
  deriving DecidableEq, Repr

/-- Round(F, y, RNE) of an exact rational; an exact zero is +0. -/
def roundFrac (f : Nat) (y : Frac) : Nat := roundQ f (decide (y.num < 0)) y.num.natAbs y.den .rne

/-- A finite value as a rational. -/
def fracOf (neg : Bool) (m : Nat) (e : Int) : Frac :=
  ⟨if neg then -((m * 2 ^ e.toNat : Nat) : Int) else (m * 2 ^ e.toNat : Nat), 2 ^ (-e).toNat⟩

/-- The sum over k of c[k] * (n / d)^k, times d^(length - 1), for a list from k = 0 on. -/
def polyNum (n : Int) (d : Nat) : List Int → Int
  | [] => 0
  | c :: t => c * (d ^ t.length : Nat) + n * polyNum n d t

/-- Exp2Core of R72 for an exact rational z. The integer part is held within ±8192: beyond it every use rounds alike, since the
results leave the range of FP32 at ±150. -/
def exp2Core (z : Frac) : Frac :=
  let n0 := z.num / (z.den : Int)
  let fn := (z.num - n0 * z.den).toNat                     -- f = fn / den
  let j := 64 * fn / z.den
  let qn : Int := 64 * (fn : Int) - j * z.den               -- q = qn / (64 den)
  let qd := 64 * z.den
  let pn := polyNum qn qd (tabC.map Int.ofNat)              -- P = pn / qd^5
  let y := (tabT2.getD j 0 * pn.toNat) / (2 ^ 40 * qd ^ 5)
  let n := clampInt (-8192) 8192 n0
  ⟨(y * 2 ^ n.toNat : Nat), 2 ^ 40 * 2 ^ (-n).toNat⟩

/-- VEXP2 (R72). -/
def vexp2 (f enc : Nat) : Nat :=
  match fltVal f enc with
  | .nan => nanEnc f
  | .inf neg => if neg then 0 else infEnc f
  | .fin neg m e => roundFrac f (exp2Core (fracOf neg m e))

/-- Decompose(x) of R70 for m * 2^e with m positive: the fraction m' = num / den with 1 ≤ m' < 2, and the exponent. -/
def decompose (m : Nat) (e : Int) : Frac × Int := (⟨m, 2 ^ m.log2⟩, e + m.log2)

/-- VLOG2 (R73). -/
def vlog2 (f enc : Nat) : Nat :=
  match fltVal f enc with
  | .nan => nanEnc f
  | .inf neg => if neg then nanEnc f else infEnc f
  | .fin neg m e =>
    if m = 0 then withSign f true (infEnc f)
    else if neg then nanEnc f
    else
      let (mf, ex) := decompose m e
      let j := 64 * (mf.num.toNat - mf.den) / mf.den
      let tn : Int := 64 * mf.num - (64 + j) * mf.den         -- t = (m - c) / c
      let td : Nat := (64 + j) * mf.den
      let cs := tabD.zipIdx.map fun (d, i) => if i % 2 = 0 then (d : Int) else -(d : Int)
      let pn := polyNum tn td (0 :: cs)                       -- P = pn / td^7
      let t7 := td ^ 7
      roundFrac f ⟨ex * (t7 * 2 ^ 40 : Nat) + (tabL2.getD j 0 * t7 : Nat) + pn, t7 * 2 ^ 40⟩

/-- VRCP (R74). -/
def vrcp (f enc : Nat) : Nat :=
  match fltVal f enc with
  | .nan => nanEnc f
  | .inf neg => withSign f neg 0
  | .fin neg m e =>
    if m = 0 then withSign f neg (infEnc f)
    else
      let (mf, ex) := decompose m e
      let step (y : Nat) : Nat := y * (2 ^ 41 * mf.den - mf.num.toNat * y) / (2 ^ 40 * mf.den)
      let y := step (step (tabRC (128 * (mf.num.toNat - mf.den) / mf.den)))
      let k := -40 - ex
      roundQ f neg (y * 2 ^ k.toNat) (2 ^ (-k).toNat) .rne

/-- VRSQ (R74). -/
def vrsq (f enc : Nat) : Nat :=
  match fltVal f enc with
  | .nan => nanEnc f
  | .inf neg => if neg then nanEnc f else 0
  | .fin neg m e =>
    if m = 0 then withSign f neg (infEnc f)
    else if neg then nanEnc f
    else
      let (mf, ex) := decompose m e
      let odd := ex % 2 != 0
      let mn := mf.num.toNat * (if odd then 2 else 1)
      let ex := if odd then ex - 1 else ex
      let step (y : Nat) : Nat := y * (3 * 2 ^ 80 * mf.den - mn * y * y) / (2 * 2 ^ 80 * mf.den)
      let y := step (step (tabRS (128 * (mn - mf.den) / mf.den)))
      let k := -40 - ex / 2
      roundQ f false (y * 2 ^ k.toNat) (2 ^ (-k).toNat) .rne

/-- VTANH (R75). -/
def vtanh (f enc : Nat) : Nat :=
  match fltVal f enc with
  | .nan => nanEnc f
  | .inf neg => roundQ f neg 1 1 .rne
  | .fin neg m e =>
    if m = 0 then withSign f neg 0
    else
      let a := fracOf false m e
      let n := a.num.toNat
      if n * 4096 < a.den then roundQ f neg (3 * n * a.den ^ 2 - n ^ 3) (3 * a.den ^ 3) .rne
      else if 16 * a.den ≤ n then roundQ f neg 1 1 .rne
      else
        let x := exp2Core ⟨(2 * n * log2e : Nat), a.den * 2 ^ 40⟩
        roundQ f neg (x.num.toNat - x.den) (x.num.toNat + x.den) .rne

/-- VSIGM (R75). -/
def vsigm (f enc : Nat) : Nat :=
  match fltVal f enc with
  | .nan => nanEnc f
  | .inf neg => if neg then 0 else roundQ f false 1 1 .rne
  | .fin neg m e =>
    let a := fracOf neg m e
    let x := exp2Core ⟨-a.num * log2e, a.den * 2 ^ 40⟩
    roundQ f false x.den (x.den + x.num.toNat) .rne

/-- ScalarOf of R162. -/
def scalarOf (f enc : Nat) : Word :=
  if f == 15 then BitVec.ofNat 64 (ofBool (enc % 256 != 0))
  else if f == 6 || f == 12 || f == 13 then BitVec.ofInt 64 (signed (bitsOf f) enc)
  else BitVec.ofNat 64 (enc % 2 ^ bitsOf f)

/-- RoundInt(a, RDN) kept in the format (R166). -/
def floorEnc (f enc : Nat) : Nat :=
  match fltVal f enc with
  | .nan => nanEnc f
  | .inf neg => withSign f neg (infEnc f)
  | .fin neg m e =>
    let i := roundIntV neg m e .rdn
    if i = 0 then withSign f neg 0 else roundQ f (decide (i < 0)) i.natAbs 1 .rne

end Sys2Proof.Machine
end

