-- ==== Sys2Proof/Machine/Operands.lean ====
section
/-! DEFINITION. Scalar operands: specifiers (R80, R81), interlocks (R103), deferred faults (R131) and feed reads (R276); what
a position does when it is performed (`Act`). -/

namespace Sys2Proof.Machine

/-- Why a position does not complete. `mark` names the deferred load whose fault it is (R131); `poison` is fault 0x1A for what a store of the core has
lost, with the kind and unit of its entries in the error log and their number (R416, R417); `struck` fault 0x15 at a descriptor whose CSUM has failed
(R346, R416); `misread` the fault of a read of a unit at an address with its alignment, whose predicted read is squashed where its walk fails (R237). -/
inductive Halt where
  | stall (k : Stall)
  | fault (code : Byte) (tval : Word) (mark : Option Nat := none)
  | poison (kind unit n : Nat) (tval : Word)
  | struck (tval : Word)
  | misread (unit align : Nat) (code : Byte) (tval : Word)
  deriving DecidableEq, Repr

/-- What performing a position gives. `post` acts on the core after its successor is known (R118, R389), `fx` on the rest of
the package. `wait` stalls with what the position has asked for, `stay` completes a position that has no successor. -/
inductive Act where
  | done (c : Core) (post : Core → Core) (fx : State → State)
  | jump (c : Core) (target : Nat)
  | wait (c : Core) (k : Stall) (fx : State → State)
  | stay (c : Core) (fx : State → State)
  | halt (h : Halt)

/-- A position that completes and changes its own core alone. -/
def Act.ok (c : Core) : Act := .done c id id

/-- Whether the producer has not landed. -/
def Core.flying (c : Core) (id : Nat) : Bool := c.fly.any (·.id == id)

/-- The producer that a specifier waits on or is marked by: the unlanded or marked producer of a register, or of a slot. -/
def Core.producer (c : Core) (x : Nat) : Option Nat :=
  if x = 0 then none
  else if x < 32 then
    ((c.fly.find? (·.dst == x)).map (·.id)).orElse fun _ => (c.marks.find? (·.dst == x)).map (·.id)
  else if x < 48 then (vget c.q (x - 32) {}).pend
  else none

/-- The name of the queue slot that a producer fills, 0 when it has left the queue. -/
def Core.slotOf (c : Core) (id : Nat) : Nat :=
  ((List.range 16).find? fun i => (vget c.q i {}).pend == some id).map (· + 1) |>.getD 0

/-- The oldest of the marked loads among some producers (R131). -/
def Core.oldestMark (c : Core) (ids : List Nat) : Option Mark :=
  (c.marks.filter fun m => ids.contains m.id).foldl
    (fun acc m => match acc with | none => some m | some x => if m.id < x.id then some m else some x) none

/-- A specifier of a queue slot whose parity has failed (R416). -/
def Core.poisonedSlot (c : Core) (x : Nat) : Bool := decide (32 ≤ x) && decide (x < 48) && (vget c.q (x - 32) {}).pois

/-- The first of the next `n` elements of a feed whose parity has failed (R416), by the number of its entry. -/
def Feed.poisoned (f : Feed) (n : Nat) : Option Nat :=
  (List.range n).findSome? fun i => let k := f.count - f.elems.length + i; if f.pois.contains k then some k else none

/-- The interlock of R103, then the deferred fault of R131, then the poison of R416, of a position that reads the specifiers `reads` and writes register
`dst`. -/
def Core.hazard (c : Core) (reads : List Nat) (dst : Nat) : Option Halt :=
  let ids := (dst :: reads).filterMap c.producer
  match ids.find? c.flying with
  | some id => some (.stall (.interlock (c.slotOf id)))
  | none => match c.oldestMark ids with
    | some m => some (.fault m.code m.ea (some m.id))
    | none => (reads.find? c.poisonedSlot).map fun x => .poison 3 5 1 (BitVec.ofNat 64 (Config.poisonedEntry x c.nextId))

/-- Pop one element of a feed (R276). -/
def Core.popFeed (c : Core) (n : Nat) : Except Halt ((Nat × Nat) × Core) :=
  let f := vget c.feeds n {}
  match f.elems with
  | e :: t => match f.poisoned 1 with
    | some k => .error (.poison 3 5 1 (BitVec.ofNat 64 (Config.poisonedEntry k c.nextId)))
    | none => .ok (e, { c with feeds := vput c.feeds n { f with elems := t } })
  | [] => if f.pb = 0 then .error (.fault 0x10 (BitVec.ofNat 64 n)) else .error (.stall (.feed n))

/-- The value of a source specifier (R80); a feed pops. -/
def Core.source (c : Core) (x : Nat) : Except Halt (Word × Core) :=
  if x < 32 then .ok (c.getS x, c)
  else if x < 48 then .ok ((vget c.q (x - 32) {}).val, c)
  else match c.popFeed (x - 48) with
    | .error h => .error h
    | .ok ((f, e), c) => .ok (scalarOf f e, c)

/-- Read no source: the interlocks of a destination and of the registers read beside the sources. -/
def with0 (c : Core) (regs : List Nat) (dst : Nat) (k : Core → Act) : Act :=
  match c.hazard regs dst with
  | some h => .halt h
  | none => k c

/-- Read one source. -/
def with1 (c : Core) (a : Nat) (regs : List Nat) (dst : Nat) (k : Core → Word → Act) : Act :=
  match c.hazard (a :: regs) dst with
  | some h => .halt h
  | none => match c.source a with
    | .error h => .halt h
    | .ok (x, c) => k c x

/-- Read two sources, a before b (R80). -/
def with2 (c : Core) (a b : Nat) (regs : List Nat) (dst : Nat) (k : Core → Word → Word → Act) : Act :=
  match c.hazard (a :: b :: regs) dst with
  | some h => .halt h
  | none => match c.source a with
    | .error h => .halt h
    | .ok (x, c) => match c.source b with
      | .error h => .halt h
      | .ok (y, c) => k c x y

/-- The queue after a push (R101). -/
def pushQ (q : Vector Slot 16) (s : Slot) : Vector Slot 16 :=
  Vector.ofFn fun i => if i.val = 0 then s else vget q (i.val - 1) {}

/-- Push a producer (R101): its identity and program order are the next number. -/
def Core.pushFly (c : Core) (f : Fly) : Core :=
  { c with
    q := pushQ c.q { val := 0, pend := some c.nextId }
    fly := c.fly ++ [{ f with id := c.nextId }]
    nextId := c.nextId + 1 }

/-- Push a result that lands at the start of cycle `due` (R105). -/
def Core.push (c : Core) (dst : Nat) (v : Word) (due : Nat) : Core :=
  c.pushFly { id := 0, dst, val := v, due := some due }

/-- Push a result of latency `l`, issued in the current cycle (R105). -/
def pushed (s : State) (c : Core) (dst : Nat) (v : Word) (l : Nat) : Act := .ok (c.push dst v (s.now + l))

/-- Land a producer (R105): its slot and its named register take the value; a deferred fault marks them (R131). -/
def Core.landFly (c : Core) (f : Fly) : Core :=
  let c := { c with fly := c.fly.filter (·.id != f.id), late := c.late + ofBool f.ld }
  match f.mark with
  | some code => { c with marks := c.marks ++ [⟨f.id, f.dst, code, f.ea, f.cls⟩] }
  | none =>
    let c := { c with q := c.q.map fun (s : Slot) => if s.pend == some f.id then { val := f.val, pend := none } else s }
    c.setS f.dst f.val

/-- Clear a mark: its slot and its register hold 0 (R131). A marked load still on its way lands so. -/
def Core.clearMark (c : Core) (id : Nat) : Core :=
  let dst := (((c.marks.find? (·.id == id)).map (·.dst)).orElse fun _ => (c.fly.find? (·.id == id)).map (·.dst)).getD 0
  let c := { c with
    marks := c.marks.filter (·.id != id)
    late := c.late + (c.fly.filter fun (f : Fly) => f.id == id && f.ld).length
    fly := c.fly.filter fun (f : Fly) => f.id != id
    reads := c.reads.filter fun (r : SRead) => r.who != Reader.load id
    q := c.q.map fun (s : Slot) => if s.pend == some id then { val := 0, pend := none } else s }
  c.setS dst 0

/-- LD, ST, CP and TL (R270). -/
def Core.ld (c : Core) : Nat :=
  (c.fly.filter (·.ld)).length + c.late + (c.reads.filter fun (r : SRead) => r.unit == 2 && !r.here).length + ofBool (((c.vbusy.bind (·.mem)).map (·.ld)).getD false)
/-- Whether a store on its way is a plain global store (R243). -/
def GStore.plain (g : GStore) : Bool := g.rel.isNone && decide (g.addr < 2 ^ 48)
def Core.st (c : Core) : Nat :=
  (c.gst.filter (·.plain)).length + ofBool (match c.vbusy.bind (·.mem) with | none => false | some m => m.rel.isNone && !m.stored.isEmpty)
def Core.cp (c : Core) : Nat := c.eng[0].queue.length + c.eng[1].queue.length + c.eng[5].queue.length
def Core.tl (c : Core) : Nat := c.eng[2].queue.length + c.eng[3].queue.length + c.eng[4].queue.length

end Sys2Proof.Machine
end

