-- ==== Sys2Proof/Machine/Fetch.lean ====
section
/-! DEFINITION. Fetch: parcels (R77), headers and block entry (R84, R85, R115), the successor of a position (R117), control
transfers (R116) and the decode faults of a unit (R92, R93). -/

namespace Sys2Proof.Machine

/-- The task of a core; a core without one has a task with no lease. -/
def Core.theTask (c : Core) : Task :=
  c.task.getD { card := 0, index := 0, gang := false, func := 0, tag := 0, asid := 0, root := 0, heapb := 0, heapl := 0,
                heapo := 0, lvl := Vector.replicate 8 0, nlvl := 0, gangid := 0, clsDef := 0, leases := [], save := 0,
                spill := 0, spillN := 0, conf := false }

/-- The loop buffer's parcel at an address (R117): from the second pass on, the outermost repeating body runs from it. -/
def Loop.parcel (lp : Loop) (va : Nat) : Option Nat :=
  match lp.base with
  | none => none
  | some b => if b ≤ va && va % 2 = 0 then (lp.buf[(va - b) / 2]?).map (·.toNat) else none

/-- A parcel of code, or its fetch fault (R77, R239); HBM that has lost its check bits gives 0x1A (R416; log 118). -/
def parcelAt (m : Mem) (t : Task) (lp : Loop) (va : Nat) : Except Byte Nat :=
  match lp.parcel va with
  | some p => .ok p
  | none =>
    if 2 ^ 48 ≤ va then .error 0x09
    else match globalAt m t va needX with
      | .error e => .error e
      | .ok p => if (m.poisonIn p 2).isSome then .error 0x1A else .ok (m.readNat p 2)

/-- One instruction or prefix of code: its size in bytes and its word, or the fault and the parcel that raises it (R77). -/
def wordAt (m : Mem) (t : Task) (lp : Loop) (va : Nat) : Except (Byte × Nat) (Nat × Nat) :=
  match parcelAt m t lp va with
  | .error e => .error (e, va)
  | .ok p =>
    if p % 2 = 0 then .ok (2, p)
    else match parcelAt m t lp (va + 2) with
      | .error e => .error (e, va + 2)
      | .ok q => .ok (4, p + 65536 * q)

/-- Size of the position at an address; 2 where nothing can be fetched, since that position faults first. -/
def sizeAt (m : Mem) (t : Task) (lp : Loop) (va : Nat) : Nat :=
  match parcelAt m t lp va with
  | .ok p => if p % 2 = 0 then 2 else 4
  | .error _ => 2

/-- Whether a header stands at an address: the parcel's bits [6:0] are 0b000_0001 (R84). -/
def isHeader (m : Mem) (t : Task) (lp : Loop) (va : Nat) : Bool :=
  match parcelAt m t lp va with
  | .ok p => p % 128 == 1
  | .error _ => false

/-- A header without a decode fault: LEN, whether it repeats (R85), and its count or the register that holds it (R84). -/
structure Header where
  len : Nat
  rep : Bool
  cnt : Nat
  reg : Option Nat
  deriving DecidableEq, Repr

def headerAt (m : Mem) (t : Task) (lp : Loop) (va : Nat) : Option Header :=
  match wordAt m t lp va with
  | .error _ => none
  | .ok (_, w) => match decode w with
    | .instr (.BLK_IMMEDIATE l r) =>
      if (Instr.BLK_IMMEDIATE l r).illegal then none else some ⟨l.toNat, decide (2 ≤ r.toNat), r.toNat, none⟩
    | .instr (.BLK_REGISTER l s) =>
      if (Instr.BLK_REGISTER l s).illegal then none else some ⟨l.toNat, true, 0, some s.toNat⟩
    | _ => none

/-- The blocks of a list that contain an address, from the innermost outward (log 21). -/
def within (ctx : List Block) (a : Nat) : List Block := ctx.dropWhile fun b => !(b.start ≤ a && a < b.limit)

/-- The value of a loop register level. -/
def Loop.end_ (lp : Loop) (j : Nat) : Nat := (vget lp.lbe j 0).toNat
def Loop.begin (lp : Loop) (j : Nat) : Nat := (vget lp.lbs j 0).toNat

/-- The outermost body copied into the loop buffer, for its second pass (R117; log 22). A body that cannot be fetched is not
copied. -/
def Loop.fill (lp : Loop) (m : Mem) (t : Task) : Loop :=
  let b := lp.begin 0
  if lp.base = some b then lp
  else
    let ps := (List.range ((lp.end_ 0 - b) / 2)).map fun i => parcelAt m t { lp with base := none } (b + 2 * i)
    if ps.length ≤ 256 && ps.all (fun p => match p with | .ok _ => true | .error _ => false) then
      { lp with base := some b, buf := ps.map fun p => match p with | .ok v => BitVec.ofNat 16 v | .error _ => 0 }
    else lp

/-- Set the number of active levels; the buffer serves only while a level is active. -/
def Loop.setDep (lp : Loop) (j : Nat) : Loop :=
  { lp with ldep := BitVec.ofNat 2 j, base := if j = 0 then none else lp.base }

/-- Push a level (R115). -/
def Loop.push (lp : Loop) (cnt start limit : Nat) : Loop :=
  let j := lp.ldep.toNat
  { lp with
    lc := vput lp.lc j (BitVec.ofNat 64 (cnt - 1))
    lbs := vput lp.lbs j (BitVec.ofNat 64 start)
    lbe := vput lp.lbe j (BitVec.ofNat 64 limit)
    ldep := BitVec.ofNat 2 (j + 1)
    base := if j = 0 then none else lp.base }

/-- A layout fault of R85 that a header itself has: its body ends past the enclosing one, or it repeats with more than 255 parcels or as a
fourth level. -/
def Header.misfit (h : Header) (ctx : List Block) (ldep a : Nat) : Bool :=
  (match ctx with | [] => false | b :: _ => decide (b.limit < a + 4 + 2 * h.len)) || (h.rep && (decide (255 < h.len) || ldep == 3))

/-- Block entry of the header `h` at an address enclosed by `ctx` (R115): its fate, whether a layout fault of R85 applies, and
the loop state. The count's register is read from `c`. -/
def blockEntry (c : Core) (lp : Loop) (ctx : List Block) (a : Nat) (h : Header) : Except Halt (Entry × Bool × Loop) :=
  let start := a + 4
  let limit := a + 4 + 2 * h.len
  let lay := h.misfit ctx lp.ldep.toNat a
  match (match h.reg with | none => none | some r => c.hazard [r] 0) with
  | some e => .error e
  | none =>
    let cnt := match h.reg with | none => h.cnt | some r => (c.getS r).toNat
    if lay then .ok (.none, true, lp)
    else if cnt = 0 then .ok (.skipped limit, false, lp)
    else .ok (.entered ⟨start, limit, h.rep⟩, false, if h.rep then lp.push cnt start limit else lp)

/-- Make the position at address `a` (R109, R115; log 101): `ctx` are the blocks that contain its predecessor, `left` says whether it
was reached in sequence. -/
def mkPos (m : Mem) (c : Core) (lp : Loop) (ctx : List Block) (a : Nat) (tgt : Bool) (src : Nat) :
    Except Halt (Pos × Loop) :=
  let t := c.theTask
  let inner := within ctx a
  let p : Pos := { addr := BitVec.ofNat 64 a, tgt, src := BitVec.ofNat 64 src, ctx := inner }
  if isHeader m t lp a then
    match headerAt m t lp a with
    | none => .ok (p, lp)
    | some h => match blockEntry c lp inner a h with
      | .error e => .error e
      | .ok (e, lay, lp) => .ok ({ p with entry := e, lay }, lp)
  else .ok ({ p with lay := !tgt && !ctx.isEmpty && inner.isEmpty }, lp)

/-- The unwinding of R117 at address `y`: the next address, the loop state, and whether the innermost body ended. -/
def unwind (m : Mem) (t : Task) : (fuel : Nat) → Loop → Nat → Nat × Loop
  | 0, lp, y => (y, lp)
  | fuel + 1, lp, y =>
    let d := lp.ldep.toNat
    if d = 0 || y != lp.end_ (d - 1) then (y, lp)
    else
      let j := d - 1
      let n := vget lp.lc j 0
      if n = 0 then unwind m t fuel (lp.setDep j) y
      else
        let lp := { lp with lc := vput lp.lc j (n - 1) }
        (lp.begin j, if j = 0 then lp.fill m t else lp)

/-- The blocks that contain the sequential successor of a position: its own body, when it entered one, and those around it. -/
def Pos.around (x : Pos) : List Block :=
  match x.entry with
  | .entered b => b :: x.ctx
  | _ => x.ctx

/-- Succ(x) of R117: the new position, the loop state, and whether it passed the end of the innermost repeating body. -/
def succ (m : Mem) (c : Core) (lp : Loop) (x : Pos) : Except Halt (Pos × Loop × Bool) :=
  let t := c.theTask
  let y := match x.entry with
    | .skipped after => after
    | _ => x.addr.toNat + sizeAt m t lp x.addr.toNat
  let edge := lp.ldep != 0 && y == lp.end_ (lp.ldep.toNat - 1)
  let (y, lp) := unwind m t 4 lp y
  match mkPos m c lp x.around y false 0 with
  | .error e => .error e
  | .ok (p, lp) => .ok (p, lp, edge)

/-- Levels whose range does not contain the target are discarded, from the innermost outward (R116). -/
def discard : (fuel : Nat) → Loop → Nat → Loop
  | 0, lp, _ => lp
  | fuel + 1, lp, a =>
    let d := lp.ldep.toNat
    if d = 0 then lp
    else if lp.begin (d - 1) ≤ a && a < lp.end_ (d - 1) then lp
    else discard fuel (lp.setDep (d - 1)) a

/-- The target of a transfer at `src` (R116). -/
def targetPos (m : Mem) (c : Core) (lp : Loop) (ctx : List Block) (a src : Nat) : Except Halt (Pos × Loop) :=
  mkPos m c (discard 3 lp a) ctx a true src

/-- The fetch state after the position at pc (R109): the old core gives registers and loop state; `x` is the fetch state with
the annul bits and slot marks the position has set. -/
def nextFetch (m : Mem) (c : Core) (x : Fetch) (target : Option Nat) : Except Halt (Fetch × Loop) :=
  match target with
  | some a => match targetPos m c c.loop x.pc.around a x.pc.addr.toNat with
    | .error e => .error e
    | .ok (p, lp) => .ok ({ pc := x.n1, n1 := x.n2, n2 := p }, lp)
  | none => match succ m c c.loop x.n2 with
    | .error e => .error e
    | .ok (p, lp, edge) => .ok ({ pc := x.n1, n1 := { x.n2 with edge }, n2 := p }, lp)

/-- The fetch state at an entry address without delay slots (R116): trap entry and task entry. -/
def entryFetch (m : Mem) (c : Core) (a : Nat) : Except Halt (Fetch × Loop) :=
  match targetPos m c c.loop [] a a with
  | .error e => .error e
  | .ok (p, lp) => match succ m c lp p with
    | .error e => .error e
    | .ok (p1, lp, e0) => match succ m c lp p1 with
      | .error e => .error e
      | .ok (p2, lp, e1) => .ok ({ pc := { p with edge := e0 }, n1 := { p1 with edge := e1 }, n2 := p2 }, lp)

/-- The fetch state of positions that follow one another from `a`. -/
def plainFetch (m : Mem) (c : Core) (a : Nat) : Fetch × Loop :=
  match mkPos m c c.loop [] a false a with
  | .error _ => ({}, c.loop)
  | .ok (p, lp) => match succ m c lp p with
    | .error _ => ({ pc := p }, lp)
    | .ok (p1, lp, e0) => match succ m c lp p1 with
      | .error _ => ({ pc := { p with edge := e0 }, n1 := p1 }, lp)
      | .ok (p2, lp, e1) => ({ pc := { p with edge := e0 }, n1 := { p1 with edge := e1 }, n2 := p2 }, lp)

/-! ### The unit at pc (R92, R93) -/

/-- Whether a word is a prefix by its major alone (R87, R90). -/
def prefixShape (size w : Nat) : Bool := if size = 2 then w % 32 == 0 else w % 128 == 0x57

/-- The positions of the unit that begins at pc, at most three, each with its size and word; the fetch fault that ends it.
The parcels that follow a prefix are those of the positions that follow it in execution (log 123). -/
def unitWords (m : Mem) (t : Task) (lp : Loop) : List Pos → Except (Byte × Nat) (List (Pos × Nat × Nat))
  | [] => .ok []
  | p :: rest => match wordAt m t lp p.addr.toNat with
    | .error e => .error e
    | .ok (size, w) =>
      if prefixShape size w then
        match unitWords m t lp rest with
        | .error e => .error e
        | .ok l => .ok ((p, size, w) :: l)
      else .ok [(p, size, w)]

/-- The VRED forms that need g = 1 (R170): fn 7 to 13. Any other legal group size faults at order 2 of R155. -/
def oneGroupForm (w : Nat) : Bool := w % 128 == 0x3D && 7 ≤ bitsAt w 28 4 && bitsAt w 28 4 ≤ 13
def badGroup (w : Nat) : Bool := oneGroupForm w && 2 ≤ bitsAt w 25 3 && bitsAt w 25 3 ≤ 6

/-- Such a word with g = 1, for the checks that come before. -/
def normal (w : Nat) : Nat := if badGroup w then setBits w 25 3 1 else w

/-- The register that the fault of `badGroup` names: the first vector operand in field order (R438, log 27). -/
def badGroupReg (w : Nat) : Nat := if bitsAt w 28 4 = 12 then bitsAt w 12 5 else bitsAt w 7 5

/-- The fault of one word: 0x01 or 0x02 (R93, orders 3 and 4). -/
def wordFault (w : Nat) : Option Byte :=
  if oneGroupForm w && (bitsAt w 25 3 == 0 || bitsAt w 25 3 == 7) then some 0x01
  else match decodeRow (normal w) with
    | none => some 0x01
    | some i =>
      if i.illegal then some 0x01
      else if (encode i).2 != normal w % 2 ^ (encode i).1 || i.badValue then some 0x02 else none

/-- What stands at pc: a fault of R93, orders 1 to 4, or the decoded instruction with its size. -/
inductive Fate where
  | fault (code : Byte) (tval : Word)
  | illegal (reserved : Bool) (parcel : Word)
  | group (tval : Word)                -- the group size of a VRED form, after the layout rules
  | instr (i : Instr)
  deriving DecidableEq, Repr

/-- The first position of a unit with a given decode fault. -/
def firstFault (code : Byte) (l : List (Pos × Nat × Nat)) : Option Word :=
  (l.find? fun x => wordFault x.2.2 == some code).map (·.1.addr)

/-- R93, orders 1 to 4, for the unit at pc. -/
def fateAt (m : Mem) (c : Core) : Fate :=
  let f := c.fetch
  match unitWords m c.theTask c.loop [f.pc, f.n1, f.n2] with
  | .error (e, a) => .fault e (BitVec.ofNat 64 a)
  | .ok l =>
    if f.pc.tgt && !isHeader m c.theTask c.loop f.pc.addr.toNat then .fault 0x04 f.pc.src
    else match firstFault 0x01 l with
      | some a => .illegal false a
      | none => match firstFault 0x02 l with
        | some a => .illegal true a
        | none => match l with
          | [] => .fault 0x09 f.pc.addr
          | (_, _, w) :: _ => if badGroup w then .group (BitVec.ofNat 64 (badGroupReg w)) else match decode w with
            | .instr i => .instr i
            | .rejected _ => .illegal false f.pc.addr

end Sys2Proof.Machine
end

