-- ==== Sys2Proof/Machine/Ops.lean ====
section
/-! DEFINITION. Performing a position (R109), taking an exception (R189 to R194) and returning from one (R196, R197). -/

namespace Sys2Proof.Machine

/-! ### Descriptors and link commands -/

/-- The fields of a captured image (R344). -/
structure Desc where
  base : Nat
  d0 : Nat
  d1 : Nat
  fmt : Nat
  space : Nat
  layout : Nat
  core : Nat
  grp : Nat
  ltag : Nat
  cls : Nat
  pfmt : Nat
  s0 : Nat
  s1 : Nat
  scale : Nat
  zero : Nat
  deriving DecidableEq, Repr

def desc (x : BitVec 256) : Desc :=
  { base := fld x 0 48, d0 := fld x 48 16, d1 := fld x 64 16, fmt := fld x 80 4, space := fld x 84 2, layout := fld x 86 2,
    core := fld x 88 6, grp := fld x 94 2, ltag := fld x 96 4, cls := fld x 100 3, pfmt := fld x 103 4, s0 := fld x 128 32,
    s1 := fld x 160 32, scale := fld x 192 32, zero := fld x 224 32 }

/-- Elements of a tensor. -/
def Desc.count (d : Desc) : Nat := d.d0 * d.d1

/-- Port, direction and route of a link command (R394, R396). -/
def Cmd.port (cmd : Cmd) : PortId := match cmd.kind with | .lxfer p | .lrecv p | .lred p | .ltopk p => p | _ => 0
def Cmd.sends (cmd : Cmd) : Bool := match cmd.kind with | .lxfer _ | .ltopk _ => true | _ => false
def Cmd.peer (cmd : Cmd) : CoreId := Fin.ofNat 64 (fld (cmd.bound.getD 0) 0 6)
def Cmd.chan (cmd : Cmd) : Nat := fld (cmd.bound.getD 0) 8 6
def Cmd.topK (cmd : Cmd) : Nat := fld (cmd.bound.getD 0) 16 8

/-- Pairs of a LTOPK. -/
def Cmd.pairCount (cmd : Cmd) : Nat :=
  let n := (desc cmd.tz).count
  n / 256 * min cmd.topK 256 + min cmd.topK (n % 256)

/-! ### Commands leaving their queues -/

/-- An engine whose head command has left: its progress is forgotten. -/
def Eng.cleared (e : Eng) : Eng := { queue := e.queue, seq := e.seq, iss := e.iss, freed := e.freed, stop := e.stop, halts := e.halts }

/-- What a stop leaves of a command's progress: its micro-PC and what its finished micro-steps wrote (R268). -/
def Eng.rewound (e : Eng) : Eng :=
  { queue := e.queue, seq := e.seq, iss := e.iss, head := e.head, begun := e.begun, last := e.last, micro := e.micro,
    full := e.full, elems := e.elems, held := none, flits := e.flits, freed := e.freed, frozen := e.frozen, cause := e.cause, stop := e.stop, halts := e.halts }

/-- A stream of a command that leaves its queue ends (R275). -/
def State.endStream (s : State) (l : CoreId) (e : EngId) (cmd : Cmd) : State :=
  match cmd.feed with
  | none => s
  | some (k, n) => s.modCore k fun c =>
      let f := vget c.feeds n {}
      { c with feeds := vput c.feeds n { f with pb := f.pb - 1, order := f.order.filter (· != (l, e)) } }

/-- The head command of an engine leaves its queue and counts as completed (R197, R267). -/
def State.dropHead (s : State) (l : CoreId) (e : EngId) : State :=
  let c := s.core l
  let x := c.getE e
  match x.queue with
  | [] => s
  | cmd :: rest =>
    let x := { Eng.cleared x with queue := rest, seq := x.seq + 1, freed := some s.now }
    let c := { c.setE e x with fills := if e.val = 2 then c.fills.filter (·.prog != cmd.prog) else c.fills }
    (s.setCore l c).endStream l e cmd

/-- The part of a stream that the neighbour or the store still holds for a receiver that has left: it is discarded up to its last flit, so that
the next receiver takes the next stream (R395). -/
def Port.skipStream (p : Port) (k : CoreId × CoreId × BitVec 6) : Port :=
  let mine (f : Flit) : Bool := (f.src, f.dst, f.chan) == k
  let others := p.store.filter fun f => !mine f
  let rest := (p.store.filter mine).dropWhile fun f => !f.last
  match rest with
  | [] => { p with store := others, skip := p.skip ++ [k] }
  | _ :: next => { p with store := others ++ next }

/-- The flit that ends the stream of an abandoned sender: the last one, with no bytes (R400; log 49). -/
def Cmd.endFlit (cmd : Cmd) (l : CoreId) (micro : Nat) : Flit :=
  let d := desc cmd.tz
  let pairs := match cmd.kind with | .ltopk _ => true | _ => false
  { src := l, dst := cmd.peer, chan := BitVec.ofNat 6 cmd.chan, index := micro, last := true, pairs
    npairs := if pairs then cmd.pairCount else 0, fmt := BitVec.ofNat 4 d.fmt, grp := BitVec.ofNat 2 d.grp, d0 := d.d0, d1 := d.d1
    release := false, payload := [] }

/-- What the abandonment of a link command does to its stream (R395, R400); `sub` is 1 once its last flit has been sent or received. -/
def State.cutStream (s : State) (l : CoreId) (x : Eng) (cmd : Cmd) : State :=
  let p := s.port cmd.port
  match cmd.kind with
  | .lxfer _ | .ltopk _ => if x.sub = 1 then s else s.setPort cmd.port { p with sent := p.sent ++ [cmd.endFlit l x.micro] }
  | .lrecv _ | .lred _ => if x.sub = 1 then s else s.setPort cmd.port (p.skipStream (cmd.peer, l, BitVec.ofNat 6 cmd.chan))
  | _ => s

/-- Abandon(e) of R197. -/
def State.abandon (s : State) (l : CoreId) (e : EngId) : State :=
  let x := (s.core l).getE e
  match x.queue with
  | [] => s
  | cmd :: _ => (s.cutStream l x cmd).dropHead l e

/-! ### Taking an exception -/

/-- The causes whose disposition is "task" (R190). -/
def isTaskCause (code : Byte) : Bool :=
  [0x0A, 0x0B, 0x0C, 0x0D, 0x0E, 0x10, 0x11, 0x13, 0x14, 0x15, 0x17, 0x18, 0x19, 0x1A, 0x1B].contains code.toNat

/-- Whether a cause enters the handler (R189). -/
def Core.enters (c : Core) (code : Byte) : Bool := isTaskCause code && !c.csr.h && c.csr.thandler != 0

/-! ### Units of current (R379) -/

/-- A PWRQ that leaves: what it was granted and has not taken returns to Bellows (R379, R381). -/
def Core.dropReq (c : Core) : Core :=
  match c.pwrReq with
  | some { level, granted := true, .. } =>
    { c with pwrReq := none, pwrRet := c.pwrRet + (level - if c.csr.grant then c.csr.level else 0) }
  | _ => { c with pwrReq := none }

/-- A power region released (R377, R382, R384). -/
def Core.releaseRegion (c : Core) : Core :=
  if c.csr.grant then { c with pwrRet := c.pwrRet + c.csr.level, csr := { c.csr with grant := false, level := 0 } } else c

/-- The units of an MMA whose passes are stopped (R379). -/
def State.releaseMma (s : State) (l : CoreId) : State :=
  let d := s.die (dieOf l)
  let held (e : CoreId × Nat × Nat) : Bool := e.1 == l && decide (s.now ≤ e.2.1)
  let units := ((d.ends.filter held).map (·.2.2)).sum
  (s.setDie (dieOf l) { d with ends := d.ends.filter fun e => !held e }).modCore l fun c => { c with pwrRet := c.pwrRet + units }

/-- Back to the boundary before the unit in progress (R34, R92): its prefixes are taken back, and what its position had asked
for is withdrawn. A BAR stopped after its arrival sets ARR (R335). -/
def Core.rewind (c : Core) : Core :=
  let c := match c.stall with
    | some (.arrived t) => { c with tags := vput c.tags t { vget c.tags t {} with arr := true } }
    | _ => c
  let c := { c.dropReq with
    stall := none, wait := none
    reads := c.reads.filter fun r => match r.who with | .load _ => true | _ => false }
  match c.pfx with
  | none => c
  | some p => { c with fetch := p.first, loop := p.loop, pfx := none }

/-- The producer of a slot that has not landed. -/
def Core.pendingAt (c : Core) (i : Nat) : Option Fly :=
  match (vget c.q i {}).pend with
  | none => none
  | some id => c.fly.find? (·.id == id)

/-- Remaining architected latency of a producer at the boundary before cycle `at_` (R196): 0 when it is not architected. A read of own Ember
that is not granted yet lands 6 cycles after its grant, so its latency is completed at the grant (R106, R205). -/
def Core.leftOf (c : Core) (f : Fly) (at_ : Nat) : Nat :=
  if !f.arch then 0
  else match f.due with
    | some d => d - at_
    | none => match c.reads.find? (·.who == .load f.id) with
      | some { land := some d, .. } => d - at_
      | some { unit := 1, issue, .. } => max 1 (issue + 8 - at_)
      | _ => 6

/-- An open exposed store as an entry of the landing list (R194). -/
def Exposed.entry (x : Exposed) (resume : Bool) (at_ : Nat) : Landing :=
  { off := x.off, data := x.data, r := x.t + 4 - at_, resume, pendBit := x.pendBit, id := x.id, cls := x.cls, rel := x.rel }

/-- An entry armed at an earlier resumption and not written yet enters the list again (R198, R202). -/
def Landing.again (e : Landing) (resume : Bool) (at_ : Nat) : Landing :=
  match e.at_ with
  | some k => { e with at_ := none, r := k + 1 - at_, resume }
  | none => e

/-- The open exposed stores move into the landing list (R193, R194, R202). A release store whose window has closed and that still waits for its order
(R251) is no open one: it stays where it waits. -/
def Core.parkStores (c : Core) (resume : Bool) (at_ : Nat) : Core :=
  { c with
    land := (c.land.map (·.again resume at_)) ++ ((c.exposed.filter fun x => decide (at_ < x.t + 4)).map (·.entry resume at_))
    exposed := c.exposed.filter fun x => decide (x.t + 4 ≤ at_) }

/-- The entries of one tag are armed, the first resumed position issuing in cycle `u` (R196, R202). A release store waits for its order too, so it
becomes an exposed store again, with the issue cycle that puts the end of its window where the entry would write (R251). -/
def Core.arm (c : Core) (resume : Bool) (u : Nat) : Core :=
  let mine (e : Landing) : Bool := e.resume == resume && e.at_.isNone
  let back (e : Landing) : Exposed := { id := e.id, t := u + e.r - 4, off := e.off, data := e.data, cls := e.cls, rel := true, pendBit := e.pendBit }
  { c with
    land := (c.land.filter fun e => !(mine e && e.rel)).map fun e => if mine e then { e with at_ := some (u + e.r - 1) } else e
    exposed := c.exposed ++ (c.land.filter fun e => mine e && e.rel).map back }

/-- The first two steps of trap entry (R193), at the boundary before cycle `at_`. -/
def Core.park (c : Core) (at_ : Nat) : Core :=
  { c.parkStores false at_ with
    shadow := { c.shadow with
      lat := Vector.ofFn fun i => ((c.pendingAt i.val).map fun f => c.leftOf f at_).getD 0
      fly := Vector.ofFn fun i => (c.pendingAt i.val).filter (fun f => c.leftOf f at_ != 0) }
    ready := at_ }

/-- A cause is taken at the boundary before cycle `at_` (R189, R193): the core enters the handler or stops as system once
TRAP_ENTRY finds the queue landed. -/
def Core.raise (c : Core) (code : Byte) (tval : Word) (eng : Option EngId) (single : Bool) (at_ : Nat) : Core :=
  let c := c.rewind
  let c := if c.enters code then c.park at_ else c
  { c with run := .entering code tval eng single }

/-- The cause register (R187). -/
def causeWord (code : Byte) (eng : Option EngId) (single : Bool) : Word :=
  let e := match eng with | none => 0 | some e => 256 + 512 * e.val
  BitVec.ofNat 64 (code.toNat + e + 8192 * ofBool single)

/-- What a system cause writes into the card's completion record (R327), and whether the card's other tasks are ended (R189): a fatal cause, or else
the first stop, those of one cycle in ascending order of their cores. `told` is the cycle and the core of this stop. -/
def Card.stopBy (k : Card) (code : Byte) (index : Nat) (tval : Word) (told : Nat × Nat) : Card :=
  let fatal := code == 0x08
  let stops := k.stops || fatal || bitsAt k.image.toNat 0xB0 1 == 1
  let earlier := k.told.1 == told.1 && decide (told.2 < k.told.2)
  let status := if fatal then 3 else 2
  if k.status < status || (k.status = status && earlier) then { k with stops, status, code, task := BitVec.ofNat 32 index, tval, told }
  else { k with stops }

/-- A release store behind a plain store that is discarded uncommitted: its order can never be met (R251; log 74). -/
def Core.orphan (c : Core) (g : GStore) : Bool :=
  !c.theTask.gang && g.rel.isSome &&
    (c.gst.any (fun x => x.plain && decide (x.prog < g.prog)) || c.wbuf.any fun l => l.held.any fun h => decide (h.2 < g.prog))

/-- A system stop (R189): Smith stops with its fetch state frozen, uncommitted plain stores are discarded, and the card is
told. -/
def State.systemStop (s : State) (l : CoreId) (code : Byte) (tval : Word) : State :=
  let c := s.core l
  let t := c.theTask
  let s := s.setCore l { c with run := .stopped, wbuf := [], spilt := [], gst := c.gst.filter fun g => !g.plain && !c.orphan g }
  s.modCard t.card fun k => k.stopBy code t.index tval (s.now, l.val)

/-- The oldest mark of all (R131). -/
def Core.anyMark (c : Core) : Option Mark := c.oldestMark (c.marks.map (·.id))

/-- Trap entry once every pending slot has landed (R193): the shadow, the saved positions, the cause and the handler's first
positions. A deferred fault that it finds itself stops the task as system (R131, R189), also when the cause it enters for is an older load's
(log 102). A block entry among the handler's first positions whose count is still to land waits for it (R115). -/
def State.trapEnter (s : State) (l : CoreId) (code : Byte) (tval : Word) (eng : Option EngId) (single : Bool) : State :=
  let c := s.core l
  if !c.enters code then s.systemStop l code tval
  else match c.anyMark with
    | some m => s.systemStop l m.code m.ea
    | none =>
      let f := c.fetch
      let c := { c with
        shadow := { c.shadow with queue := c.q.map (·.val), loop := c.loop, fetch := f, prog := c.nextId }
        loop := c.loop.setDep 0
        csr := { c.csr with
          fpc := f.pc.addr, npc := f.n1.addr, nnpc := f.n2.addr
          ann := BitVec.ofNat 2 (ofBool f.pc.ann + 2 * ofBool f.n1.ann)
          tgt := BitVec.ofNat 3 (ofBool f.pc.tgt + 2 * ofBool f.n1.tgt + 4 * ofBool f.n2.tgt)
          h := true
          cause := causeWord code eng single
          tval } }
      if c.csr.thandler.toNat % 2 = 1 then s.systemStop l 0x07 c.csr.thandler
      else match entryFetch s.mem c c.csr.thandler.toNat with
      | .error _ => s
      | .ok (fl, lp) =>
        s.delay.2.setCore l ({ c with run := .running, fetch := fl, loop := lp, ready := s.now + s.delay.1 }.count 11 1)

/-! ### Return from trap -/

/-- The blocks entered and not left at a saved fetch state that contain an address, innermost first (log 21). -/
def Fetch.blocksAt (f : Fetch) (a : Nat) : List Block :=
  [f.pc, f.n1, f.n2].foldl (fun acc p => let w := within p.around a; if acc.length < w.length then w else acc) []

/-- A restored position (R196): the saved one where its address stands in its own place, or in another when the handler moved it, else one
without block entry, whose fault 0x04 would name its own address (log 103). An odd address is fetched from as it is (log 122). -/
def Core.restored (c : Core) (old : Pos) (addr : Word) (ann tgt : Bool) : Pos :=
  let f := c.shadow.fetch
  match [old, f.pc, f.n1, f.n2].find? (·.addr == addr) with
  | some p => { p with ann, tgt }
  | none => { addr, ann, tgt, src := addr, ctx := f.blocksAt addr.toNat }

/-- The state that RETT restores (R196), the first resumed position issuing in cycle `u`. -/
def Core.return (c : Core) (u : Nat) : Core :=
  let x := c.csr
  let b (n i : Nat) : Bool := n / 2 ^ i % 2 = 1
  let again := (List.range 16).filterMap fun i =>
    (vget c.shadow.fly i none).map fun f =>
      { f with val := vget c.shadow.queue i 0, due := some (u + vget c.shadow.lat i 0), ld := false, mark := none }
  { c.arm false u with
    fetch := { pc := c.restored c.shadow.fetch.pc x.fpc (b x.ann.toNat 0) (b x.tgt.toNat 0)
               n1 := c.restored c.shadow.fetch.n1 x.npc (b x.ann.toNat 1) (b x.tgt.toNat 1)
               n2 := c.restored c.shadow.fetch.n2 x.nnpc false (b x.tgt.toNat 2) }
    q := Vector.ofFn fun i =>
      { val := vget c.shadow.queue i.val 0, pend := (vget c.shadow.fly i.val none).map (·.id) }
    fly := c.fly ++ again
    loop := c.shadow.loop
    csr := { x with h := false, cause := setFld x.cause 12 1 0 } }

/-! ### Performing a position -/

/-- The kinds of position that the layout rules of R85 tell apart. -/
inductive PosKind where
  | plain | header | rett | transfer
  deriving DecidableEq, Repr

/-- Whether the parcels of a position cross the end of the body that contains it (R85). -/
def Pos.crosses (p : Pos) (size : Nat) : Bool :=
  match p.ctx with
  | [] => false
  | b :: _ => decide (b.limit < p.addr.toNat + size)

/-- A layout fault of R85 at pc. -/
def Fetch.layout (f : Fetch) (size : Nat) (k : PosKind) : Bool :=
  f.pc.lay || f.pc.crosses size ||
  match k with
  | .plain => false
  | .header => f.pc.slot != 0
  | .rett => f.pc.slot != 0
  | .transfer => (f.pc.edge && !f.n1.tgt) || (f.n1.edge && !f.n1.tgt && !f.n2.tgt)

/-- A header at pc that has made no block entry (R196) and has a layout fault of R85. -/
def Core.unentered (c : Core) (m : Mem) : Bool :=
  let p := c.fetch.pc
  p.entry == .none && match headerAt m c.theTask c.loop p.addr.toNat with
    | some h => h.misfit p.ctx c.loop.ldep.toNat p.addr.toNat
    | none => false

/-- The delay slots of a transfer are marked (R85, R109). -/
def Fetch.slots (f : Fetch) : Fetch :=
  let mk (p : Pos) (k : Nat) : Pos := if p.tgt then p else { p with slot := max p.slot k }
  { f with n1 := mk f.n1 1, n2 := mk f.n2 2 }

/-- A position that does not complete (R32, R33, R93). -/
def Core.halt (c : Core) (now : Nat) : Halt → Core
  | .stall k => { c with stall := some k }
  | .fault code tval mark =>
    let c := match mark with | none => c | some id => c.clearMark id
    c.raise code tval none false now
  | .poison _ _ n tval => (c.count 1 n).raise 0x1A tval none false now
  | .struck tval => (c.count 1 1).raise 0x15 tval none false now
  | .misread _ _ code tval => c.raise code tval none false now

/-! ### The error log (R416, R417) -/

def State.tick (s : State) : Nat := s.clock.tick.toNat

/-- A physical core whose run store or tiles have logged an error (R418): it is failing once they have logged 64 corrected or 2 uncorrectable errors
within 100,000,000 ticks. -/
def Phys.errorAt (p : Phys) (tick : Nat) (uncorrectable : Bool) : Phys :=
  let errs := (tick, uncorrectable) :: p.errs.filter fun e => decide (tick < e.1 + 100000000)
  let n (b : Bool) : Nat := (errs.filter (·.2 == b)).length
  { p with errs, failing := p.failing || decide (64 ≤ n false) || decide (2 ≤ n true) }

/-- Errors of run stores and tiles count towards R418: kinds 1 and 2 of units 3 and 4. -/
def Hub.noteError (h : Hub) (tick kind phys unit : Nat) : Hub :=
  if (unit = 3 || unit = 4) && (kind = 1 || kind = 2) then
    { h with phys := vput h.phys phys ((vget h.phys phys {}).errorAt tick (kind == 2)) }
  else h

/-- An entry of the error log (R417): a ring of 256, the newest first. Entries of a confidential card carry address 0 (R410). -/
def State.logEntry (s : State) (kind phys unit : Nat) (task : Option Task) (addr : Nat) : State :=
  let conf := match task with | none => false | some t => t.conf
  let e : LogEntry := { tick := s.tick, kind, phys, unit, tag := (task.map (·.tag)).getD 0, addr := if conf then 0 else addr }
  s.setHub ({ s.hub with errlog := (e :: s.hub.errlog).take 256, logTail := s.hub.logTail + 1 }.noteError s.tick kind phys unit)

/-- The physical core that carries a logical one, 0xFF for none (R417). -/
def State.physOf (s : State) (l : CoreId) : Nat := match s.hub.map[l] with | some p => p.val | none => 255

/-- Whether the read that a unit has started at its predicted address is squashed (R237): its walk returns another address, or faults (`none`). -/
def Core.mispredicts (c : Core) (unit va : Nat) (p : Option Nat) : Bool :=
  !c.theTask.inHeap va && match c.last.find? (·.1 == unit) with
    | none => false
    | some (_, lva, lp, _) =>
      let guess := lp + va - lva
      decide (va < lva + 2 ^ 29) && decide (lva < va + 2 ^ 29) && decide (lva ≤ lp + va) && decide (guess < 2 ^ 40) && some guess != p

/-- A read of a unit whose walk may fault: a predicted read that it then squashes counts (R237, R391). -/
def State.walkFails (s : State) (l : CoreId) (unit va : Nat) : State :=
  let c := s.core l
  if (translate s.mem c.theTask va needRd).isSome then s
  else
    let (k, s) := s.fresh
    s.modCore l fun c => c.count 10 (ofBool (Config.tlbMiss k && c.mispredicts unit va none))

/-- The squash of a read at an effective address that faults (R237): of a global one whose alignment passed. -/
def State.misread (s : State) (l : CoreId) (unit align ea : Nat) : State :=
  match spaceOf ea with
  | .glob va => if ea % align = 0 then s.walkFails l unit va else s
  | _ => s

/-- The current core does not complete its position. What has lost its check bits in a store of the core is logged where it is read (R416). -/
def State.halted (s : State) (h : Halt) : State :=
  let s := match h with | .misread unit align _ ea => s.misread s.cur unit align ea.toNat | _ => s
  let c := s.core s.cur
  let t := s.setCore s.cur (c.halt s.now h)
  match h with
  | .poison kind unit n _ => (List.range n).foldl (fun t _ => t.logEntry kind (s.physOf s.cur) unit c.task 0) t
  | .struck _ => t.logEntry 3 (s.physOf s.cur) 5 c.task 0
  | _ => t

/-! ### Completing a position -/

/-- The core after its position, with the fetch and loop state that follow: the next position has reached pc (R391; log 108). -/
def Core.moved (c : Core) (now : Nat) (fl : Fetch) (lp : Loop) : Core :=
  { c with fetch := fl, loop := lp, pfx := none, stall := none, wait := none, samples := 0, ready := now + 1 }.count 11 1

/-- The single-step trap that follows a completed position (R197), judged on the state before it. -/
def Core.stepped (c' c : Core) : Core :=
  if c.csr.ss && !c.csr.h then { c' with stepOf := some c.fetch.pc.addr } else c'

/-- A position of `size` bytes that has been performed: its successor and its effects on the package. -/
def finishPos (s : State) (c c' : Core) (k : PosKind) (target : Option Nat) (post : Core → Core) (fx : State → State) : State :=
  match nextFetch s.mem c (if k = .transfer then c'.fetch.slots else c'.fetch) target with
  | .error h => s.halted h
  | .ok (fl, lp) => fx (s.setCore s.cur (post ((c'.moved s.now fl lp).stepped c)))

/-- Perform the position at pc of the current core (R109): `f` is its meaning on the core. -/
def perform (s : State) (size : Nat) (k : PosKind) (f : State → Core → Act) : State :=
  let c := s.core s.cur
  if c.run = .running then
    if c.fetch.layout size k || (k = .header && c.unentered s.mem) then s.setCore s.cur (c.raise 0x05 c.fetch.pc.addr none false s.now)
    else match f s c with
      | .done c' post fx => finishPos s c c' k none post fx
      | .jump c' target => finishPos s c c' k (some target) id id
      | .wait c' st fx => fx (s.setCore s.cur { c' with stall := some st })
      | .stay c' fx => fx (s.setCore s.cur ({ c' with stall := none, pfx := none, wait := none, samples := 0 }.count 11 1))
      | .halt h => s.halted h
  else s

/-- The outcome of an instruction of Smith. -/
def smith (s : State) (size : Nat) (k : PosKind) (f : State → Core → Act) : Host.Outcome State Fault Refusal :=
  .next (perform s size k f)

end Sys2Proof.Machine
end

