-- ==== Sys2Proof/Machine/Alu.lean ====
section
/-! DEFINITION. ALU instructions (R120 to R122), immediate forms (R123), LI and LUI (R124), and the 16-bit forms that expand
to them (R90). -/

namespace Sys2Proof.Machine

/-- DIV (R121). -/
def divS (a b : Word) : Word :=
  if b = 0 then BitVec.ofInt 64 (-1)
  else if a = BitVec.ofNat 64 (2 ^ 63) && b = BitVec.ofInt 64 (-1) then a
  else BitVec.ofInt 64 (a.toInt.tdiv b.toInt)

/-- DIVU (R121). -/
def divU (a b : Word) : Word := if b = 0 then BitVec.ofInt 64 (-1) else BitVec.ofNat 64 (a.toNat / b.toNat)

/-- REM (R121). -/
def remS (a b : Word) : Word :=
  if b = 0 then a
  else if a = BitVec.ofNat 64 (2 ^ 63) && b = BitVec.ofInt 64 (-1) then 0
  else BitVec.ofInt 64 (a.toInt - b.toInt * a.toInt.tdiv b.toInt)

/-- REMU (R121). -/
def remU (a b : Word) : Word := if b = 0 then a else BitVec.ofNat 64 (a.toNat % b.toNat)

/-- The number of leading zero bits of the low `n` bits (R120). -/
def clz : (n : Nat) → Nat → Nat
  | 0, _ => 0
  | n + 1, x => if x / 2 ^ n % 2 = 1 then 0 else 1 + clz n x

/-- The number of trailing zero bits among `n` bits (R120). -/
def ctz : (n : Nat) → Nat → Nat
  | 0, _ => 0
  | n + 1, x => if x % 2 = 1 then 0 else 1 + ctz n (x / 2)

/-- The number of one bits among `n` bits (R120). -/
def popc : (n : Nat) → Nat → Nat
  | 0, _ => 0
  | n + 1, x => x % 2 + popc n (x / 2)

/-- One for true (R120). -/
def flag (b : Bool) : Word := BitVec.ofNat 64 (ofBool b)

/-- Sign extension of the low 32 bits (R120). -/
def sext32 (x : Word) : Word := BitVec.ofInt 64 (signed 32 x.toNat)

/-- The field position and length of BFX and BFI (R122). -/
def fieldPos (b : Word) : Nat := fld b 0 6
def fieldLen (b : Word) : Nat :=
  let n := fld b 6 7
  if n = 0 || n > 64 - fieldPos b then 64 - fieldPos b else n

/-- BFX (R122). -/
def bfx (a b : Word) : Word := BitVec.ofNat 64 (fld a (fieldPos b) (fieldLen b))

/-- BFI (R122). -/
def bfi (base a b : Word) : Word := setFld base (fieldPos b) (fieldLen b) a.toNat

/-- A two-source scalar instruction of latency `l` (R120). -/
def scalar2 (size d a b l : Nat) (op : Word → Word → Word) (s : State) : Host.Outcome State Fault Refusal :=
  smith s size .plain fun s c => with2 c a b [] d fun c x y => pushed s c d (op x y) l

/-- A one-source scalar instruction of latency `l` (R120). -/
def scalar1 (size d a l : Nat) (op : Word → Word) (s : State) : Host.Outcome State Fault Refusal :=
  smith s size .plain fun s c => with1 c a [] d fun c x => pushed s c d (op x) l

/-- The integer divider accepts an instruction once its previous one has landed (R106). -/
def scalarDiv (d a b : Nat) (op : Word → Word → Word) (s : State) : Host.Outcome State Fault Refusal :=
  smith s 4 .plain fun s c => with2 c a b [] d fun c' x y =>
    if c.fly.any (·.busy == 1) then .halt (.stall .unitBusy)
    else .ok (c'.pushFly { id := 0, dst := d, val := op x y, due := some (s.now + 34), busy := 1 })

/-- ADD (R120). -/
def execADD (d a b : BitVec 6) (s : State) : Host.Outcome State Fault Refusal :=
  scalar2 4 d.toNat a.toNat b.toNat 1 (fun x y => x + y) s

/-- SUB (R120). -/
def execSUB (d a b : BitVec 6) (s : State) : Host.Outcome State Fault Refusal :=
  scalar2 4 d.toNat a.toNat b.toNat 1 (fun x y => x - y) s

/-- MUL (R120). -/
def execMUL (d a b : BitVec 6) (s : State) : Host.Outcome State Fault Refusal :=
  scalar2 4 d.toNat a.toNat b.toNat 3 (fun x y => x * y) s

/-- MULH (R120). -/
def execMULH (d a b : BitVec 6) (s : State) : Host.Outcome State Fault Refusal :=
  scalar2 4 d.toNat a.toNat b.toNat 3 (fun x y => BitVec.ofInt 64 (x.toInt * y.toInt / 2 ^ 64)) s

/-- MULHU (R120). -/
def execMULHU (d a b : BitVec 6) (s : State) : Host.Outcome State Fault Refusal :=
  scalar2 4 d.toNat a.toNat b.toNat 3 (fun x y => BitVec.ofNat 64 (x.toNat * y.toNat / 2 ^ 64)) s

/-- DIV (R121). -/
def execDIV (d a b : BitVec 6) (s : State) : Host.Outcome State Fault Refusal :=
  scalarDiv d.toNat a.toNat b.toNat divS s

/-- DIVU (R121). -/
def execDIVU (d a b : BitVec 6) (s : State) : Host.Outcome State Fault Refusal :=
  scalarDiv d.toNat a.toNat b.toNat divU s

/-- REM (R121). -/
def execREM (d a b : BitVec 6) (s : State) : Host.Outcome State Fault Refusal :=
  scalarDiv d.toNat a.toNat b.toNat remS s

/-- REMU (R121). -/
def execREMU (d a b : BitVec 6) (s : State) : Host.Outcome State Fault Refusal :=
  scalarDiv d.toNat a.toNat b.toNat remU s

/-- AND (R120). -/
def execAND (d a b : BitVec 6) (s : State) : Host.Outcome State Fault Refusal :=
  scalar2 4 d.toNat a.toNat b.toNat 1 (fun x y => x &&& y) s

/-- OR (R120). -/
def execOR (d a b : BitVec 6) (s : State) : Host.Outcome State Fault Refusal :=
  scalar2 4 d.toNat a.toNat b.toNat 1 (fun x y => x ||| y) s

/-- XOR (R120). -/
def execXOR (d a b : BitVec 6) (s : State) : Host.Outcome State Fault Refusal :=
  scalar2 4 d.toNat a.toNat b.toNat 1 (fun x y => x ^^^ y) s

/-- SHL (R120). -/
def execSHL (d a b : BitVec 6) (s : State) : Host.Outcome State Fault Refusal :=
  scalar2 4 d.toNat a.toNat b.toNat 1 (fun x y => x <<< fld y 0 6) s

/-- SHR (R120). -/
def execSHR (d a b : BitVec 6) (s : State) : Host.Outcome State Fault Refusal :=
  scalar2 4 d.toNat a.toNat b.toNat 1 (fun x y => x >>> fld y 0 6) s

/-- SHRA (R120). -/
def execSHRA (d a b : BitVec 6) (s : State) : Host.Outcome State Fault Refusal :=
  scalar2 4 d.toNat a.toNat b.toNat 1 (fun x y => x.sshiftRight (fld y 0 6)) s

/-- MIN (R120). -/
def execMIN (d a b : BitVec 6) (s : State) : Host.Outcome State Fault Refusal :=
  scalar2 4 d.toNat a.toNat b.toNat 1 (fun x y => if y.slt x then y else x) s

/-- MAX (R120). -/
def execMAX (d a b : BitVec 6) (s : State) : Host.Outcome State Fault Refusal :=
  scalar2 4 d.toNat a.toNat b.toNat 1 (fun x y => if x.slt y then y else x) s

/-- MINU (R120). -/
def execMINU (d a b : BitVec 6) (s : State) : Host.Outcome State Fault Refusal :=
  scalar2 4 d.toNat a.toNat b.toNat 1 (fun x y => if y.ult x then y else x) s

/-- MAXU (R120). -/
def execMAXU (d a b : BitVec 6) (s : State) : Host.Outcome State Fault Refusal :=
  scalar2 4 d.toNat a.toNat b.toNat 1 (fun x y => if x.ult y then y else x) s

/-- CLZ (R120). -/
def execCLZ (d a : BitVec 6) (s : State) : Host.Outcome State Fault Refusal :=
  scalar1 4 d.toNat a.toNat 1 (fun x => BitVec.ofNat 64 (clz 64 x.toNat)) s

/-- CTZ (R120). -/
def execCTZ (d a : BitVec 6) (s : State) : Host.Outcome State Fault Refusal :=
  scalar1 4 d.toNat a.toNat 1 (fun x => BitVec.ofNat 64 (ctz 64 x.toNat)) s

/-- POPC (R120). -/
def execPOPC (d a : BitVec 6) (s : State) : Host.Outcome State Fault Refusal :=
  scalar1 4 d.toNat a.toNat 1 (fun x => BitVec.ofNat 64 (popc 64 x.toNat)) s

/-- CMPEQ (R120). -/
def execCMPEQ (d a b : BitVec 6) (s : State) : Host.Outcome State Fault Refusal :=
  scalar2 4 d.toNat a.toNat b.toNat 1 (fun x y => flag (x == y)) s

/-- CMPNE (R120). -/
def execCMPNE (d a b : BitVec 6) (s : State) : Host.Outcome State Fault Refusal :=
  scalar2 4 d.toNat a.toNat b.toNat 1 (fun x y => flag (x != y)) s

/-- CMPLT (R120). -/
def execCMPLT (d a b : BitVec 6) (s : State) : Host.Outcome State Fault Refusal :=
  scalar2 4 d.toNat a.toNat b.toNat 1 (fun x y => flag (x.slt y)) s

/-- CMPLTU (R120). -/
def execCMPLTU (d a b : BitVec 6) (s : State) : Host.Outcome State Fault Refusal :=
  scalar2 4 d.toNat a.toNat b.toNat 1 (fun x y => flag (x.ult y)) s

/-- CMPGE (R120). -/
def execCMPGE (d a b : BitVec 6) (s : State) : Host.Outcome State Fault Refusal :=
  scalar2 4 d.toNat a.toNat b.toNat 1 (fun x y => flag (y.sle x)) s

/-- CMPGEU (R120). -/
def execCMPGEU (d a b : BitVec 6) (s : State) : Host.Outcome State Fault Refusal :=
  scalar2 4 d.toNat a.toNat b.toNat 1 (fun x y => flag (y.ule x)) s

/-- SEL reads `q1` as it stands before its own push (R120). -/
def execSEL (d a b : BitVec 6) (s : State) : Host.Outcome State Fault Refusal :=
  smith s 4 .plain fun s c => with2 c a.toNat b.toNat [32] d.toNat fun c' x y =>
    pushed s c' d.toNat (if (vget c.q 0 {}).val != 0 then x else y) 1

/-- ADDW (R120). -/
def execADDW (d a b : BitVec 6) (s : State) : Host.Outcome State Fault Refusal :=
  scalar2 4 d.toNat a.toNat b.toNat 1 (fun x y => sext32 (x + y)) s

/-- SUBW (R120). -/
def execSUBW (d a b : BitVec 6) (s : State) : Host.Outcome State Fault Refusal :=
  scalar2 4 d.toNat a.toNat b.toNat 1 (fun x y => sext32 (x - y)) s

/-- SH1ADD (R120). -/
def execSH1ADD (d a b : BitVec 6) (s : State) : Host.Outcome State Fault Refusal :=
  scalar2 4 d.toNat a.toNat b.toNat 1 (fun x y => (x <<< 1) + y) s

/-- SH2ADD (R120). -/
def execSH2ADD (d a b : BitVec 6) (s : State) : Host.Outcome State Fault Refusal :=
  scalar2 4 d.toNat a.toNat b.toNat 1 (fun x y => (x <<< 2) + y) s

/-- SH3ADD (R120). -/
def execSH3ADD (d a b : BitVec 6) (s : State) : Host.Outcome State Fault Refusal :=
  scalar2 4 d.toNat a.toNat b.toNat 1 (fun x y => (x <<< 3) + y) s

/-- BFX (R120). -/
def execBFX (d a b : BitVec 6) (s : State) : Host.Outcome State Fault Refusal :=
  scalar2 4 d.toNat a.toNat b.toNat 1 (fun x y => bfx x y) s

/-- BFI reads its d register as a third source (R122). -/
def execBFI (d a b : BitVec 6) (s : State) : Host.Outcome State Fault Refusal :=
  smith s 4 .plain fun s c => with2 c a.toNat b.toNat [d.toNat] d.toNat fun c' x y =>
    pushed s c' d.toNat (bfi (c.getS d.toNat) x y) 1

/-- ADDI (R123). -/
def execADDI (d a : BitVec 6) (i : BitVec 13) (s : State) : Host.Outcome State Fault Refusal :=
  scalar1 4 d.toNat a.toNat 1 (fun x => x + i.signExtend 64) s

/-- ANDI (R123). -/
def execANDI (d a : BitVec 6) (i : BitVec 13) (s : State) : Host.Outcome State Fault Refusal :=
  scalar1 4 d.toNat a.toNat 1 (fun x => x &&& i.signExtend 64) s

/-- ORI (R123). -/
def execORI (d a : BitVec 6) (i : BitVec 13) (s : State) : Host.Outcome State Fault Refusal :=
  scalar1 4 d.toNat a.toNat 1 (fun x => x ||| i.signExtend 64) s

/-- XORI (R123). -/
def execXORI (d a : BitVec 6) (i : BitVec 13) (s : State) : Host.Outcome State Fault Refusal :=
  scalar1 4 d.toNat a.toNat 1 (fun x => x ^^^ i.signExtend 64) s

/-- SHLI (R123). -/
def execSHLI (d a k : BitVec 6) (s : State) : Host.Outcome State Fault Refusal :=
  scalar1 4 d.toNat a.toNat 1 (fun x => x <<< k.toNat) s

/-- SHRI (R123). -/
def execSHRI (d a k : BitVec 6) (s : State) : Host.Outcome State Fault Refusal :=
  scalar1 4 d.toNat a.toNat 1 (fun x => x >>> k.toNat) s

/-- SHRAI (R123). -/
def execSHRAI (d a k : BitVec 6) (s : State) : Host.Outcome State Fault Refusal :=
  scalar1 4 d.toNat a.toNat 1 (fun x => x.sshiftRight k.toNat) s

/-- CMPLTI (R123). -/
def execCMPLTI (d a : BitVec 6) (i : BitVec 13) (s : State) : Host.Outcome State Fault Refusal :=
  scalar1 4 d.toNat a.toNat 1 (fun x => flag (x.slt (i.signExtend 64))) s

/-- CMPEQI (R123). -/
def execCMPEQI (d a : BitVec 6) (i : BitVec 13) (s : State) : Host.Outcome State Fault Refusal :=
  scalar1 4 d.toNat a.toNat 1 (fun x => flag (x == i.signExtend 64)) s

/-- A constant is pushed (R124). -/
def scalar0 (size d : Nat) (v : Word) (s : State) : Host.Outcome State Fault Refusal :=
  smith s size .plain fun s c => with0 c [] d fun c => pushed s c d v 1

/-- LI (R124). -/
def execLI (d : BitVec 6) (i : BitVec 19) (s : State) : Host.Outcome State Fault Refusal :=
  scalar0 4 d.toNat (i.signExtend 64) s

/-- LUI (R124). -/
def execLUI (d : BitVec 6) (i : BitVec 19) (s : State) : Host.Outcome State Fault Refusal :=
  scalar0 4 d.toNat (i.signExtend 64 <<< 13) s

/-- C.ADDI: ADDI d, d, imm6 (R90). -/
def execC_ADDI (d : BitVec 5) (i : BitVec 6) (s : State) : Host.Outcome State Fault Refusal :=
  scalar1 2 d.toNat d.toNat 1 (fun x => x + i.signExtend 64) s

/-- C.ADD: ADD d, d, a (R90). -/
def execC_ADD (d : BitVec 5) (a : BitVec 6) (s : State) : Host.Outcome State Fault Refusal :=
  scalar2 2 d.toNat d.toNat a.toNat 1 (fun x y => x + y) s

/-- C.MV: ADD d, a, s0 (R90). -/
def execC_MV (d : BitVec 5) (a : BitVec 6) (s : State) : Host.Outcome State Fault Refusal :=
  scalar2 2 d.toNat a.toNat 0 1 (fun x y => x + y) s

/-- C.LI: LI d, imm6 (R90). -/
def execC_LI (d : BitVec 5) (i : BitVec 6) (s : State) : Host.Outcome State Fault Refusal :=
  scalar0 2 d.toNat (i.signExtend 64) s

/-- C.SHLI: SHLI d, d, sh6 (R90). -/
def execC_SHLI (d : BitVec 5) (k : BitVec 6) (s : State) : Host.Outcome State Fault Refusal :=
  scalar1 2 d.toNat d.toNat 1 (fun x => x <<< k.toNat) s

/-- C.SUB: SUB d, d, a (R90). -/
def execC_SUB (d : BitVec 5) (a : BitVec 6) (s : State) : Host.Outcome State Fault Refusal :=
  scalar2 2 d.toNat d.toNat a.toNat 1 (fun x y => x - y) s

/-- C.AND: AND d, d, a (R90). -/
def execC_AND (d : BitVec 5) (a : BitVec 6) (s : State) : Host.Outcome State Fault Refusal :=
  scalar2 2 d.toNat d.toNat a.toNat 1 (fun x y => x &&& y) s

end Sys2Proof.Machine
end

