-- ==== Sys2Proof/Machine/Errors.lean ====
section
/-! DEFINITION. Errors found in memories: the error log (R416, R417), events that every core of a die counts (R391), the return of a
die's voltage (R386), and the soft errors themselves. -/

namespace Sys2Proof.Machine

/-- The logical cores of a die, ascending (R15). -/
def coresOf (d : DieId) : List CoreId := (List.finRange 64).filter fun l => dieOf l == d

/-- Every core of a die whose task is bound counts an event of the die (R391). -/
def State.countDie (s : State) (d : DieId) (i : Nat) : State := (coresOf d).foldl (fun s l => s.modCore l fun c => c.count i 1) s

/-- Corrected and poisoned words read for the task of core `l` in a store of core `k`: counted and logged (R204, R391, R416, R417). -/
def State.foundAt (s : State) (l k : CoreId) (unit weak pois addr : Nat) : State :=
  if weak = 0 && pois = 0 then s
  else
    let s := s.modCore l fun c => (c.count 0 weak).count 1 pois
    let t := (s.core l).task
    let p := if unit = 2 then 255 else s.physOf k
    let s := (List.range weak).foldl (fun s _ => s.logEntry 1 p unit t addr) s
    (List.range pois).foldl (fun s _ => s.logEntry 2 p unit t addr) s

/-- `foundAt` for the core's own stores, and for HBM. -/
def State.foundErrors (s : State) (l : CoreId) (unit weak pois addr : Nat) : State := s.foundAt l l unit weak pois addr

/-- The physical address of a byte of code, 0 where it has none. -/
def State.codeAddr (s : State) (l : CoreId) (va : Nat) : Nat := (translate s.mem (s.core l).theTask va needX).getD 0

/-- The words of code that are corrected where the position at pc is fetched from HBM are counted and logged (R416; log 118). -/
def State.fetched (s : State) (l : CoreId) : State :=
  let c := s.core l
  if s.mem.weak.isEmpty then s
  else
    let a := c.fetch.pc.addr.toNat
    let far := ((List.range (sizeAt s.mem c.theTask c.loop a / 2)).map (a + 2 * ·)).filter fun x => (c.loop.parcel x).isNone
    s.foundErrors l 2 (touched s.mem.weak (far.map fun x => (s.codeAddr l x, 2))) 0 (s.codeAddr l a)

/-- A fault of fetch or decode at pc: a poisoned word of code is counted and logged (R416). -/
def State.fetchFault (s : State) (l : CoreId) (code : Byte) (tval : Word) : State :=
  let s := if code = 0x1A then s.foundErrors l 2 0 1 (s.codeAddr l tval.toNat) else s
  s.modCore l fun c => c.raise code tval none false s.now

/-- An uncorrectable error on a die (R386): below the guard band, the voltage returns within 200 ticks and undervolting is disabled for one
second. -/
def State.dieError (s : State) (d : DieId) : State :=
  let x := s.die d
  if x.volt = 0 then s
  else
    let (k, s) := s.delay
    (s.setDie d { x with retAt := some (x.retAt.getD (s.tick + k % 201)), offUntil := some (s.tick + 100000000) }).countDie d 14

/-- An error in the word of own Ember at `off` (R204): row groups that are not valid hold no code. -/
def State.strike (s : State) (c : CoreId) (off : Nat) (e : Ecc) : State :=
  let k := s.core c
  if !(k.ember.rowAt off).any (·.st == .valid) then s
  else match e with
    | .clean => s
    | .single => s.setCore c { k with ember := { k.ember with mem := k.ember.mem.weaken off } }
    | .double => (s.setCore c { k with ember := { k.ember with mem := k.ember.mem.poison off } }).dieError (dieOf c)

/-- A list of marked places with one more. -/
def mark (l : List Nat) (i : Nat) : List Nat := if l.contains i then l else i :: l

/-- A soft error happens (R204, R416, log 10). What it leaves in the store is found by the consumer that reads it. -/
def State.suffer (s : State) : Upset → State
  | .word c false off double => s.strike c off (if double then .double else .single)
  | .word c true off double =>
    if double then (s.modCore c fun k => { k with sram := k.sram.poison off }).dieError (dieOf c)
    else s.modCore c fun k => { k with sram := k.sram.weaken off }
  | .hbm a double => if 2 ^ 40 ≤ a then s else { s with mem := if double then s.mem.poison a else s.mem.weaken a }
  | .read c e => s.modCore c fun k => { k with strike := some (s.now, e) }
  | .slot c v i true => (s.modCore c fun k => { k with v := k.v.set v { k.v[v] with pois := mark k.v[v].pois i } }).dieError (dieOf c)
  | .slot c v i false => s.modCore c fun k => { k with v := k.v.set v { k.v[v] with weak := mark k.v[v].weak i } }
  | .tile c j word true =>
    (s.modCore c fun k => { k with tiles := k.tiles.set j { k.tiles[j] with pois := mark k.tiles[j].pois (word / 512) } }).dieError (dieOf c)
  | .tile c j word false => s.modCore c fun k => { k with tiles := k.tiles.set j { k.tiles[j] with weak := mark k.tiles[j].weak word } }
  | .result c i => (s.modCore c fun k => { k with q := k.q.set i { k.q[i] with pois := true } }).dieError (dieOf c)
  | .feed c f i =>
    (s.modCore c fun k =>
      let x := k.feeds[f]
      if x.elems.length ≤ i then k else { k with feeds := k.feeds.set f { x with pois := (x.count - x.elems.length + i) :: x.pois } }).dieError (dieOf c)
  | .command c e i =>
    (s.modCore c fun k => k.setE e { k.getE e with
      queue := (k.getE e).queue.zipIdx.map fun y => if y.2 = i then { y.1 with pois := true } else y.1 }).dieError (dieOf c)
  | .descriptor c n bit => (s.modCore c fun k => { k with td := k.td.set n (k.td[n] ^^^ BitVec.twoPow 256 bit.val) }).dieError (dieOf c)
  | .adder c => (s.modCore c fun k => { k with residue := some s.now }).dieError (dieOf c)
  | .silent p => s.setHub { s.hub with phys := s.hub.phys.set p { s.hub.phys[p] with deaf := true } }

end Sys2Proof.Machine
end

