-- ==== Sys2Proof/Machine/Ordering.lean ====
section
/-! DEFINITION. The ordering model of one task (R243 to R260): which earlier accesses are still to be performed, the commit
buffer with its closed, superseded and spilled bytes, and the commit of lines. Every write of the model is visible at every
scope as soon as it is performed (log 8). -/

namespace Sys2Proof.Machine

/-! ### What is still to be performed -/

/-- Whether a load's value is still to be fixed (R244). -/
def Core.unfixed (c : Core) (f : Fly) : Bool :=
  f.cls < 16 && (f.walk.isSome || c.reads.any fun r => r.who == .load f.id && r.land.isNone)

/-- The accesses of Smith and the vector unit before program order `prog`, of a class in `mask`, that are not performed: loads,
exposed stores, stores that a resumption replays, release stores and operand SRAM stores. Stores that wait in the landing list for the end of a
handler are not among them (log 129). -/
def Core.scalarOpen (c : Core) (prog : Nat) (mask : Nat → Bool) : Bool :=
  c.fly.any (fun f => f.id < prog && mask f.cls && c.unfixed f) ||
  c.exposed.any (fun x => x.id < prog && mask x.cls) ||
  c.land.any (fun x => x.at_.isSome && x.id < prog && mask x.cls) ||
  c.gst.any (fun g => g.prog < prog && mask g.cls && !g.plain) ||
  (match c.vbusy with | none => false | some v => decide (v.prog < prog) && mask v.cls)

/-- Plain global stores before `prog` of a class in `mask` not committed (R249, R257): a line waits with every line allocated
before it. -/
def Core.plainOpen (c : Core) (prog : Nat) (mask : Nat → Bool) : Bool :=
  c.gst.any (fun g => g.prog < prog && mask g.cls && g.plain) ||
  c.wbuf.any (fun l => l.held.any fun h => h.2 < prog && mask h.1)

/-- Whether a command has performed its last access before the current cycle (R248). -/
def Eng.lastDone (x : Eng) (now : Nat) (i : Nat) : Bool :=
  i = 0 && (match x.last with | none => false | some k => decide (k < now))

/-- Commands that access nothing (R311): MZERO. -/
def Cmd.silent (c : Cmd) : Bool := match c.kind with | .mzero .. => true | _ => false

/-- Engine commands before `prog` whose accesses are of a class in `mask` and not all performed. -/
def Core.engineOpen (c : Core) (now prog : Nat) (mask : Nat → Bool) : Bool :=
  c.eng.toList.any fun x => x.queue.zipIdx.any fun y =>
    decide (y.1.prog < prog) && mask y.1.cls && !y.1.silent && !x.lastDone now y.2

/-- `engineOpen` for an access of class `k`: what the handler issues passes the commands of a frozen engine (R192, R431; log 29). -/
def Core.engineBars (c : Core) (now prog k : Nat) : Bool :=
  c.eng.toList.any fun x => !(x.frozen && c.csr.h && decide (c.shadow.prog ≤ prog)) && x.queue.zipIdx.any fun y =>
    decide (y.1.prog < prog) && y.1.cls == k && !y.1.silent && !x.lastDone now y.2

/-- Whether the acquire of the head command of an engine is performed (R252, R403): it has begun, and of a receiving command that acquires at GROUP
or SYS the sender's release has come with the last flit, if it releases. -/
def Eng.acquired (x : Eng) (cmd : Cmd) : Bool :=
  x.begun.isSome && match cmd.kind with
    | .lrecv _ | .lred _ => decide (cmd.scope < 4) || x.sub == 1 || x.flits.any fun f => f.last || !f.release
    | _ => true

/-- Whether an acquire before `prog` is not performed (R252): a load's value, or a command whose own is not. -/
def Core.acquireOpen (c : Core) (prog : Nat) : Bool :=
  c.fly.any (fun f => f.id < prog && f.acq && c.unfixed f) ||
  c.eng.toList.any fun x => x.queue.zipIdx.any fun y =>
    decide (y.1.prog < prog) && y.1.acq && !(y.2 == 0 && x.acquired y.1) && !(c.fills.any (·.prog == y.1.prog))

/-- Whether a release store of class `k` still waits for its order (R248, R251; log 107). What the handler issues passes those of the interrupted
task (log 29). -/
def Core.releaseBars (c : Core) (now k : Nat) : Bool :=
  let own (prog : Nat) : Bool := !(c.csr.h && decide (prog < c.shadow.prog))
  c.gst.any (fun g => g.rel.isSome && g.cls == k && own g.prog) ||
  c.exposed.any (fun x => x.rel && x.cls == k && own x.id && decide (x.t + 3 < now))

/-- The class-ordering stall of R33 for a scalar or vector access, TDCOPY or WAITV of class `k` (R248, R252). -/
def Core.classStall (c : Core) (now k : Nat) : Bool :=
  c.engineBars now c.nextId k || c.acquireOpen c.nextId || c.releaseBars now k

/-- Whether an engine command may make its first access (R248, R252): the earlier accesses of its class are performed. A gang
member's plain stores become visible at its quantum boundary and are not waited for (log 23). -/
def Core.mayBegin (c : Core) (now : Nat) (cmd : Cmd) : Bool :=
  let gang := c.theTask.gang
  !c.scalarOpen cmd.prog (· == cmd.cls) && (gang || !c.plainOpen cmd.prog (· == cmd.cls)) &&
  !c.engineBars now cmd.prog cmd.cls && !c.acquireOpen cmd.prog

/-- Whether a release at program order `prog` may be performed (R251): every earlier access of any class is performed, and a
task that is not a gang member has committed its earlier plain stores. -/
def Core.mayRelease (c : Core) (now prog : Nat) : Bool :=
  !c.scalarOpen prog (fun _ => true) && (c.theTask.gang || !c.plainOpen prog (fun _ => true)) &&
  !c.engineOpen now prog (fun _ => true)

/-- What a FENCE over `mask` waits for (R249). -/
def Core.fenceDone (c : Core) (now : Nat) (mask : Nat → Bool) : Bool :=
  !c.scalarOpen c.nextId mask && (c.theTask.gang || !c.plainOpen c.nextId mask) && !c.engineOpen now c.nextId mask

/-! ### The commit buffer -/

/-- The byte a line holds for an address. -/
def CLine.at_ (l : CLine) (a : Nat) : Option Byte := if l.addr ≤ a && a < l.addr + 64 then l.bytes.getD (a - l.addr) none else none

/-- The byte a store on its way holds for an address. -/
def GStore.at_ (g : GStore) (a : Nat) : Option Byte := if g.addr ≤ a then g.data.getD (a - g.addr) none else none

/-- The youngest byte that some stores on their way hold for an address. -/
def youngest (gs : List GStore) (a : Nat) : Option Byte := gs.reverse.findSome? (·.at_ a)

/-- The youngest of the task's own bytes for an address (R246, R256): plain stores on their way, then lines, then spilled lines, then stores that
wait for their order. A release store has superseded every older plain byte at its address, so a plain byte that is left is younger. -/
def Core.forward (c : Core) (a : Nat) : Option Byte :=
  (youngest (c.gst.filter (·.plain)) a).orElse fun _ =>
    (c.wbuf.reverse.findSome? (·.at_ a)).orElse fun _ =>
      (c.spilt.reverse.findSome? (·.at_ a)).orElse fun _ => youngest (c.gst.filter (!·.plain)) a

/-- The bytes a load forwards. -/
def Core.forwards (c : Core) (a n : Nat) : List (Option Byte) := (List.range n).map fun i => c.forward (a + i)

/-- A read of memory with some bytes forwarded (R256): the bytes, and the poisoned and the corrected words among those of memory that it
consumes (R204). -/
def Mem.readUnder (m : Mem) (fw : List (Option Byte)) (p n : Nat) : List Byte × Nat × Nat :=
  ((fw.zip (m.read p n)).map (fun x => x.1.getD x.2), m.errorsIn p (fw.map Option.isNone))

/-- A plain read of global memory by a task (R256). -/
def Core.readGlobal (c : Core) (m : Mem) (ea p n : Nat) : List Byte × Nat × Nat := m.readUnder (c.forwards ea n) p n

/-- A line with bytes put in. -/
def CLine.put (l : CLine) (g : GStore) : CLine :=
  { l with
    bytes := (List.range 64).map fun i => (g.at_ (l.addr + i)).orElse fun _ => l.bytes.getD i none
    held := l.held ++ [(g.cls, g.prog)] }

/-- Whether a store of program order `prog` may merge into a line (R256): nothing has closed it since its youngest store. -/
def CLine.takes (l : CLine) (closes : List Nat) (a prog : Nat) : Bool :=
  l.addr == a && match l.held.getLast? with
    | none => true
    | some h => !closes.any fun k => h.2 < k && k < prog

/-- Merge a store that lies in one line: the youngest line of its address takes it, or a new line is allocated. -/
def mergeLine (lines : List CLine) (closes : List Nat) (g : GStore) : List CLine :=
  let a := g.addr / 64 * 64
  match lines.reverse.find? (·.addr == a) with
  | some l => if l.takes closes a g.prog then
      (lines.reverse.foldl (fun (acc : List CLine × Bool) x =>
        if !acc.2 && x.addr == a then (x.put g :: acc.1, true) else (x :: acc.1, acc.2)) ([], false)).1
    else lines ++ [({ addr := a, bytes := List.replicate 64 none } : CLine).put g]
  | none => lines ++ [({ addr := a, bytes := List.replicate 64 none } : CLine).put g]

/-- Whether a store needs a new line. -/
def needsLine (lines : List CLine) (closes : List Nat) (a prog : Nat) : Bool :=
  match lines.reverse.find? (·.addr == a / 64 * 64) with
  | some l => !l.takes closes (a / 64 * 64) prog
  | none => true

/-- Lines after a plain store, and the lines spilled so far: a gang member's full buffer spills the line allocated first (R259). -/
def soonAfter (gang : Bool) (closes : List Nat) (acc : List CLine × Nat) (g : GStore) : List CLine × Nat :=
  let full := gang && needsLine acc.1 closes g.addr g.prog && decide (1024 ≤ acc.1.length)
  if full then (mergeLine (acc.1.drop 1) closes g, acc.2 + 1) else (mergeLine acc.1 closes g, acc.2)

/-- The lines as they stand once every store on its way is accepted, and how many of them those stores spill. -/
def Core.linesSoon (c : Core) : List CLine × Nat :=
  (c.gst.filter (·.plain)).foldl (soonAfter c.theTask.gang c.closes) (c.wbuf, 0)

/-- Spilled lines that a task's part of the spill area holds at most (R325). -/
def spillRoom (k : Card) : Nat := (bitsAt k.image.toNat 0x180 32 * 4096 - 128) / 80

/-- Everything a release, FENCE, DEPDEC or SPAWN of a task that is not a gang member closes (R256). Its program order is the
next number. -/
def Core.close (c : Core) : Core :=
  if c.theTask.gang then c
  else { c with closes := (c.closes.filter fun k => (c.wbuf.any fun l => l.held.any (·.2 < k)) || c.gst.any (·.prog < k)) ++ [c.nextId]
                nextId := c.nextId + 1 }

/-- Remove the bytes a release store supersedes (R256). -/
def Core.supersede (c : Core) (a n : Nat) : Core :=
  let cut (base : Nat) (bs : List (Option Byte)) : List (Option Byte) :=
    bs.zipIdx.map fun x => if a ≤ base + x.2 && base + x.2 < a + n then none else x.1
  { c with
    wbuf := c.wbuf.map fun (l : CLine) => { l with bytes := cut l.addr l.bytes }
    spilt := c.spilt.map fun (l : CLine) => { l with bytes := cut l.addr l.bytes }
    gst := c.gst.map fun (g : GStore) => if g.plain then { g with data := cut g.addr g.data } else g }

/-- What a release store supersedes when it is made: of plain bytes those before it in program order (R256). A vector store has none behind it. -/
def Core.supersedeOld (c : Core) (g : GStore) : Core :=
  let cut (base : Nat) (bs : List (Option Byte)) : List (Option Byte) :=
    bs.zipIdx.map fun x => if (g.at_ (base + x.2)).isSome then none else x.1
  let old (l : CLine) : CLine := if l.held.all fun h => h.2 < g.prog then { l with bytes := cut l.addr l.bytes } else l
  { c with
    wbuf := c.wbuf.map old
    spilt := c.spilt.map old
    gst := c.gst.map fun (x : GStore) => if x.plain && x.prog < g.prog then { x with data := cut x.addr x.data } else x }

/-- Write bytes at a global address of a task; bytes of a page that does not translate are not written. -/
def State.writeGlobal (s : State) (t : Task) (va : Nat) (bs : List (Option Byte)) : State :=
  match translate s.mem t va needW with
  | none => s
  | some p => { s with mem := s.mem.writeMask p bs }

/-- Whether some bytes at a global address reach into the task's commit-spill area. -/
def Task.breaches (t : Task) (va : Nat) (bs : List (Option Byte)) : Bool :=
  decide (va < t.area.2) && decide (t.area.1 < va + bs.length) &&
    bs.zipIdx.any fun b => b.1.isSome && decide (t.area.1 ≤ va + b.2) && decide (va + b.2 < t.area.2)

/-- Whether an address lies in the task's own part of its card's commit-spill area (R325). -/
def Task.ownSpill (t : Task) (a : Nat) : Bool := decide (t.spill ≤ a) && decide (a < t.spill + ceilDiv (128 + 80 * t.spillN) 4096 * 4096)

/-- The spilled lines of the task `w` after its own write into the area: one that the write meets is unpredictable (R8). -/
def Core.strayed (c : Core) (w : Task) (n va len : Nat) : Core :=
  match c.task with
  | none => c
  | some t =>
    if t.card != w.card || t.spill != w.spill then c
    else { c with spilt := c.spilt.zipIdx.map fun (x : CLine × Nat) =>
      let at_ := t.spill + 0x80 + 80 * x.2
      if va < at_ + 80 && at_ < va + len then
        { x.1 with bytes := (List.range 64).map fun i => if Config.wild (n + i) % 2 = 0 then none else some (Config.contextByte n (at_ + i)) }
      else x.1 }

/-- A program's write at a global address. One into its card's commit-spill area breaks R325: in the task's own part the bytes, and the spilled
lines that they belong to, are unpredictable; the rest of the area, which serves other tasks, keeps what it holds (R8; log 12). -/
def State.writeProgram (s : State) (t : Task) (va : Nat) (bs : List (Option Byte)) : State :=
  if t.breaches va bs then
    let (n, s) := s.fresh
    let s := s.writeGlobal t va (bs.zipIdx.map fun b =>
      if t.ownSpill (va + b.2) then b.1.map fun _ => Config.contextByte n (va + b.2)
      else if t.area.1 ≤ va + b.2 && va + b.2 < t.area.2 then none else b.1)
    (List.finRange 64).foldl (fun s l => s.modCore l fun c => c.strayed t n va bs.length) s
  else s.writeGlobal t va bs

/-- Commit one line (R257, R262). -/
def State.commitLine (s : State) (t : Task) (l : CLine) : State := s.writeProgram t l.addr l.bytes

/-- The mask of a line as a number (R325). -/
def maskNat (bs : List (Option Byte)) : Nat := (bs.zipIdx.map fun x => if x.1.isSome then 2 ^ x.2 else 0).sum

/-- COMMIT_SPILL: the line allocated first goes to the task's part of the spill area (R259, R325). -/
def State.spillOldest (s : State) (l : CoreId) : State :=
  let c := s.core l
  match c.wbuf with
  | [] => s
  | x :: rest =>
    let t := c.theTask
    let (n, s) := s.fresh
    let image := leBytes 8 x.addr ++ leBytes 8 (maskNat x.bytes) ++ x.bytes.zipIdx.map fun y => y.1.getD (Config.contextByte n y.2)
    let s := s.writeGlobal t (t.spill + 0x80 + 80 * t.spillN) (image.map some)
    let s := s.writeGlobal t (t.spill + 0x40) ((leBytes 8 (t.spillN + 1)).map some)
    s.setCore l { c with wbuf := rest, spilt := c.spilt ++ [x], task := some { t with spillN := t.spillN + 1 } }

/-- Accept a plain store of a core into its commit buffer (R256), spilling first when a gang member's buffer is full (R259). -/
def State.acceptStore (s : State) (l : CoreId) (g : GStore) : State :=
  let c := s.core l
  let s := if c.theTask.gang && needsLine c.wbuf c.closes g.addr g.prog && 1024 ≤ c.wbuf.length then s.spillOldest l else s
  let new := needsLine (s.core l).wbuf (s.core l).closes g.addr g.prog && !(s.core l).theTask.gang
  let due := s.now + 1 + s.delay.1
  let s := s.modCore l fun c =>
    let ls := mergeLine c.wbuf c.closes g
    { c with wbuf := if new then ls.dropLast ++ (ls.getLast?.toList.map fun (x : CLine) => { x with due }) else ls }
  if new then s.delay.2 else s

/-- Commit every line of a core, spilled lines first, and empty its buffer (R258). -/
def State.commitAll (s : State) (l : CoreId) : State :=
  let c := s.core l
  let t := c.theTask
  let s := (c.spilt ++ c.wbuf).foldl (fun s x => s.commitLine t x) s
  let s := if c.spilt.isEmpty then s else s.writeGlobal t (t.spill + 0x40) ((leBytes 8 0).map some)
  s.setCore l { c with wbuf := [], spilt := [], task := c.task.map fun t => { t with spillN := 0 } }

end Sys2Proof.Machine
end

