-- ==== Sys2Proof/Machine/LoadStore.lean ====
section
/-! DEFINITION. Scalar loads and stores (R127 to R131) and their 16-bit forms (R90). -/

namespace Sys2Proof.Machine

/-- Class, acquire, release and scope of an access: a C.CLS prefix, else the class of the c field (R91). -/
def Core.access (c : Core) (cls : Nat) : Nat × Bool × Bool × Nat :=
  match c.pfx with
  | some { cls := some x, .. } => x
  | _ => (cls, false, false, 0)

/-- The class of a read of Smith, and whether it acquires. -/
def Core.readClass (c : Core) (r : SRead) : Nat × Bool :=
  match r.who with
  | .load id => match c.fly.find? (·.id == id) with
    | some f => (f.cls, f.acq)
    | none => (0, false)
  | .tdcopy _ => (0, false)
  | .waitv => ((c.access 0).1, true)

/-- Whether a load of class `k` before program order `prog` still waits for its read of own Ember or of operand SRAM (R248). -/
def Core.readOpen (c : Core) (k prog : Nat) : Bool :=
  c.reads.any fun r => r.land.isNone && r.was.isNone && (c.readClass r).1 == k && match r.who with | .load id => decide (id < prog) | _ => false

/-- Whether two byte ranges meet. -/
def overlap (a n b m : Nat) : Bool := decide (a < b + m) && decide (b < a + n)

/-- Whether a read of own Ember touches a pending byte (R208): one of a store in its window, or of a store in the landing list. -/
def Core.pendingByte (c : Core) (now off n : Nat) : Bool :=
  c.exposed.any (fun x => x.pendBit && decide (now ≤ x.t + 3) && overlap off n x.off x.data.length) ||
  c.land.any (fun x => x.pendBit && overlap off n x.off x.data.length)

/-- Checks 1 to 4 of R129 and their like in R179: the space of an access, or its fault. A global access gives its physical
address. -/
def checkAccess (s : State) (c : Core) (ea align need : Nat) : Except Byte (Space × Nat) :=
  match spaceOf ea with
  | .none => .error 0x09
  | sp =>
    if ea % align != 0 then .error 0x07
    else match sp with
      | .ember off => if (c.ember.rowAt off).isNone then .error 0x09 else .ok (sp, off)
      | .sram off => .ok (sp, off)
      | .glob va => match globalAt s.mem c.theTask va need with
        | .error e => .error e
        | .ok p => .ok (sp, p)
      | .none => .error 0x09

/-- Extension of the bytes read (R127). -/
def extend (e : LoadExt) (bs : List Byte) : Word :=
  match e with
  | .zx => BitVec.ofNat 64 (leNat bs)
  | .sx => BitVec.ofInt 64 (signed (8 * bs.length) (leNat bs))

/-- A read of operand SRAM by Smith or the vector unit (R128, R229): its bytes, stores still to be made included, and its poisoned and
corrected words. -/
def Core.readSram (c : Core) (off n : Nat) : List Byte × Nat × Nat :=
  c.sram.readUnder ((List.range n).map fun i => youngest c.gst (sramWindow + off + i)) off n

/-! ### Reads of own Ember (R130, R207, R210) -/

/-- The bytes that a read of Smith or of the vector unit issued in cycle `issue` finds (R130): the slice, replaced by `keep`, and by open
stores whose window had passed. -/
def Core.seenBytes (c : Core) (issue off n : Nat) (keep : List Host.Cell) : List Byte :=
  (List.range n).map fun i =>
    let a := off + i
    let base := match keep.find? (·.1 == a) with
      | some k => k.2
      | none => c.ember.byte a
    (c.exposed.filter fun x => x.t + 4 ≤ issue).foldl (fun b x => if x.off ≤ a then x.data.getD (a - x.off) b else b) base

/-- An engine writes own Ember: a read that is granted later finds its bytes, also where an older store of the task had replaced them (R244, R262). -/
def Core.unkeep (c : Core) (a : Nat) (bs : List (Option Byte)) : Core :=
  let hit (x : Nat) : Bool := decide (a ≤ x) && (bs.getD (x - a) none).isSome
  { c with
    reads := c.reads.map fun (r : SRead) => if r.land.isNone && r.was.isNone then { r with keep := r.keep.filter fun k => !hit k.1 } else r
    vbusy := c.vbusy.map fun (v : VBusy) =>
      { v with mem := v.mem.map fun (m : VMem) => { m with keep := m.keep.filter (fun k => !hit k.1), bad := m.bad.filter fun x => !hit x } } }

/-- Keep, for the reads of Smith not granted yet, the bytes that a write at `a` replaces (R130, R246), and their poison: of those with
`window`. -/
def Core.keepReads (c : Core) (a n : Nat) (window : Nat → Bool) : Core :=
  let olds := (List.range n).map fun i => ((a + i, c.ember.byte (a + i)) : Host.Cell)
  let valid := (c.ember.rowAt a).any (·.st == .valid)
  let new (keep : List Host.Cell) (off len : Nat) : List Host.Cell :=
    olds.filter fun o => off ≤ o.1 && o.1 < off + len && !(keep.any (·.1 == o.1))
  let bad (l : List Host.Cell) : List Nat := (l.map (·.1)).filter fun x => valid && c.ember.pois.contains (x / 8)
  { c with
    reads := c.reads.map fun (r : SRead) => if r.land.isNone && r.unit == 0 && window r.issue then
      { r with keep := r.keep ++ new r.keep r.off r.len, bad := r.bad || !(bad (new r.keep r.off r.len)).isEmpty } else r
    vbusy := c.vbusy.map fun (v : VBusy) =>
      { v with mem := v.mem.map fun (m : VMem) => if window v.issue then
        { m with keep := m.keep ++ new m.keep a n, bad := m.bad ++ bad (new m.keep a n) } else m } }

/-- The fault that a read of own Ember finds when it is granted (R210). -/
def Core.readFault (c : Core) (r : SRead) : Option Byte :=
  r.was.getD (if r.bad then some 0x1A else c.ember.readFault r.off r.len)

/-- The values and faults of the reads of own Ember selected that have not been granted are fixed now. -/
def Core.fixReads (c : Core) (sel : SRead → Bool) : Core :=
  { c with reads := c.reads.map fun (r : SRead) =>
      if r.land.isNone && r.unit == 0 && sel r then
        { r with was := some (c.readFault r), keep := (List.range r.len).zip (c.seenBytes r.issue r.off r.len r.keep) |>.map fun x => (r.off + x.1, x.2) }
      else r }

/-- Row groups are about to be freed: a read that issued before finds what it would find now, for a scalar access takes fault 0x09 at its issue
or not at all (R210). -/
def Core.keepRows (c : Core) (gs : List Nat) : Core := c.fixReads fun r => gs.contains (r.off / 4096)

/-- A load whose value is fixed so that it lands in cycle `due`, after the core has stopped or has begun to enter its handler: its remaining latency is
known now (R196). -/
def Core.relearn (c : Core) (who : Reader) (due : Nat) : Core :=
  let left := due - c.ready
  let mine (f : Fly) : Bool := who == .load f.id
  match c.run with
  | .entering .. =>
    { c with shadow := { c.shadow with
        lat := Vector.ofFn fun i => if (vget c.shadow.fly i.val none).any mine then left else vget c.shadow.lat i.val 0 } }
  | .preempting => { c with parked := c.parked.map fun (p : Nat × Nat × Fly) => if mine p.2.2 then (p.1, left, p.2.2) else p }
  | _ => c

/-! ### Global loads (R237, R244) -/

/-- A unit's most recent translation. -/
def Core.noted (c : Core) (unit va p : Nat) : Core :=
  { c with last := (unit, va, p, fld c.theTask.asid 0 12) :: c.last.filter (·.1 != unit) }

/-- A unit's walk has returned `p` for `va`: a read predicted elsewhere is squashed. A write waits for its walk (`Core.noted`). -/
def Core.walked (c : Core) (unit va p : Nat) (miss : Bool) : Core :=
  (c.noted unit va p).count 10 (ofBool (miss && c.mispredicts unit va (some p)))

/-- A walk of a unit of core `l`, with a TLB miss or without (log 9). -/
def State.walked (s : State) (l : CoreId) (unit va p : Nat) : State :=
  let (k, s) := s.fresh
  s.modCore l fun c => c.walked unit va p (Config.tlbMiss k)

/-- The translations of a unit's writes at some global addresses (R237). -/
def State.notesWrites (s : State) (l : CoreId) (unit : Nat) (as : List Nat) : State :=
  as.foldl (fun s a => s.modCore l fun c => match translate s.mem c.theTask a needW with | none => c | some p => c.noted unit a p) s

/-- The translations of a unit's reads at some global addresses (R237). -/
def State.notesReads (s : State) (l : CoreId) (unit : Nat) (as : List Nat) : State :=
  as.foldl (fun s a => match translate s.mem (s.core l).theTask a needRd with | none => s.walkFails l unit a | some p => s.walked l unit a p) s

/-- The value of a global load is fixed (R237, R244, R256). A forwarded byte that the buffer no longer holds has been committed, and is read from
memory. -/
def State.fixLoad (s : State) (l : CoreId) (f : Fly) : State :=
  let p := f.val.toNat
  let ea := f.ea.toNat
  let s := s.walked l 0 ea p
  let k := s.core l
  let fwd := f.fwd.zipIdx.map fun x => if (k.forward (ea + x.2)).isSome then x.1 else none
  let (bs, pois, weak) := s.mem.readUnder fwd p f.size
  let due := s.now + 1 + s.delay.1
  let s := s.delay.2
  let s := s.modCore l fun k => { k with fly := k.fly.map fun (g : Fly) =>
    if g.id == f.id then { g with val := extend f.ext bs, mark := poisonCode pois, due := some due, walk := none } else g }
  s.foundErrors l 2 weak pois p

/-- An access of program order `prog` issues, or a barrier is reached: the values of the global loads before it are fixed (R246, R248, R254;
log 25). One behind a load of its class that still waits for its bank follows it (log 119). -/
def State.fixLoads (s : State) (l : CoreId) (prog : Nat) : State :=
  ((s.core l).fly.filter fun f => f.walk.isSome && decide (f.id < prog)).foldl (fun s f =>
    if (s.core l).readOpen f.cls f.id then
      s.modCore l fun c => { c with fly := c.fly.map fun (g : Fly) => if g.id == f.id then { g with walk := some s.now } else g }
    else s.fixLoad l f) s

/-- A load of operand SRAM behind a load of its class that still waits for its bank (R248; log 119): it reads once that one has, and lands 8 cycles
after its issue or in the next cycle. -/
def State.sramReads (s : State) (l : CoreId) : State :=
  ((s.core l).reads.filter fun r => r.unit == 1 && r.land.isNone).foldl (fun s r =>
    let c := s.core l
    match r.who with
    | .load id => match c.fly.find? (·.id == id) with
      | none => s
      | some f =>
        if c.readOpen f.cls id then s
        else
          let (bs, pois, weak) := c.readSram r.off r.len
          let due := max (r.issue + 8) (s.now + 1)
          let s := s.setCore l { c.relearn r.who due with
            reads := c.reads.filter (·.who != r.who)
            fly := c.fly.map fun (g : Fly) => if g.id == id then { g with val := extend f.ext bs, mark := poisonCode pois, due := some due } else g }
          s.foundErrors l 1 weak pois r.off
    | _ => s) s

/-- A scalar load (R127, R129, R131). -/
def load (size t a cls : Nat) (off : Int) (n : Nat) (ext : LoadExt) (s : State) : Host.Outcome State Fault Refusal :=
  smith s size .plain fun s c => with1 c a [] t fun c' x =>
    let ea : Word := x + BitVec.ofInt 64 (off * n)
    let (k, acq, _, _) := c.access cls
    match checkAccess s c ea.toNat n needRd with
    | .error e => .halt (.misread 0 n e ea)
    | .ok (sp, p) =>
      let f : Fly := { id := 0, dst := t, cls := k, acq, ea, size := n, ext }
      if (match sp with | .ember o => c.csr.dbgPend && c.pendingByte s.now o n | _ => false) then .halt (.fault 0x0C ea)
      else if c.classStall s.now k then .halt (.stall .classOrder)
      else match sp with
        | .ember o =>
          .done { c'.pushFly f with reads := c'.reads ++ [{ who := .load c'.nextId, off := o, len := n, issue := s.now }] } id
            (fun s => s.fixLoads s.cur c'.nextId)
        | .sram o =>
          let (bs, pois, weak) := c.readSram o n
          if c.readOpen k c.nextId then
            .done { c'.pushFly f with reads := c'.reads ++ [{ who := .load c'.nextId, off := o, len := n, issue := s.now, unit := 1 }] } id
              (fun s => s.fixLoads s.cur c'.nextId)
          else .done (c'.pushFly { f with due := some (s.now + 8), val := extend ext bs, mark := poisonCode pois }) id
            (fun s => (s.fixLoads s.cur c'.nextId).foundErrors s.cur 1 weak pois o)
        | _ =>
          if 17 ≤ c.ld then .halt (.stall (.outstanding 0))
          else .done (c'.pushFly { f with ld := true, arch := false, walk := some (s.now + 1 + s.delay.1),
                                           fwd := c.forwards ea.toNat n, val := BitVec.ofNat 64 p })
            id (fun s => s.delay.2.fixLoads s.cur c'.nextId)

/-- Whether a plain store of a gang member to a line overflows its buffer with fault 0x16 (R259), the lines and the lines spilled standing as
`ls`. -/
def overflowsAt (s : State) (c : Core) (ls : List CLine × Nat) (a prog : Nat) : Bool :=
  let t := c.theTask
  t.gang && needsLine ls.1 c.closes a prog && decide (1024 ≤ ls.1.length) &&
    (!c.csr.spill || decide (((s.hub.card t.card).map spillRoom).getD 0 ≤ t.spillN + ls.2))

def overflows (s : State) (c : Core) (a prog : Nat) : Bool := overflowsAt s c c.linesSoon a prog

/-- Whether a plain store of a task that is not a gang member finds its buffer full (R257). -/
def bufferFull (c : Core) (a prog : Nat) : Bool :=
  let ls := c.linesSoon.1
  !c.theTask.gang && needsLine ls c.closes a prog && decide (1024 ≤ ls.length)

/-- A scalar store (R128 to R130). -/
def store (size t a cls : Nat) (off : Int) (n : Nat) (s : State) : Host.Outcome State Fault Refusal :=
  smith s size .plain fun s c => with2 c a t [] 0 fun c' x v =>
    let ea : Word := x + BitVec.ofInt 64 (off * n)
    let (k, _, rel, scope) := c.access cls
    let bs := leBytes n v.toNat
    let g : GStore := { addr := ea.toNat, data := bs.map some, cls := k, prog := c.nextId,
                        rel := if rel then some scope else none, due := s.now }
    match checkAccess s c ea.toNat n needW with
    | .error e => .halt (.fault e ea)
    | .ok (sp, p) =>
      let plain := match sp with | .glob _ => !rel | _ => false
      if plain && overflows s c ea.toNat c.nextId then .halt (.fault 0x16 ea)
      else if c.classStall s.now k then .halt (.stall .classOrder)
      else if plain && bufferFull c ea.toNat c.nextId then .halt (.stall .commitFull)
      else if plain && 16 ≤ c.st then .halt (.stall (.outstanding 1))
      else
        let c'' := if rel then c'.close else c'
        let g := { g with prog := c''.nextId }
        match sp with
        | .ember o =>
          .done { c'' with
            exposed := c''.exposed ++ [{ id := c''.nextId, t := s.now, off := o, data := bs, cls := k, rel,
                                         pendBit := c.csr.dbgPend }]
            nextId := c''.nextId + 1 } id (fun s => s.fixLoads s.cur c''.nextId)
        | .sram _ => .done { c'' with gst := c''.gst ++ [g], nextId := c''.nextId + 1 } id (fun s => s.fixLoads s.cur c''.nextId)
        | _ =>
          let c'' := (if rel then c''.supersede ea.toNat n else c'').noted 0 ea.toNat p
          .done { c'' with gst := c''.gst ++ [{ g with due := s.now + 1 + s.delay.1 }], nextId := c''.nextId + 1 }
            id (fun s => s.delay.2.fixLoads s.cur c''.nextId)

/-- LD.B (R127). -/
def execLD_B (t a : BitVec 6) (c : BitVec 4) (i : BitVec 6) (s : State) : Host.Outcome State Fault Refusal :=
  load 4 t.toNat a.toNat c.toNat i.toInt 1 .sx s

/-- LD.BU (R127). -/
def execLD_BU (t a : BitVec 6) (c : BitVec 4) (i : BitVec 6) (s : State) : Host.Outcome State Fault Refusal :=
  load 4 t.toNat a.toNat c.toNat i.toInt 1 .zx s

/-- LD.H (R127). -/
def execLD_H (t a : BitVec 6) (c : BitVec 4) (i : BitVec 6) (s : State) : Host.Outcome State Fault Refusal :=
  load 4 t.toNat a.toNat c.toNat i.toInt 2 .sx s

/-- LD.HU (R127). -/
def execLD_HU (t a : BitVec 6) (c : BitVec 4) (i : BitVec 6) (s : State) : Host.Outcome State Fault Refusal :=
  load 4 t.toNat a.toNat c.toNat i.toInt 2 .zx s

/-- LD.W (R127). -/
def execLD_W (t a : BitVec 6) (c : BitVec 4) (i : BitVec 6) (s : State) : Host.Outcome State Fault Refusal :=
  load 4 t.toNat a.toNat c.toNat i.toInt 4 .sx s

/-- LD.WU (R127). -/
def execLD_WU (t a : BitVec 6) (c : BitVec 4) (i : BitVec 6) (s : State) : Host.Outcome State Fault Refusal :=
  load 4 t.toNat a.toNat c.toNat i.toInt 4 .zx s

/-- LD.D (R127). -/
def execLD_D (t a : BitVec 6) (c : BitVec 4) (i : BitVec 6) (s : State) : Host.Outcome State Fault Refusal :=
  load 4 t.toNat a.toNat c.toNat i.toInt 8 .zx s

/-- ST.B (R128). -/
def execST_B (t a : BitVec 6) (c : BitVec 4) (i : BitVec 6) (s : State) : Host.Outcome State Fault Refusal :=
  store 4 t.toNat a.toNat c.toNat i.toInt 1 s

/-- ST.H (R128). -/
def execST_H (t a : BitVec 6) (c : BitVec 4) (i : BitVec 6) (s : State) : Host.Outcome State Fault Refusal :=
  store 4 t.toNat a.toNat c.toNat i.toInt 2 s

/-- ST.W (R128). -/
def execST_W (t a : BitVec 6) (c : BitVec 4) (i : BitVec 6) (s : State) : Host.Outcome State Fault Refusal :=
  store 4 t.toNat a.toNat c.toNat i.toInt 4 s

/-- ST.D (R128). -/
def execST_D (t a : BitVec 6) (c : BitVec 4) (i : BitVec 6) (s : State) : Host.Outcome State Fault Refusal :=
  store 4 t.toNat a.toNat c.toNat i.toInt 8 s

/-- C.LDD: LD.D d, [s(8 + base) + 8 × o] of class 0 (R90). -/
def execC_LDD (d : BitVec 5) (b o : BitVec 3) (s : State) : Host.Outcome State Fault Refusal :=
  load 2 d.toNat (8 + b.toNat) 0 o.toNat 8 .zx s

/-- C.STD: ST.D t, [s(8 + base) + 8 × o] of class 0 (R90). -/
def execC_STD (t : BitVec 5) (b o : BitVec 3) (s : State) : Host.Outcome State Fault Refusal :=
  store 2 t.toNat (8 + b.toNat) 0 o.toNat 8 s

end Sys2Proof.Machine
end

