-- ==== Sys2Proof/Machine/Td.lean ====
section
/-! DEFINITION. The tensor descriptor table, the bound registers and the TD instructions (R343 to R353). -/

namespace Sys2Proof.Machine

/-- The XOR of the 32 bytes of an image but byte 15 (R344). -/
def csumOf (x : BitVec 256) : Nat :=
  (List.range 32).foldl (fun acc i => if i = 15 then acc else acc ^^^ fld x (8 * i) 8) 0

/-- An image with its CSUM computed (R344). -/
def withCsum (x : BitVec 256) : BitVec 256 := setFld x 120 8 (csumOf x)

/-- The image of an entry. -/
def Core.getTd (c : Core) (i : Nat) : BitVec 256 := vget c.td i 0

/-- Write an image to an entry, CSUM recomputed. -/
def Core.setTd (c : Core) (i : Nat) (x : BitVec 256) : Core := { c with td := vput c.td i (withCsum x) }

/-- TDSET (R351). -/
def execTDSET (a b : BitVec 6) (s : State) : Host.Outcome State Fault Refusal :=
  smith s 4 .plain fun _ c => with2 c a.toNat b.toNat [] 0 fun c x y =>
    .ok (c.setTd (fld x 0 6) (setFld (c.getTd (fld x 0 6)) (64 * fld x 6 2) 64 y.toNat))

/-- TDGET (R351). -/
def execTDGET (d a : BitVec 6) (s : State) : Host.Outcome State Fault Refusal :=
  smith s 4 .plain fun s c => with1 c a.toNat [] d.toNat fun c' x =>
    pushed s c' d.toNat (BitVec.ofNat 64 (fld (c.getTd (fld x 0 6)) (64 * fld x 6 2) 64)) 1

/-- The reader's request in progress. -/
def Core.reading (c : Core) (p : Reader → Bool) : Option SRead := c.reads.find? fun r => p r.who

def Reader.isTd : Reader → Bool
  | .tdcopy _ => true
  | _ => false

/-- A position that has waited for data completes in the cycle in which they land, and the next position issues in that same
cycle (R273, R352). -/
def landNow (now : Nat) (c : Core) : Act := .done c (fun c => { c with ready := now }) (fun s => { s with clock := { s.clock with turn := s.cur.val } })

/-- TDCOPY (R352): the first execution requests the image, a later one writes the entry. -/
def execTDCOPY (a b : BitVec 6) (s : State) : Host.Outcome State Fault Refusal :=
  smith s 4 .plain fun s c => with2 c a.toNat b.toNat [] 0 fun c' x y =>
    match c.reading Reader.isTd with
    | some r =>
      if !r.here then .halt (.stall .tdcopy)
      else match r.code with
        | some e => .halt (.fault e y)
        | none => landNow s.now
            { c'.setTd (fld x 0 6) (BitVec.ofNat 256 (leNat r.bytes)) with reads := c'.reads.filter fun r => !r.who.isTd }
    | none =>
      match checkAccess s c y.toNat 32 needRd with
      | .error e => .halt (.misread 0 32 e y)
      | .ok (sp, p) =>
        let ask (r : SRead) (fx : State → State := id) : Act := .wait { c with reads := c.reads ++ [r] } .tdcopy fx
        let r : SRead := { who := .tdcopy (fld x 0 6), off := 0, len := 32, issue := s.now }
        match sp with
        | .ember o =>
          if c.csr.dbgPend && c.pendingByte s.now o 32 then .halt (.fault 0x0C y)
          else if c.classStall s.now 0 then .halt (.stall .classOrder)
          else ask { r with off := o } (fun s => s.fixLoads s.cur c.nextId)
        | .sram o =>
          if c.classStall s.now 0 then .halt (.stall .classOrder)
          else if c.readOpen 0 c.nextId then .halt (.stall .tdcopy)
          else
            let v := c.readSram o 32
            ask { r with off := o, bytes := v.1, code := poisonCode v.2.1, land := some (s.now + 8), unit := 1, weak := v.2.2, pois := v.2.1 }
              (fun s => s.fixLoads s.cur c.nextId)
        | _ =>
          if c.classStall s.now 0 then .halt (.stall .classOrder)
          else if 17 ≤ c.ld then .halt (.stall (.outstanding 0))
          else if c.readOpen 0 c.nextId then .halt (.stall .tdcopy)
          else
            let (bs, pois, weak) := c.readGlobal s.mem y.toNat p 32
            ask { r with off := p, bytes := bs, code := poisonCode pois, unit := 2, weak, pois, land := some (s.now + 1 + s.delay.1) }
              (fun s => (s.delay.2.fixLoads s.cur c.nextId).walked s.cur 0 y.toNat p)

/-- TDCLR (R351). -/
def execTDCLR (a : BitVec 6) (s : State) : Host.Outcome State Fault Refusal :=
  smith s 4 .plain fun _ c => with1 c a.toNat [] 0 fun c x =>
    let f := fld x 0 6
    let n := fld x 6 7
    if 64 < f + n then .halt (.fault 0x15 (BitVec.ofNat 64 f))
    else .ok { c with td := Vector.ofFn fun i => if f ≤ i.val && i.val < f + n then 0 else c.td[i] }

/-- BSET (R351). -/
def execBSET (a b : BitVec 6) (s : State) : Host.Outcome State Fault Refusal :=
  smith s 4 .plain fun _ c => with2 c a.toNat b.toNat [] 0 fun c x y => .ok { c with b := vput c.b (fld x 0 4) y }

/-- BGET (R351). -/
def execBGET (d a : BitVec 6) (s : State) : Host.Outcome State Fault Refusal :=
  smith s 4 .plain fun s c => with1 c a.toNat [] d.toNat fun c' x => pushed s c' d.toNat (vget c.b (fld x 0 4) 0) 1

end Sys2Proof.Machine
end

