-- ==== Sys2Proof/Machine/Emb.lean ====
section
/-! DEFINITION. The instructions of major EMB (R220 to R225). -/

namespace Sys2Proof.Machine

/-- The named row groups of a range (R221). -/
def rangeOf (a b : Word) : List Nat := (List.range (fld b 0 17)).map (fld a 12 16 + ·)

/-- Checks 1 to 3 of R221, and check 4 when `all` is set. -/
def embCheck (c : Core) (a b : Word) (all : Bool) : Option Halt :=
  if a.toNat / 2 ^ 28 != 0xE00000000 then some (.fault 0x09 a)
  else if fld a 0 12 != 0 then some (.fault 0x07 a)
  else if 65536 < fld a 12 16 + fld b 0 17 then some (.fault 0x09 a)
  else if all then
    ((rangeOf a b).find? fun g => (c.ember.row g).isNone).map fun g => .fault 0x09 (BitVec.ofNat 64 (emberWindow + 4096 * g))
  else none

/-- Whether a captured descriptor names the slice of core `l` (R344). A command names no descriptor by the all-zero image. -/
def descTouches (l : CoreId) (td : BitVec 256) : Bool :=
  td != 0 && (fld td 84 2 == 0 || (fld td 84 2 == 1 && fld td 88 6 == l.val))

/-- Whether a command of core `l` accesses its own slice. COPYM writes the slices that its mask names, and accesses nothing with a mask of 0
(R284). -/
def Cmd.touches (cmd : Cmd) (l : CoreId) : Bool :=
  let mask := (cmd.bound.getD 0).toNat
  match cmd.kind with
  | .copym _ => mask != 0 && ((bitsAt mask l.val 1 == 1 && fld cmd.ty 84 2 != 2) || descTouches l cmd.tz)
  | _ => descTouches l cmd.ty || descTouches l cmd.tz || descTouches l cmd.tx

/-- The serialisation of R222. -/
def Core.emberBusy (c : Core) (l : CoreId) : Bool :=
  !c.exposed.isEmpty || c.land.any (·.at_.isSome) || c.eng.toList.any fun x => x.queue.any fun cmd => cmd.touches l

/-- A row group's state set for the whole range (R222, R223). -/
def Slice.each (sl : Slice) (gs : List Nat) (f : Slice → Nat → Slice) : Slice := gs.foldl f sl

/-- The limit in force for a class on a die (R213). -/
def State.limit (s : State) (d : DieId) (cls : Nat) : Nat := (vget s.life.table (8 * (s.die d).band + cls) 0).toNat

/-- The first cycle in which a rewrite that arises now may be presented (R215): the following one; a rewrite behind others
waits for them. -/
def Slice.request (sl : Slice) (now g : Nat) (touch : Bool) : Slice :=
  { sl with queue := sl.queue ++ [{ g, ready := now + 1, touch }] }

/-! ### Age -/

/-- Cause 0x0B enters the expiry queue, or is dropped when it holds 8 events (R195, R214). -/
def Core.expire (c : Core) (g : Nat) : Core :=
  let c := c.count 6 1
  if 8 ≤ c.expiry.length then { c with csr := { c.csr with xovf := true } }.count 7 1
  else { c with expiry := c.expiry ++ [emberWindow + 4096 * g] }

/-- The class action of a row group (R214, R217) at a boundary in cycle `now`. -/
def Core.classAction (c : Core) (now : Nat) (r : Row) : Core :=
  let inval (c : Core) : Core := { c with ember := c.ember.setRow { r with st := .invalid } }
  let mark (c : Core) (k : Nat) : Core := { c with ember := { c.ember with acted := c.ember.acted ++ [(r.g, k)] } }
  if r.cls < 4 then mark ((inval c).count 5 1) 0
  else if r.cls < 6 then mark ((inval c).expire r.g) 1
  else if r.rq then c
  else mark { c with ember := (c.ember.setRow { r with rq := true }).request now r.g false } 2

/-- The expiry queue, `status.XOVF` and the events dropped after the row groups `gs` have expired in turn (R195). -/
def expiryAfter (was : List Nat × Bool) (gs : List Nat) : List Nat × Bool × Nat :=
  let all := was.1 ++ gs.map fun g => emberWindow + 4096 * g
  (all.take 8, was.2 || decide (8 < all.length), all.length - 8)

/-- Take back what the boundary of this cycle did to a row group whose reset falls in the same cycle (R211, step 1 before 3). -/
def Core.undoAction (c : Core) (g : Nat) : Core :=
  let acted := c.ember.acted
  match (acted.find? (·.1 == g)).map (·.2) with
  | none => c
  | some k =>
    let c := { c with ember := { c.ember with acted := c.ember.acted.filter (·.1 != g) } }
    let uncount (c : Core) (i : Nat) : Core := { c with csr := { c.csr with ev := vput c.csr.ev i (vget c.csr.ev i 0 - 1) } }
    if k = 0 then uncount c 5
    else if k = 1 then
      let expired := (acted.filter (·.2 == 1)).map (·.1)
      let (q, full, lost) := expiryAfter c.ember.was expired
      let (q', full', lost') := expiryAfter c.ember.was (expired.filter (· != g))
      let c := (List.range (lost - lost')).foldl (fun c _ => uncount c 7) (uncount c 6)
      { c with expiry := q'.drop (q.length - c.expiry.length), csr := { c.csr with xovf := c.csr.xovf && (full' || !full) } }
    else match c.ember.row g with
      | none => c
      | some r => { c with ember := { c.ember.setRow { r with rq := false } with
                                        queue := c.ember.queue.filter fun q => q.g != g || q.touch } }

/-- Set AGE to 0 (R212), the row group becoming valid. In a boundary cycle the reset comes before the boundary's own steps (R211). -/
def Core.resetAge (c : Core) (now limit g : Nat) : Core :=
  let boundary := c.ember.bound == some now
  let c := if boundary then c.undoAction g else c
  match c.ember.row g with
  | none => c
  | some r =>
    let r := { r with st := .valid, age := if boundary then 1 else 0 }
    let c := { c with ember := c.ember.setRow r }
    if boundary && limit ≤ 1 then c.classAction now r else c

/-! ### EALLOC, EFREE, ETOUCH and ECLASS -/

/-- EALLOC of one row group (R223). -/
def Slice.alloc (cls : Nat) (sl : Slice) (g : Nat) : Slice := (sl.free g).setRow { g, cls }

/-- EALLOC (R223). -/
def execEALLOC (a b : BitVec 6) (s : State) : Host.Outcome State Fault Refusal :=
  smith s 4 .plain fun s c => with2 c a.toNat b.toNat [] 0 fun c' x y =>
    match embCheck c x y false with
    | some h => .halt h
    | none =>
      if c.emberBusy s.cur then .halt (.stall .emberSerial)
      else
        let cls := if fld y 20 1 = 1 then fld y 17 3 else c.theTask.clsDef
        let c' := if c'.ember.bound == some s.now then (rangeOf x y).foldl Core.undoAction c' else c'
        let c' := c'.keepRows (rangeOf x y)
        .ok { c' with ember := c'.ember.each (rangeOf x y) (Slice.alloc cls) }

/-- EFREE (R223). -/
def execEFREE (a b : BitVec 6) (s : State) : Host.Outcome State Fault Refusal :=
  smith s 4 .plain fun s c => with2 c a.toNat b.toNat [] 0 fun c' x y =>
    match embCheck c x y false with
    | some h => .halt h
    | none =>
      if c.emberBusy s.cur then .halt (.stall .emberSerial)
      else
        let c' := c'.keepRows (rangeOf x y)
        .ok { c' with ember := c'.ember.each (rangeOf x y) Slice.free }

/-- ETOUCH of one row group (R224): one that the boundary of this very cycle took is reset before it (R211). -/
def Core.touchAge (now : Nat) (limit : Nat → Nat) (c : Core) (g : Nat) : Core :=
  let taken := c.ember.bound == some now && c.ember.acted.any (·.1 == g)
  match c.ember.row g with
  | none => c
  | some r =>
    if r.st = .valid || taken then
      let c := c.resetAge now (limit r.cls) g
      { c with ember := c.ember.request now g true }
    else c

/-- ETOUCH (R224). -/
def execETOUCH (a b : BitVec 6) (s : State) : Host.Outcome State Fault Refusal :=
  smith s 4 .plain fun s c => with2 c a.toNat b.toNat [] 0 fun c' x y =>
    match embCheck c x y true with
    | some h => .halt h
    | none => .ok ((rangeOf x y).foldl (Core.touchAge s.now (s.limit (dieOf s.cur))) c')

/-- ECLASS of one row group (R223). -/
def Slice.setClass (cls : Nat) (sl : Slice) (g : Nat) : Slice :=
  match sl.row g with
  | some r => sl.setRow { r with cls }
  | none => sl

/-- ECLASS (R223). -/
def execECLASS (a b : BitVec 6) (s : State) : Host.Outcome State Fault Refusal :=
  smith s 4 .plain fun s c => with2 c a.toNat b.toNat [] 0 fun c' x y =>
    match embCheck c x y true with
    | some h => .halt h
    | none =>
      if c.emberBusy s.cur then .halt (.stall .emberSerial)
      else .ok { c' with ember := c'.ember.each (rangeOf x y) (Slice.setClass (fld y 17 3)) }

/-- The image that EAGE pushes (R225). -/
def ageImage (s : State) (d : DieId) (sl : Slice) (g : Nat) : Word :=
  match sl.row g with
  | none => 0
  | some r =>
    let st := match r.st with | .empty => 1 | .valid => 2 | .invalid => 3
    let rq := r.rq || sl.queue.any fun q => q.g == g && q.touch
    BitVec.ofNat 64 (r.age + 2 ^ 8 * r.cls + 2 ^ 11 * st + 2 ^ 13 * r.ltag + 2 ^ 17 * s.limit d r.cls + 2 ^ 25 * ofBool rq)

/-- EAGE (R225): checks 1 and 2 of R221; latency 2. -/
def execEAGE (d a : BitVec 6) (s : State) : Host.Outcome State Fault Refusal :=
  smith s 4 .plain fun s c => with1 c a.toNat [] d.toNat fun c' x =>
    if x.toNat / 2 ^ 28 != 0xE00000000 then .halt (.fault 0x09 x)
    else if fld x 0 12 != 0 then .halt (.fault 0x07 x)
    else pushed s c' d.toNat (ageImage s (dieOf s.cur) c.ember (fld x 12 16)) 2

end Sys2Proof.Machine
end

