-- ==== Sys2Proof/Machine/Engines.lean ====
section
/-! DEFINITION. What the engines share: captured descriptors (R344 to R348), the entry of a command (R264, R265), engine faults (R192,
R280), bits of memory moved between lines, and engine writes with the age rules (R209 to R212, R219). -/

namespace Sys2Proof.Machine

/-! ### Descriptors -/

/-- Offset of element `i` in its row, in bits (R345), before the swizzle. -/
def Desc.offBits (d : Desc) (i : Nat) : Nat :=
  let w := bitsOf d.fmt
  if w < 8 then i * w else if d.s0 != 0 then 8 * (i * d.s0) else i * w

/-- Addr(i, j) of R345 as a bit address. -/
def Desc.addr (d : Desc) (i j : Nat) : Nat :=
  let o := d.offBits i
  let o := if d.layout = 1 then 8 * ((o / 8) ^^^ (j % 8 * 16)) + o % 8 else o
  8 * (d.base + j * d.s1) + o

/-- Bytes in the space that SPACE names. -/
def Desc.size (d : Desc) : Nat := if d.space < 2 then 2 ^ 28 else if d.space = 2 then 2 ^ 27 else 2 ^ 48

/-- The first byte past every element, where Addr places them (R346). -/
def Desc.limit (d : Desc) : Nat :=
  let w := bitsOf d.fmt
  let last (o : Nat) : Nat := (8 * o + (if w < 8 then (d.d0 - 1) * w % 8 + w else w) + 7) / 8
  if d.layout = 1 then
    ((List.range (min 8 d.d1)).map fun m =>
      let j := (d.d1 - 1 - m) / 8 * 8 + m
      let o := ((List.range d.d0).map fun i => (d.offBits i / 8) ^^^ (m * 16)).foldl max 0
      d.base + j * d.s1 + last o).foldl max 0
  else d.base + (d.d1 - 1) * d.s1 + last (d.offBits (d.d0 - 1) / 8)

/-- A captured image that is invalid (R346). -/
def imageBad (x : BitVec 256) : Bool :=
  let d := desc x
  let w := bitsOf d.fmt
  let ebx := d.fmt == 11
  fld x 120 8 != csumOf x || fld x 107 13 != 0 || decide (2 ≤ d.layout) || d.d0 == 0 || d.d1 == 0 ||
  (!ebx && decide (w < 8) && d.s0 != 0) || (!ebx && d.layout == 1 && (decide (w < 8) || d.s1 % 128 != 0)) ||
  (if ebx then decide (0xA < d.pfmt) else d.pfmt != 0) || decide (d.size ≤ d.base) || (!ebx && decide (d.size < d.limit))

/-- Where the tensor of a descriptor lies, for a command of core `l`. -/
def Desc.place (d : Desc) (l : CoreId) : Place :=
  match d.space with
  | 0 => .ember l | 1 => .ember (Fin.ofNat 64 d.core) | 2 => .sram l | _ => .glob

/-- Own Ember, also when SPACE is 1 and CORE is the issuing core (R347). -/
def Desc.own (d : Desc) (l : CoreId) : Bool := d.space == 0 || (d.space == 1 && d.core == l.val)

/-- A byte address of a place as a fault reports it (R190): an address of the window for Ember and operand SRAM. -/
def Place.tval (p : Place) (a : Nat) : Word :=
  match p with
  | .ember _ => BitVec.ofNat 64 (emberWindow + a)
  | .sram _ => BitVec.ofNat 64 (sramWindow + a)
  | .glob => BitVec.ofNat 64 a

/-! ### Entry of a command -/

/-- A failed check at issue: fault 0x15 with a descriptor number (R279). -/
def badTd {α : Type} (n : Nat) : Except Halt α := .error (.fault 0x15 (BitVec.ofNat 64 n))

/-- Anvil commands that write no memory, on which a release has no effect (R311). -/
def Cmd.storeless (cmd : Cmd) : Bool := match cmd.kind with | .mma .. | .mzero .. | .mload .. => true | _ => false

/-- The entry of a command into its queue (R264, R265): class and flags of the prefix, program order, counters, the binding of
its feed (R275), and the lines that a release closes (R256). -/
def enter (e : EngId) (s : State) (c : Core) (cmd : Cmd) : Act :=
  let x := c.getE e
  if 32 ≤ x.queue.length then .halt (.stall .queueFull)
  else
    let (k, acq, rel, scope) := c.access 0
    let rel := rel && !cmd.storeless
    let c := if rel then c.close else c
    let cmd := { cmd with cls := k, acq, rel, scope, prog := c.nextId, entry := s.now }
    let c := { c.setE e { x with queue := x.queue ++ [cmd], iss := x.iss + 1 } with nextId := c.nextId + 1 }
    .done c id fun s => match cmd.feed with
      | none => s
      | some (k, n) => s.modCore k fun c =>
          let f := vget c.feeds n {}
          { c with feeds := vput c.feeds n (if k = s.cur then { f with pb := f.pb + 1 } else { f with soon := f.soon ++ [s.now + 1] }) }

/-- Fault 0x15 at a descriptor whose CSUM has failed is that of an upset, which counts and is logged (R346, R416; log 132). -/
def Core.spotted (c : Core) (h : Halt) : Halt :=
  match h with
  | .fault code n none => if code = 0x15 && fld (c.getTd n.toNat) 120 8 != csumOf (c.getTd n.toNat) then .struck n else h
  | _ => h

/-- A command instruction: its checks at issue give the command or a fault. -/
def command (e : EngId) (check : State → Core → Except Halt Cmd) (s : State) : Host.Outcome State Fault Refusal :=
  smith s 4 .plain fun s c => match check s c with
    | .error h => .halt (c.spotted h)
    | .ok cmd => enter e s c cmd

/-- Require a condition, else fault 0x15 at descriptor `n`. -/
def need (n : Nat) (b : Bool) : Except Halt Unit := if b then .ok () else badTd n

/-! ### Faults of engines -/

/-- The engine freezes on a fault of its head command (R192). Of Anvil's fills only the head command's stays, for `mxst` (R312). -/
def State.engFault (s : State) (l : CoreId) (e : EngId) (f : Byte × Word) : State :=
  (if e.val = 2 then s.releaseMma l else s).modCore l fun c =>
    let x := c.getE e
    let c := c.setE e { x.rewound with frozen := true, cause := some f }
    if e.val = 2 then { c with fills := c.fills.filter fun k => some k.prog == x.queue.head?.map (·.prog) } else c

/-- The place of a fault in the order of R280. -/
def faultRank (code : Byte) : Nat :=
  match code.toNat with
  | 0x08 => 1 | 0x09 => 2 | 0x0A => 3 | 0x1A => 4 | 0x13 => 5 | 0x14 => 6 | _ => 7

/-- The first fault of a list in the order of R280. -/
def firstByRank : List (Byte × Word) → Option (Byte × Word)
  | [] => none
  | f :: t => match firstByRank t with
    | none => some f
    | some g => if faultRank g.1 < faultRank f.1 then some g else some f

/-! ### Lines -/

def lineOf (byte : Nat) : Nat := byte / 64 * 64

/-- The lines that hold bits `[b, b + w)`. -/
def linesOfBits (b w : Nat) : List Nat :=
  if w = 0 then [] else (List.range ((b + w - 1) / 512 - b / 512 + 1)).map fun i => (b / 512 + i) * 64

/-- Distinct elements in order of first occurrence. -/
def dedup {α : Type} [BEq α] (l : List α) : List α :=
  (l.foldl (fun acc x => if acc.contains x then acc else x :: acc) []).reverse

/-- A line among those read. -/
def findLine (got : List Line) (p : Place) (a : Nat) : Option Line := got.find? fun l => l.place == p && l.addr == a

/-- Whether a line has landed by the start of cycle `now`. -/
def Line.landed (l : Line) (now : Nat) : Bool := match l.due with | none => false | some d => decide (d ≤ now)

/-- Whether every line of bits `[b, b + w)` has landed. -/
def bitsLanded (got : List Line) (now : Nat) (p : Place) (b w : Nat) : Bool :=
  (linesOfBits b w).all fun a => match findLine got p a with | none => false | some l => l.landed now

/-- Bits `[b, b + w)` of the lines read, as a number. -/
def bitsRead (got : List Line) (p : Place) (b w : Nat) : Nat :=
  let ls := linesOfBits b w
  let n := (ls.map fun a => ((findLine got p a).map fun l => leNat l.bytes).getD 0).foldr (fun x acc => x + 2 ^ 512 * acc) 0
  bitsAt n (b - 512 * (b / 512)) w

/-- The faults that the use of bits `[b, b + w)` meets (R190, R210, R219, R348); `td` is the descriptor number and its image when
layout tags are checked. -/
def bitsFaults (got : List Line) (p : Place) (b w : Nat) (check : Option (Nat × Desc)) : List (Byte × Word) :=
  (linesOfBits b w).flatMap fun a =>
    let lo := max (b / 8) a
    let hi := min ((b + w - 1) / 8) (a + 63)
    match findLine got p a with
    | none => []
    | some l =>
      (match l.bad with | some code => [(code, p.tval lo)] | none => []) ++
      (match l.pois.find? fun x => x < hi + 1 && lo < x + 8 with | some x => [(0x1A, p.tval x)] | none => []) ++
      (match check, l.tag with
        | some (n, d), some (t, k) => if t != d.ltag || k != d.cls then [(0x15, BitVec.ofNat 64 n)] else []
        | _, _ => [])

/-- What a read of a whole line of a slice finds (R204, R210): for a command of core `l` with its `asid`. -/
def State.readLine (s : State) (l : CoreId) (p : Place) (a : Nat) (due : Nat) : Line :=
  match p with
  | .ember k =>
    let c := s.core k
    let sl := c.ember
    match sl.rowAt a with
    | none => { place := p, addr := a, bytes := List.replicate 64 0, due := some due, bad := some 0x09 }
    | some r =>
      let far := k != l && c.theTask.asid != (s.core l).theTask.asid
      let bad : Option Byte := if far then some 0x09 else if r.st = .invalid then some 0x0A else none
      let pois := if r.st = .valid then (sl.pois.filter fun w => 8 * w / 64 * 64 = a).map (8 * ·) else []
      { place := p, addr := a, bytes := sl.bytes a 64, due := some due, bad, pois, tag := if r.st = .valid then some (r.ltag, r.cls) else none }
  | .sram k =>
    let m := (s.core k).sram
    { place := p, addr := a, bytes := m.read a 64, due := some due, pois := (m.pois.filter fun w => 8 * w / 64 * 64 = a).map (8 * ·) }
  | .glob =>
    match translate s.mem (s.core l).theTask a needRd with
    | none => { place := p, addr := a, bytes := List.replicate 64 0, due := some due, bad := some 0x09 }
    | some x => { place := p, addr := a, bytes := s.mem.read x 64, due := some due,
                  pois := (s.mem.pois.filter fun w => 8 * w / 64 = x / 64).map fun w => a + (8 * w - x) }

/-- Corrected and poisoned words of a line, as they are counted and logged, of HBM at its physical address (R391, R416, R417). -/
def State.countLine (s : State) (l : CoreId) (ln : Line) : State :=
  match ln.place with
  | .ember k => s.foundAt l k 0 ((s.core k).ember.errors [(ln.addr, 64)]).2 ln.pois.length ln.addr
  | .sram k => s.foundAt l k 1 ((s.core k).sram.weakIn ln.addr 64) ln.pois.length ln.addr
  | .glob => match translate s.mem (s.core l).theTask ln.addr needRd with
    | none => s
    | some x => s.foundErrors l 2 (s.mem.weakIn x 64) ln.pois.length x

/-! ### Writes -/

/-- One field to be written: its bit address, width and value. -/
abbrev Field := Nat × Nat × Nat

/-- The bytes of the unit of `n` bytes at `base` after some fields are put in; bytes that no field touches are not written, and a byte
touched in part keeps its other bits (R282). -/
def unitWrite (base n : Nat) (fields : List Field) (cur : Nat → Byte) : List (Option Byte) :=
  let (mask, val) := fields.foldl (fun (acc : Nat × Nat) f =>
    let (b, w, v) := f
    let lo := max b (8 * base)
    let hi := min (b + w) (8 * (base + n))
    if hi ≤ lo then acc
    else
      let p := lo - 8 * base
      let len := hi - lo
      (setBits acc.1 p len (2 ^ len - 1), setBits acc.2 p len (v / 2 ^ (lo - b)))) (0, 0)
  (List.range n).map fun i =>
    let m := bitsAt mask (8 * i) 8
    if m = 0 then none
    else some (BitVec.ofNat 8 ((cur (base + i)).toNat &&& (255 - m) ||| bitsAt val (8 * i) 8))

/-- The byte an engine write merges with. -/
def State.curByte (s : State) (l : CoreId) (p : Place) (a : Nat) : Byte :=
  match p with
  | .ember k => (s.core k).ember.byte a
  | .sram k => (s.core k).sram.get a
  | .glob => match translate s.mem (s.core l).theTask a needW with | none => 0 | some x => s.mem.get x

/-- The fault of an engine write at a place (R210, R280), before it is made. -/
def State.writeFault (s : State) (l : CoreId) (p : Place) (a : Nat) : Option (Byte × Word) :=
  match p with
  | .ember k =>
    let c := s.core k
    if (c.ember.rowAt a).isNone || (k != l && c.theTask.asid != (s.core l).theTask.asid) then some (0x09, p.tval a) else none
  | .sram _ => none
  | .glob => if (translate s.mem (s.core l).theTask a needW).isNone then some (0x09, p.tval a) else none

/-- Write bytes with a mask at a place, for a command of core `l`. -/
def State.putBytes (s : State) (l : CoreId) (p : Place) (a : Nat) (bs : List (Option Byte)) : State :=
  match p with
  | .ember k => s.modCore k fun c => { c.unkeep a bs with ember := c.ember.write a bs }
  | .sram k => s.modCore k fun c => { c with sram := c.sram.writeMask a bs }
  | .glob => s.writeProgram (s.core l).theTask a bs

/-! ### Lines of Tongs -/

/-- A Tongs command has written the line at `a` of core `k`'s slice: the tag of R219, and the age when it is the row group's 64th
line (R212). `full` is the command's record. -/
def State.coverLine (s : State) (k : CoreId) (a ltag : Nat) (full : List (Nat × Nat × Nat)) : State × List (Nat × Nat × Nat) :=
  let g := a / 4096
  let bit := 2 ^ (a / 64 % 64)
  let old := ((full.find? fun x => x.1 == k.val && x.2.1 == g).map (·.2.2)).getD 0
  let new := old ||| bit
  let s := s.modCore k fun c => match c.ember.row g with
    | none => c
    | some r => { c with ember := c.ember.setRow { r with ltag } }
  let s := if new = 2 ^ 64 - 1 && old != new then
      let cls := ((s.core k).ember.row g).map (·.cls) |>.getD 0
      s.modCore k fun c => c.resetAge s.now (s.limit (dieOf k) cls) g
    else s
  (s, (k.val, g, new) :: full.filter fun x => !(x.1 == k.val && x.2.1 == g))

/-- Whether an engine may make progress on its head command. -/
def Eng.active (x : Eng) : Bool := x.head.isSome && !x.frozen && !x.stop && !x.queue.isEmpty

/-- The first byte of a list of global byte addresses outside the leases (R239). -/
def Task.unleased (t : Task) (need : Nat) (bytes : List Nat) : Option Nat := bytes.find? fun a => !t.leased a need

/-- The byte addresses of bits `[b, b + w)`. -/
def bytesOfBits (b w : Nat) : List Nat :=
  if w = 0 then [] else (List.range ((b + w - 1) / 8 - b / 8 + 1)).map (b / 8 + ·)

end Sys2Proof.Machine
end

