-- ==== Sys2Proof/Machine/Crucible.lean ====
section
/-! DEFINITION. What Crucible expands: group-quantised and codebook elements (R53 to R56), structured-sparse lines (R301), EBX blocks
(R57 to R60, R304), and the source lists of R303. -/

namespace Sys2Proof.Machine

/-! ### Values -/

/-- Conversion of a value to a format in RNE (R62 to R64). -/
def convertV (dst : Nat) (v : Val) : Nat :=
  if dst == 15 then ofBool !v.isZero
  else if isFlt dst then roundV dst v .rne
  else wrapTo (bitsOf dst) (toIntClamp (intMin dst) (intMax dst) v .rne)

/-- Quantise (R55): scale `c` is an FP16 encoding. -/
def quantise (v : Val) (c z b : Nat) : Nat :=
  match v, fltVal 3 c with
  | .nan, _ => z
  | _, .nan => z
  | _, .inf _ => z
  | .inf s, .fin t m _ => if m = 0 then z else if s == t then 2 ^ b - 1 else 0
  | .fin s m e, .fin t n k =>
    if n = 0 then z
    else
      let (num, den) := if k ≤ e then (m * 2 ^ (e - k).toNat, n) else (m, n * 2 ^ (k - e).toNat)
      (clampInt 0 (2 ^ b - 1 : Nat) (roundIntQ (s != t) num den .rne + z)).toNat

def isAq (fmt : Nat) : Bool := fmt == 8 || fmt == 9

/-- Elements that share a group of an AQ row or a block of a CB3 row (R54, R56); 256 for GRP = 3 of an EBX source of COPYX (log 113). -/
def Desc.span (d : Desc) (fmt : Nat) : Nat := if isAq fmt then 32 * 2 ^ d.grp else 128

/-- The number of the group or table of element (i, j) (R53, R56). -/
def Desc.metaIdx (d : Desc) (fmt i j : Nat) : Nat := j * ceilDiv d.d0 (d.span fmt) + i / d.span fmt

/-- Where the metadata of number `idx` stands, as bit addresses with widths: scale and zero point, or the table; `base` is BASE, or 0 for
an MMA B operand (R300). -/
def Desc.metaBits (d : Desc) (fmt base idx : Nat) : List (Nat × Nat) :=
  match fmt with
  | 8 => [(8 * (base + d.scale) + 16 * idx, 16), (8 * (base + d.zero) + 8 * idx, 8)]
  | 9 => [(8 * (base + d.scale) + 16 * idx, 16), (8 * (base + d.zero) + 4 * idx, 4)]
  | 10 => [(8 * (base + d.zero) + 128 * idx, 128)]
  | _ => []

/-- A reader of bits: bit address and width. -/
abbrev Rd := Nat → Nat → Nat

/-- The exact value of element (i, j) whose stored field is `q` (R53, R56). A zero of AQ has the sign of its scale (log 114). -/
def Desc.expand (d : Desc) (fmt base : Nat) (rd : Rd) (q i j : Nat) : Val :=
  match d.metaBits fmt base (d.metaIdx fmt i j) with
  | [(a, _), (b, n)] => (fltVal 3 (rd a 16)).mul (Val.ofInt ((q : Int) - rd b n))
  | [(a, _)] => fltVal 2 (rd (a + 16 * q) 16)
  | _ => valOf fmt q

/-- The natural format of an expanded element and its encoding in it (R283). -/
def Desc.natural (d : Desc) (fmt base : Nat) (rd : Rd) (q i j : Nat) : Nat × Nat :=
  match d.metaBits fmt base (d.metaIdx fmt i j) with
  | [_, _] => (1, roundV 1 (d.expand fmt base rd q i j) .rne)
  | [(a, _)] => (2, rd (a + 16 * q) 16)
  | _ => if fmt = 7 then (6, wrapTo 8 (signed 4 q)) else (fmt, q)

/-! ### Structured-sparse lines (R301) -/

/-- Logical elements of a line. -/
def sparsePer (fmt : Nat) : Nat := if bitsOf fmt = 16 then 112 else 192

/-- Position of value `j` of a line, given as a number. -/
def sparsePos (line j : Nat) : Nat := bitsAt line (2 * j) 2

/-- A malformed line. -/
def sparseBad (fmt line : Nat) : Bool :=
  (if bitsOf fmt = 16 then bitsAt line 112 16 != 0 else bitsAt line 192 64 != 0) ||
  (List.range (if bitsOf fmt = 16 then 28 else 48)).any fun g => sparsePos line (2 * g + 1) ≤ sparsePos line (2 * g)

/-- Bits of a line's header, and the bit of a line at which value `j` stands. -/
def sparseHead (fmt : Nat) : Nat := if bitsOf fmt = 16 then 128 else 256
def sparseVal (fmt j : Nat) : Nat := sparseHead fmt + bitsOf fmt * j

/-- The encoding of logical element `e` of a line, where a value stands. -/
def sparseOpt (fmt line e : Nat) : Option Nat :=
  let val (j : Nat) : Nat := bitsAt line (sparseVal fmt j) (bitsOf fmt)
  if sparsePos line (2 * (e / 4)) = e % 4 then some (val (2 * (e / 4)))
  else if sparsePos line (2 * (e / 4) + 1) = e % 4 then some (val (2 * (e / 4) + 1))
  else none

/-- The encoding of logical element `e` of a line; 0 where no value stands. -/
def sparseAt (fmt line e : Nat) : Nat := (sparseOpt fmt line e).getD 0

/-- The bits of a line at bit `a` that its elements below `n` use: the header, and their values. -/
def sparseUsed (fmt a line n : Nat) : List (Nat × Nat) :=
  (a, sparseHead fmt) :: ((List.range (if bitsOf fmt = 16 then 56 else 96)).filter fun j => 4 * (j / 2) + sparsePos line j < n).map fun j =>
    (a + sparseVal fmt j, bitsOf fmt)

/-! ### Source lists (R303) -/

/-- Elements of a row that lie one behind the other. -/
def Desc.packed (d : Desc) : Bool := d.layout == 0 && (decide (bitsOf d.fmt < 8) || d.s0 == 0 || d.s0 * 8 == bitsOf d.fmt)

/-- The bits of elements (i, j) to (i + n - 1, j). -/
def Desc.rowBits (d : Desc) (i n j : Nat) : List (Nat × Nat) :=
  let w := bitsOf d.fmt
  if n = 0 then [] else if d.packed then [(d.addr i j, n * w)] else (List.range n).map fun k => (d.addr (i + k) j, w)

/-- The sparse lines of logical elements i to i + n - 1 of row j. -/
def Desc.sparseBits (d : Desc) (i n j : Nat) : List (Nat × Nat) :=
  let per := sparsePer d.fmt
  if n = 0 then [] else (List.range ((i + n - 1) / per - i / per + 1)).map fun k => (d.addr 0 j + 1024 * (i / per + k), 1024)

/-- The stages of the source list for a part of one row: within a stage lines stand in ascending address. -/
def Desc.rowStages (d : Desc) (sparse : Bool) (i n j : Nat) : List (List (Nat × Nat)) :=
  if n = 0 then []
  else if isAq d.fmt || d.fmt == 10 then
    let sp := d.span d.fmt
    (List.range ((i + n - 1) / sp - i / sp + 1)).flatMap fun g =>
      let k := i / sp + g
      let lo := max i (k * sp)
      let hi := min (i + n) ((k + 1) * sp)
      (d.metaBits d.fmt d.base (d.metaIdx d.fmt lo j)).map (fun x => [x]) ++ [if sparse then d.sparseBits lo (hi - lo) j else d.rowBits lo (hi - lo) j]
  else if sparse then [d.sparseBits i n j]
  else [d.rowBits i n j]

/-- The stages of elements (i0, j0) to (i0 + n - 1, j0 + m - 1). -/
def Desc.stages (d : Desc) (sparse : Bool) (i0 n j0 m : Nat) : List (List (Nat × Nat)) :=
  (List.range m).flatMap fun j => d.rowStages sparse i0 n (j0 + j)

/-- The stages of an AQ B operand's metadata for its first `n` columns and `k` rows (R300, R303). -/
def Desc.bStages (d : Desc) (n k : Nat) : List (List (Nat × Nat)) :=
  if !isAq d.fmt then []
  else
    let sp := d.span d.fmt
    let idxs := (List.range k).flatMap fun r => (List.range (ceilDiv (min n d.d0) sp)).map fun g => r * ceilDiv d.d0 sp + g
    [idxs.filterMap fun x => (d.metaBits d.fmt 0 x)[0]?, idxs.filterMap fun x => (d.metaBits d.fmt 0 x)[1]?]

/-- Each distinct line once, at its first place. -/
def stageLines (st : List (List (Nat × Nat))) : List Nat :=
  dedup (st.flatMap fun x => sortBy id (x.flatMap fun r => linesOfBits r.1 r.2))

/-! ### EBX blocks -/

/-- CRC-32C (R60). -/
def crcShift (c : Nat) : Nat → Nat
  | 0 => c
  | n + 1 => crcShift (if c % 2 = 1 then (c / 2) ^^^ 0x82F63B78 else c / 2) n

def crc32c (bs : List Byte) : Nat := (bs.foldl (fun c b => crcShift (c ^^^ b.toNat) 8) 0xFFFFFFFF) ^^^ 0xFFFFFFFF

def ebxLen (h : Nat) : Nat := bitsAt h 0 24
def ebxCnt (h : Nat) : Nat := bitsAt h 24 20
def ebxFmt (h : Nat) : Nat := bitsAt h 44 4
def ebxCrc (h : Nat) : Nat := bitsAt h 192 32
def ebxClen (h s : Nat) : Nat := bitsAt h (64 + 4 * s) 4

/-- A malformed header (R57). -/
def ebxHeadBad (h pfmt : Nat) : Bool :=
  bitsAt h 224 32 != 0 || bitsAt h 48 16 != 0 || decide (0xA < ebxFmt h) || ebxCnt h == 0 || decide (ebxLen h < 33) || ebxFmt h != pfmt

/-- A code that R58 refuses. -/
def ebxCodeBad (h : Nat) : Bool :=
  decide (2 ^ 15 < ((List.range 32).map fun s => if ebxClen h s = 0 then 0 else 2 ^ (15 - ebxClen h s)).sum) || ebxClen h 31 == 0

/-- BuildCode (R58): symbol, length and code of each symbol present. -/
def ebxCode (h : Nat) : List (Nat × Nat × Nat) :=
  ((List.range 15).foldl (fun (acc : List (Nat × Nat × Nat) × Nat) k =>
    let r := (List.range 32).foldl (fun (a : List (Nat × Nat × Nat) × Nat) s =>
      if ebxClen h s = k + 1 then ((s, k + 1, a.2) :: a.1, a.2 + 1) else a) acc
    (r.1, r.2 * 2)) ([], 0)).1

/-- Bytes of a block's output (R59). -/
def ebxOut (h : Nat) : Nat := ceilDiv (ebxCnt h * bitsOf (ebxFmt h)) 8

/-- Offset of the block after the one at offset `o` (R57). -/
def ebxNext (o h : Nat) : Nat := ceilDiv (o + ebxLen h) 32 * 32

/-- What an EBX stream is read from. -/
structure EbxIn where
  d     : Desc
  place : Place
  check : Option (Nat × Desc)      -- layout tags under `dbg.LCHK`
  task  : Option Task              -- whose leases a stream in global space is held to
  got   : List Line
  peek  : Nat → Line               -- a line as it is stored now
  now   : Nat
  ranked : Bool                    -- faults in the order of R280, else in list order (R306)

def EbxIn.rd (x : EbxIn) : Rd := bitsRead x.got x.place
/-- Header of the block at an offset. -/
def EbxIn.head (x : EbxIn) (o : Nat) : Nat := x.rd (8 * (x.d.base + o)) 256
def EbxIn.landed (x : EbxIn) (b w : Nat) : Bool := bitsLanded x.got x.now x.place b w
/-- A fault of the block at an offset. -/
def EbxIn.fault (x : EbxIn) (code : Byte) (o : Nat) : Byte × Word := (code, x.place.tval (x.d.base + o))
/-- The faults that bits meet, with those of the stream among `own` that are found with them. The blocks of a stream in global space are held to
the leases at the head, and again as they are read. -/
def EbxIn.faults (x : EbxIn) (b w : Nat) (own : List (Bool × (Byte × Word))) : List (Byte × Word) :=
  ((x.task.bind fun t => t.unleased needRd (bytesOfBits b w)).map fun a => ((0x08 : Byte), BitVec.ofNat 64 a)).toList ++
    bitsFaults x.got x.place b w x.check ++ (own.filter (·.1)).map (·.2)

/-- The fault taken before a block's checks. By R280 a layout tag comes after every fault of the stream: it is left for them. -/
def EbxIn.first (x : EbxIn) (b w : Nat) (own : List (Bool × (Byte × Word))) : Option (Byte × Word) :=
  let fs := x.faults b w own
  if x.ranked then firstByRank (fs.filter fun f => faultRank f.1 < 7) else fs.head?

/-- The fault taken at a block's checks. -/
def EbxIn.last (x : EbxIn) (b w : Nat) (own : List (Bool × (Byte × Word))) : Option (Byte × Word) :=
  let fs := x.faults b w own
  if x.ranked then firstByRank fs else fs.head?
/-- Elements of the tensor. -/
def EbxIn.total (x : EbxIn) : Nat := x.d.d0 * x.d.d1

/-- The metadata lines of the elements e to e + n - 1 of an AQ or CB3 payload (R59; log 30). -/
def EbxIn.extra (x : EbxIn) (e n : Nat) : List (Nat × Nat) :=
  if !(isAq x.d.pfmt || x.d.pfmt == 10) then []
  else (dedup ((List.range n).map fun k => x.d.metaIdx x.d.pfmt ((e + k) % x.d.d0) ((e + k) / x.d.d0))).flatMap fun i =>
    x.d.metaBits x.d.pfmt x.d.base i

/-- The lines asked for so far (R304): of the block at `o` whose first element is `e`, and of those after it. -/
def EbxIn.lines (x : EbxIn) (withMeta : Bool) : (fuel o e : Nat) → List Nat
  | 0, _, _ => []
  | fuel + 1, o, e =>
    let a := 8 * (x.d.base + o)
    let heads := linesOfBits a 256
    if !x.landed a 256 || (x.first a 256 []).isSome then heads
    else
      let h := x.head o
      let own := heads ++ linesOfBits a (8 * ebxLen h)
      let extra := if withMeta then (x.extra e (min (ebxCnt h) (x.total - e))).flatMap fun m => linesOfBits m.1 m.2 else []
      if e + ebxCnt h < x.total then
        let rest := EbxIn.lines x withMeta fuel (ebxNext o h) (e + ebxCnt h)
        own ++ rest ++ extra
      else own ++ extra

/-- Every line asked for so far, once. -/
def EbxIn.list (x : EbxIn) (withMeta : Bool) : List Nat := dedup (x.lines withMeta (x.got.length + 1) 0 0)

/-- A cycle of EBX_BLOCK_BUILD (R304): the checks of the first build cycle, or the end of the second. -/
def Ebx.build (b : Ebx) (x : EbxIn) : Except (Byte × Word) Ebx :=
  match b.stage with
  | .header =>
    let h := x.head b.block
    let bad := ebxHeadBad h x.d.pfmt || ebxCodeBad h || decide (4096 < ebxOut h) || decide (x.total < b.elems + ebxCnt h)
    match x.first (8 * (x.d.base + b.block)) 256 [(bad, x.fault 0x13 b.block)] with
    | some f => .error f
    | none => .ok { b with stage := .build, turn := some x.now }
  | _ => .ok { b with stage := .decode 256 0, out := [], turn := some x.now }

/-- The next symbol at a bit of the block, given the code. -/
inductive EbxSym where
  | wait | bad | sym (s bits raw : Nat)
  deriving DecidableEq, Repr

/-- The number that the first `n` bits from bit `b` form, the first being the most significant. -/
def codeBits (rd : Rd) (b : Nat) : Nat → Nat
  | 0 => 0
  | n + 1 => 2 * codeBits rd b n + rd (b + n) 1

/-- Raw bits that follow a symbol (R59). -/
def rawBits (s : Nat) : Nat := if s < 16 then 4 else if s < 30 then 12 else if s = 30 then 20 else 0

/-- ReadSymbol at bit `bit` of the block at offset `o` (R59, R304). -/
def EbxIn.symbol (x : EbxIn) (o bit : Nat) : EbxSym :=
  let h := x.head o
  let a := 8 * (x.d.base + o)
  let stop := 8 * ebxLen h
  let avail := ((List.range 35).takeWhile fun k => bit + k < stop && x.landed (a + bit + k) 1).length
  let more : EbxSym := if bit + avail = stop then .bad else .wait
  match (List.range 15).findSome? fun k =>
      if k + 1 ≤ avail then (ebxCode h).find? fun c => c.2.1 == k + 1 && c.2.2 == codeBits x.rd (a + bit) (k + 1) else none with
  | some (s, n, _) => if n + rawBits s ≤ avail then .sym s (n + rawBits s) (x.rd (a + bit + n) (rawBits s)) else more
  | none => if 15 ≤ avail then .bad else more

/-- `n` bytes copied from distance `d` (R59). -/
def copyBack (out : List Byte) (d : Nat) : Nat → List Byte
  | 0 => out
  | n + 1 => copyBack (out ++ [out.getD (out.length - d) 0]) d n

/-- Decoding for a number of units (R304). -/
def Ebx.decode (x : EbxIn) : (fuel units : Nat) → Ebx → Except (Byte × Word) Ebx
  | 0, _, b => .ok b
  | fuel + 1, units, b =>
    match b.stage with
    | .decode bit debt =>
      if units = 0 then .ok b
      else if debt != 0 then
        let k := min units debt
        Ebx.decode x fuel (units - k) { b with stage := .decode bit (debt - k) }
      else match x.symbol b.block bit with
        | .wait => .ok b
        | .bad => .error (x.fault 0x13 b.block)
        | .sym s n raw =>
          match x.first (8 * (x.d.base + b.block) + bit) n [] with
          | some f => .error f
          | none =>
            if s < 16 then
              Ebx.decode x fuel (units - 1) { b with stage := .decode (bit + n) 0, out := b.out ++ [BitVec.ofNat 8 (16 * s + raw)] }
            else if s < 31 then
              let len := if s < 30 then s - 13 else 17 + raw % 256
              let d := (if s < 30 then raw else raw / 256) + 1
              if b.out.length < d then .error (x.fault 0x13 b.block)
              else Ebx.decode x fuel units { b with stage := .decode (bit + n) (ceilDiv len 16), out := copyBack b.out d len }
            else .ok { b with stage := .check }
    | _ => .ok b

/-- A cycle of EBX_BLOCK_DECODE: four units. -/
def Ebx.decodeCycle (b : Ebx) (x : EbxIn) : Except (Byte × Word) Ebx :=
  match Ebx.decode x 16 4 b with
  | .error f => .error f
  | .ok b => .ok { b with turn := some x.now }

/-- The bytes of a block that its CRC covers (R60). -/
def EbxIn.covered (x : EbxIn) (o : Nat) : List Byte :=
  let h := x.head o
  let all := leBytes (ebxLen h) (x.rd (8 * (x.d.base + o)) (8 * ebxLen h))
  all.take 24 ++ all.drop 28

/-- The stream with every line of some bits: those that have not landed yet as they are stored now. -/
def EbxIn.stored (x : EbxIn) (b w : Nat) : EbxIn :=
  let missing := (linesOfBits b w).filter fun a => !((findLine x.got x.place a).any (·.landed x.now))
  { x with got := missing.map x.peek ++ x.got }

/-- EBX_BLOCK_CHECK (R304), in the cycle after the end symbol even where bytes behind it have not landed (log 30): the length, then the CRC;
the block's output joins the stream. -/
def Ebx.check (b : Ebx) (x : EbxIn) : Except (Byte × Word) Ebx :=
  let h := x.head b.block
  let a := 8 * (x.d.base + b.block)
  let y := x.stored a (8 * ebxLen h)
  let short := (b.out.length != ebxOut h, x.fault 0x13 b.block)
  let torn := (crc32c (y.covered b.block) != ebxCrc h, x.fault 0x14 b.block)
  match (if !x.ranked && short.1 then some short.2 else y.last a (8 * ebxLen h) [short, torn]) with
  | some f => .error f
  | none =>
    let elems := b.elems + ebxCnt h
    .ok { b with
      block := ebxNext b.block h, stage := if elems < x.total then .header else .done
      out := [], all := b.all ++ b.out, elems, nblk := b.nblk + 1, turn := some x.now }

/-- Whether the stream can advance in this cycle. -/
def Ebx.ready (b : Ebx) (x : EbxIn) : Bool :=
  b.turn != some x.now && match b.stage with
    | .header => x.landed (8 * (x.d.base + b.block)) 256
    | .done => false
    | _ => true

/-- Bits [b, b + w) of a byte string (R56). -/
def bitsOfList (bs : List Byte) (b w : Nat) : Nat := bitsAt (leNat ((bs.drop (b / 8)).take (w / 8 + 2))) (b % 8) w

/-- The stored field of element `e` of the decoded stream (log 30). -/
def Ebx.field (b : Ebx) (pfmt e : Nat) : Nat := bitsOfList b.all (e * bitsOf pfmt) (bitsOf pfmt)

end Sys2Proof.Machine
end

