-- ==== Sys2Proof/Machine/Copy.lean ====
section
/-! DEFINITION. The COPY major (R277 to R287): checks at issue, and the progress of a command on its Tongs engine (R280, R281). -/

namespace Sys2Proof.Machine

/-! ### Issue -/

/-- A window (R278): i0, ni, j0, nj. -/
structure Window where
  i0 : Nat
  ni : Nat
  j0 : Nat
  nj : Nat
  deriving DecidableEq, Repr

def windowOf (d : Desc) (b : Option Word) : Window :=
  match b with
  | none => ⟨0, d.d0, 0, d.d1⟩
  | some w =>
    let i0 := fld w 0 16
    let j0 := fld w 32 16
    ⟨i0, if fld w 16 16 = 0 then d.d0 - i0 else fld w 16 16, j0, if fld w 48 16 = 0 then d.d1 - j0 else fld w 48 16⟩

/-- A window that passes the source (R279, order 2). -/
def Window.passes (w : Window) (d : Desc) : Bool := decide (d.d0 < w.i0 + w.ni) || decide (d.d1 < w.j0 + w.nj)

/-- The value that a bound field names. -/
def Core.bound (c : Core) (x : Nat) : Option Word := if 16 ≤ x then some (vget c.b (x - 16) 0) else none

/-- An image invalid for any command (R54, R346). -/
def tdBad (x : BitVec 256) : Bool := imageBad x || (isAq (desc x).fmt && (desc x).grp == 3)

/-- Neighbour `k` of a core, the core itself for k = 0 (R274). -/
def neighbour (l : CoreId) (k : Nat) : CoreId := Fin.ofNat 64 (4 * (l.val / 4) + (l.val + k) % 4)

/-- Elements in a K step and K steps of a column (R286). -/
def stepElems (d : Desc) : Nat := 1024 / bitsOf d.fmt
def kSteps (d : Desc) : Nat := ceilDiv d.d1 (stepElems d)

/-- The limits of the column-slice layout (R286), `tval` the destination. -/
def sliceLimits (y : Nat) (ds dd : Desc) : Except Halt Unit := do
  need y (ds.d0 == dd.d0 && ds.d1 == dd.d1)
  need y (ds.fmt == dd.fmt && decide (ds.fmt ≤ 9) && (!isAq ds.fmt || ds.grp == dd.grp))
  need y (dd.base % 128 == 0 && decide (dd.base + 128 * (ceilDiv dd.d0 256 * kSteps dd) ≤ 524288))

/-- Formats of R279 for a copy. -/
def copyFormats (ds dd : Desc) : Bool :=
  if ds.fmt = dd.fmt then !isAq ds.fmt || ds.grp == dd.grp else isVecFmt ds.fmt && isVecFmt dd.fmt

/-- The checks of R279 that every form with a destination descriptor shares, orders 1 and 2. -/
def copyOrder (c : Core) (y z : Nat) (okY okZ : Desc → Bool) (bound : Option Word) : Except Halt (Desc × Desc × Window) := do
  let dd := desc (c.getTd y)
  let ds := desc (c.getTd z)
  need y (!tdBad (c.getTd y) && okY dd)
  need z (!tdBad (c.getTd z) && okZ ds)
  let w := windowOf ds bound
  need z (!w.passes ds)
  return (dd, ds, w)

def copyCmd (c : Core) (kind : CmdKind) (y z : Nat) (bound : Option Word) : Cmd :=
  { kind, y, z, ty := c.getTd y, tz := c.getTd z, bound }

def notEbx (d : Desc) : Bool := d.fmt != 11

/-- COPY and COPYT (R282). Formats that do not go together name the destination (log 130). -/
def copyPlain (kind : CmdKind) (turn : Bool) (x y z t : Nat) (s : State) : Host.Outcome State Fault Refusal :=
  command (if t = 0 then 0 else 1) (fun _ c => do
    let (dd, ds, w) ← copyOrder c y z notEbx notEbx (c.bound x)
    need y (if turn then decide (w.nj ≤ dd.d0) && decide (w.ni ≤ dd.d1) else decide (w.ni ≤ dd.d0) && decide (w.nj ≤ dd.d1))
    need y (copyFormats ds dd)
    return copyCmd c kind y z (c.bound x)) s

/-- COPY (R282). -/
def execCOPY (x : BitVec 5) (y z : BitVec 6) (t : BitVec 1) (s : State) : Host.Outcome State Fault Refusal :=
  copyPlain .copy false x.toNat y.toNat z.toNat t.toNat s

/-- COPYT (R282). -/
def execCOPYT (x : BitVec 5) (y z : BitVec 6) (t : BitVec 1) (s : State) : Host.Outcome State Fault Refusal :=
  copyPlain .copyt true x.toNat y.toNat z.toNat t.toNat s

/-- Sources of COPYX (R283). -/
def copyxSource (sparse : Bool) (d : Desc) : Bool :=
  if sparse then (isVecFmt d.fmt || d.fmt == 8) && (bitsOf d.fmt == 8 || bitsOf d.fmt == 16)
  else [7, 8, 9, 10, 11].contains d.fmt

/-- COPYX (R283). -/
def execCOPYX (x : BitVec 5) (y z : BitVec 6) (t f sp : BitVec 1) (s : State) : Host.Outcome State Fault Refusal :=
  command (if t = 0 then 0 else 1) (fun s c => do
    let toFeed := f == 1
    let sparse := sp == 1
    let b := c.bound x.toNat
    if toFeed then
      let ds := desc (c.getTd z.toNat)
      need z.toNat (!tdBad (c.getTd z.toNat) && copyxSource sparse ds)
      need z.toNat (!(windowOf ds b).passes ds && !(ds.fmt == 11 && b.isSome))
      return { kind := .copyx true sparse, z := z.toNat, tz := c.getTd z.toNat, bound := b
               feed := some (neighbour s.cur (fld y 3 2), fld y 0 3) }
    else
      let (dd, ds, w) ← copyOrder c y.toNat z.toNat (fun d => isVecFmt d.fmt) (copyxSource sparse) b
      need y.toNat (decide (w.ni ≤ dd.d0) && decide (w.nj ≤ dd.d1))
      need z.toNat (!(ds.fmt == 11 && b.isSome))
      return copyCmd c (.copyx false sparse) y.toNat z.toNat b) s

/-- COPYM (R284). -/
def execCOPYM (x : BitVec 4) (y z : BitVec 6) (t sl : BitVec 1) (s : State) : Host.Outcome State Fault Refusal :=
  command (if t = 0 then 0 else 1) (fun s c => do
    let slice := sl == 1
    let (dd, ds, _) ← copyOrder c y.toNat z.toNat
      (fun d => notEbx d && (d.space == 2 || d.own s.cur)) notEbx none
    if slice then
      need y.toNat (dd.space == 2)
      sliceLimits y.toNat ds dd
    else
      need y.toNat (decide (ds.d0 ≤ dd.d0) && decide (ds.d1 ≤ dd.d1))
      need y.toNat (copyFormats ds dd)
    return copyCmd c (.copym slice) y.toNat z.toNat (some (vget c.b x.toNat 0))) s

/-- COPYF (R285). -/
def execCOPYF (x : BitVec 5) (p : BitVec 3) (n : BitVec 2) (z : BitVec 6) (t : BitVec 1) (s : State) :
    Host.Outcome State Fault Refusal :=
  command (if t = 0 then 0 else 1) (fun s c => do
    let ds := desc (c.getTd z.toNat)
    let b := c.bound x.toNat
    need z.toNat (!tdBad (c.getTd z.toNat) && isVecFmt ds.fmt)
    need z.toNat (!(windowOf ds b).passes ds)
    return { kind := .copyf, z := z.toNat, tz := c.getTd z.toNat, bound := b, feed := some (neighbour s.cur n.toNat, p.toNat) }) s

/-- COPYO (R286). -/
def execCOPYO (x : BitVec 5) (y z : BitVec 6) (t : BitVec 1) (s : State) : Host.Outcome State Fault Refusal :=
  command (if t = 0 then 0 else 1) (fun _ c => do
    let b := c.bound x.toNat
    let (dd, ds, _) ← copyOrder c y.toNat z.toNat (fun d => notEbx d && d.space == 2) notEbx b
    sliceLimits y.toNat ds dd
    return copyCmd c .copyo y.toNat z.toNat b) s

/-- EXPORT (R287). -/
def execEXPORT (y z : BitVec 6) (t : BitVec 1) (s : State) : Host.Outcome State Fault Refusal :=
  command (if t = 0 then 0 else 1) (fun s c => do
    let _ ← copyOrder c y.toNat z.toNat (fun d => d.fmt == 14 && (d.space == 3 || d.own s.cur))
      (fun d => decide (8 ≤ d.fmt) && decide (d.fmt ≤ 11)) none
    return copyCmd c .exportMeta y.toNat z.toNat none) s

/-! ### What a command moves -/

/-- One field that a command writes: the stream element it comes from, its source bits (width 0 for padding), its destination. -/
structure Piece where
  k   : Nat
  src : Nat
  sw  : Nat
  dst : Nat
  dw  : Nat
  deriving DecidableEq, Repr

/-- The stream elements of a window (R278): number, i and j. -/
def Window.elems (w : Window) : List (Nat × Nat × Nat) :=
  (List.range w.nj).flatMap fun j => (List.range w.ni).map fun i => (j * w.ni + i, i, j)

/-- The window of a command's source. -/
def Cmd.window (cmd : Cmd) : Window :=
  windowOf (desc cmd.tz) (match cmd.kind with | .copym _ => none | _ => cmd.bound)

/-- The column-slice place of element (n, k), as a bit address of operand SRAM (R286). -/
def sliceBit (d : Desc) (n k : Nat) : Nat :=
  let e := stepElems d
  8 * (524288 * (n % 256) + d.base + 128 * (n / 256 * kSteps d + k / e)) + k % e * bitsOf d.fmt

/-- The pieces of a command to memory, in stream order; padding last (R282 to R286). -/
def Cmd.pieces (cmd : Cmd) : List Piece :=
  let ds := desc cmd.tz
  let dd := desc cmd.ty
  let w := cmd.window
  let sw := bitsOf ds.fmt
  let dw := bitsOf dd.fmt
  let at_ (f : Nat → Nat → Nat) : List Piece :=
    w.elems.map fun x => { k := x.1, src := ds.addr (w.i0 + x.2.1) (w.j0 + x.2.2), sw, dst := f x.2.1 x.2.2, dw }
  let slices : List Piece :=
    let last := (kSteps dd - 1) * stepElems dd
    at_ (fun i j => sliceBit dd (w.i0 + i) (w.j0 + j)) ++
    (if last < w.j0 + w.nj then
      (List.range w.ni).flatMap fun i => (List.range (kSteps dd * stepElems dd - dd.d1)).map fun p =>
        { k := 0, src := 0, sw := 0, dst := sliceBit dd (w.i0 + i) (dd.d1 + p), dw }
    else [])
  match cmd.kind with
  | .copyt => at_ fun i j => dd.addr j i
  | .copyo | .copym true => slices
  | _ => at_ fun i j => dd.addr i j

/-- Bytes of a destination unit: a line, or a K step of a column (R268, R286). -/
def Cmd.unitSize (cmd : Cmd) : Nat := match cmd.kind with | .copyo | .copym true => 128 | _ => 64

/-- The units that a piece touches. -/
def Piece.units (p : Piece) (n : Nat) : List Nat := if n = 64 then linesOfBits p.dst p.dw else [p.dst / 1024 * 128]

/-- The places a command writes: each target core of COPYM, ascending (R284). -/
def Cmd.targets (cmd : Cmd) (l : CoreId) : List Place :=
  let dd := desc cmd.ty
  match cmd.kind with
  | .copym _ => (List.finRange 64).filterMap fun k =>
      if fld (cmd.bound.getD 0) k.val 1 = 1 then some (if dd.space = 2 then Place.sram k else .ember k) else none
  | _ => [dd.place l]

/-- Fields that meet a unit. -/
def unitPieces (ps : List Piece) (u n : Nat) : List Piece := ps.filter fun p => 8 * u < p.dst + p.dw && p.dst < 8 * (u + n)

/-! ### The record of EXPORT (R287) -/

/-- Arrays of an AQ or CB3 source as stored: bit addresses and widths of whole bytes. -/
def Desc.arrays (d : Desc) : List (Nat × Nat) :=
  let n := d.d1 * ceilDiv d.d0 (d.span d.fmt)
  match d.fmt with
  | 8 => [(8 * (d.base + d.scale), 16 * n), (8 * (d.base + d.zero), 8 * n)]
  | 9 => [(8 * (d.base + d.scale), 16 * n), (8 * (d.base + d.zero), 8 * ceilDiv n 2)]
  | 10 => [(8 * (d.base + d.zero), 128 * n)]
  | _ => []

/-- Bytes of the entries of a source that is not EBX. -/
def Desc.arrayBytes (d : Desc) : Nat := (d.arrays.map (·.2 / 8)).sum

/-- The entries as read. -/
def exportEntries (d : Desc) (p : Place) (got : List Line) (ebx : Option Ebx) : List Byte :=
  match ebx with
  | some b => b.rows.flatMap fun r => leBytes 8 r.1 ++ r.2
  | none => d.arrays.flatMap fun (a : Nat × Nat) => leBytes (a.2 / 8) (bitsRead got p a.1 a.2)

/-- The whole record. -/
def exportRecord (image : BitVec 256) (p : Place) (got : List Line) (ebx : Option Ebx) : List Byte :=
  let es := exportEntries (desc image) p got ebx
  leBytes 32 image.toNat ++ leBytes 8 (match ebx with | some b => b.rows.length | none => 1) ++ leBytes 8 (64 + es.length) ++
    leBytes 4 (crc32c es) ++ List.replicate 12 0 ++ es

/-- The pieces of a record of `n` bytes held to the capacity: its entries first, then bytes 0 to 63 when it is whole. -/
def exportPieces (dd : Desc) (n : Nat) (whole : Bool) : List Piece × List Piece :=
  let pc (e : Nat) : Piece := { k := e, src := 0, sw := 0, dst := dd.addr (e % dd.d0) (e / dd.d0), dw := 8 }
  (((List.range (min n (dd.d0 * dd.d1))).drop 64).map pc, if whole then (List.range 64).map pc else [])

/-! ### Laying a command -/

/-- Whether the command delivers to a feed. -/
def Cmd.toFeed (cmd : Cmd) : Bool := match cmd.kind with | .copyf | .copyx true _ | .saccr .. => true | _ => false
def Cmd.isCopyx (cmd : Cmd) : Bool := match cmd.kind with | .copyx .. => true | _ => false
def Cmd.isExport (cmd : Cmd) : Bool := match cmd.kind with | .exportMeta => true | _ => false
def Cmd.sparse (cmd : Cmd) : Bool := match cmd.kind with | .copyx _ sp => sp | .mma _ _ _ _ sp => sp | _ => false

/-- Source place and layout-tag check of a Tongs command. -/
def Cmd.src (cmd : Cmd) (l : CoreId) : Place := (desc cmd.tz).place l
def Cmd.check (cmd : Cmd) (c : Core) : Option (Nat × Desc) := if c.csr.lchk then some (cmd.z, desc cmd.tz) else none

/-- What decodes an EBX source. -/
def Cmd.ebxIn (cmd : Cmd) (s : State) (l : CoreId) (got : List Line) : EbxIn :=
  let d := desc cmd.tz
  { d, place := d.place l, check := cmd.check (s.core l), task := if d.space = 3 then some (s.core l).theTask else none
    got, peek := fun a => s.readLine l (d.place l) a s.now, now := s.now, ranked := true }

/-- Stream elements of a command. -/
def Cmd.total (cmd : Cmd) : Nat := cmd.window.ni * cmd.window.nj

/-- Source bits that element `k` of a COPYX or COPYF uses: metadata, then data. -/
def Cmd.uses (cmd : Cmd) (k : Nat) : List (Nat × Nat) :=
  let d := desc cmd.tz
  let w := cmd.window
  let i := w.i0 + k % w.ni
  let j := w.j0 + k / w.ni
  if cmd.sparse then (if isAq d.fmt then d.metaBits d.fmt d.base (d.metaIdx d.fmt i j) else []) ++ d.sparseBits i 1 j
  else if d.fmt = 11 then
    if isAq d.pfmt || d.pfmt = 10 then d.metaBits d.pfmt d.base (d.metaIdx d.pfmt i j) else []
  else d.metaBits d.fmt d.base (d.metaIdx d.fmt i j) ++ [(d.addr i j, bitsOf d.fmt)]

/-- The source lines from element `k` on: in stream order for COPYF, in list order for COPYX (R281, R303, R305). -/
def Cmd.linesFrom (cmd : Cmd) (k : Nat) : List Nat :=
  let d := desc cmd.tz
  let w := cmd.window
  if w.ni = 0 then []
  else
    let j := k / w.ni
    if cmd.kind == .copyf then
      dedup ((d.rowBits (w.i0 + k % w.ni) (w.ni - k % w.ni) (w.j0 + j) ++
        (List.range (w.nj - (j + 1))).flatMap fun r => d.rowBits w.i0 w.ni (w.j0 + j + 1 + r)).flatMap fun b => linesOfBits b.1 b.2)
    else stageLines (d.rowStages cmd.sparse (w.i0 + k % w.ni) (w.ni - k % w.ni) (w.j0 + j) ++
      d.stages cmd.sparse w.i0 w.ni (w.j0 + j + 1) (w.nj - (j + 1)))

/-- The record's length as far as it is known, and whether it is whole: no fault was found and it fits the capacity. -/
def Eng.exportKnown (x : Eng) (cmd : Cmd) : Nat × Bool :=
  let n := 64 + match x.ebx with | some b => 40 * b.rows.length | none => (desc cmd.tz).arrayBytes
  (n, x.held.isNone && decide (n ≤ (desc cmd.ty).d0 * (desc cmd.ty).d1))

/-- The lines of some bytes of the record, by the first byte that each holds. -/
def pieceLines (ps : List Piece) : List Nat := dedup (ps.flatMap fun p => linesOfBits p.dst p.dw)

/-- The destination units of EXPORT (R281, R287). -/
def Eng.exportUnits (x : Eng) (cmd : Cmd) (l : CoreId) : List (Place × Nat) :=
  let dd := desc cmd.ty
  let (n, whole) := x.exportKnown cmd
  let (a, b) := exportPieces dd n whole
  (pieceLines a ++ pieceLines b).map fun u => (dd.place l, u)

/-- A record that does not fit takes fault 0x15 after its last byte inside the capacity (R287). -/
def Eng.exportEnd (x : Eng) (cmd : Cmd) : Eng :=
  if x.held.isNone && !(x.exportKnown cmd).2 then { x with held := some (0x15, BitVec.ofNat 64 cmd.y) } else x

/-- The lists of a Tongs command from its micro-PC on (R268, R281). -/
def Eng.layCopy (x : Eng) (cmd : Cmd) (l : CoreId) (now : Nat) : Eng :=
  let d := desc cmd.tz
  let p := cmd.src l
  let x := { x with laid := true, begun := some (x.begun.getD now), got := [], plan := [], lines := [], made := 0, held := none, ebx := none,
                    elems := [], read := false }
  match cmd.kind with
  | .exportMeta =>
    if d.fmt = 11 then { x with ebx := some {}, plan := (linesOfBits (8 * d.base) 256).map fun a => (p, a) }
    else
      let x := { x with plan := (dedup (d.arrays.flatMap fun (a : Nat × Nat) => linesOfBits a.1 a.2)).map fun a => (p, a) }
      { x.exportEnd cmd with lines := (x.exportUnits cmd l).drop x.micro }
  | .copyf => { x with plan := (if x.micro < cmd.total then cmd.linesFrom x.micro else []).map fun a => (p, a) }
  | .copyx toFeed _ =>
    let ps := if toFeed then [] else cmd.pieces
    let units := dedup (ps.flatMap fun q => q.units 64)
    let rest := units.drop x.micro
    let first := if toFeed then x.micro
      else (ps.filter fun q => (q.units 64).any fun u => rest.contains u).foldl (fun m q => min m q.k) cmd.total
    let x := { x with made := first, lines := rest.map fun u => ((desc cmd.ty).place l, u) }
    if d.fmt = 11 then { x with ebx := some {}, plan := (linesOfBits (8 * d.base) 256).map fun a => (p, a) }
    else { x with plan := (if first < cmd.total then cmd.linesFrom first else []).map fun a => (p, a) }
  | _ =>
    let ps := cmd.pieces
    let n := cmd.unitSize
    let units := dedup ((ps.filter (·.sw != 0)).flatMap fun q => q.units n)
    let ts := cmd.targets l
    let todo := (units.flatMap fun u => ts.map fun t => (t, u)).drop x.micro
    let rest := dedup (todo.map (·.2))
    let src := (ps.filter fun q => q.sw != 0 && (q.units n).any fun u => rest.contains u).flatMap fun q => linesOfBits q.src q.sw
    { x with lines := todo, plan := (dedup src).map fun a => (p, a) }

/-- The exact value of element (i, j) of a structured-sparse source (R283, R301): zero where no value stands (log 19). -/
def Desc.sparseVal (d : Desc) (rd : Rd) (i j : Nat) : Val :=
  let per := sparsePer d.fmt
  match sparseOpt d.fmt (rd (d.addr 0 j + 1024 * (i / per)) 1024) (i % per) with
  | some q => d.expand d.fmt d.base rd q i j
  | none => .fin false 0 0

/-! ### Units -/

/-- The pieces of the next unit. The units of EXPORT's last part hold bytes 0 to 63 alone. -/
def Eng.nextPieces (x : Eng) (cmd : Cmd) (u : Nat) : List Piece :=
  if cmd.isExport then
    let dd := desc cmd.ty
    let (n, whole) := x.exportKnown cmd
    let (a, b) := exportPieces dd n whole
    unitPieces (if x.micro < (pieceLines a).length then a else b) u 64
  else unitPieces cmd.pieces u cmd.unitSize

/-- The value of a piece. A sparse COPYX rounds to its own format too (R283; log 115). -/
def Eng.pieceVal (x : Eng) (cmd : Cmd) (l : CoreId) (q : Piece) : Nat :=
  let ds := desc cmd.tz
  let dd := desc cmd.ty
  let p := cmd.src l
  let rd : Rd := bitsRead x.got p
  let w := cmd.window
  let i := w.i0 + q.k % w.ni
  let j := w.j0 + q.k / w.ni
  match cmd.kind with
  | .exportMeta => ((exportRecord cmd.tz p x.got x.ebx).getD q.k 0).toNat
  | .copyx _ sparse =>
    if sparse then
      convertV dd.fmt (ds.sparseVal rd i j)
    else
      let fmt := if ds.fmt = 11 then ds.pfmt else ds.fmt
      let raw := match x.ebx with | some b => b.field fmt q.k | none => rd q.src q.sw
      convertV dd.fmt (ds.expand fmt ds.base rd raw i j)
  | _ =>
    if q.sw = 0 then 0
    else if ds.fmt = dd.fmt then rd q.src q.sw
    else convert ds.fmt dd.fmt (rd q.src q.sw) .rne

/-- The element that a COPYX or COPYF delivers to a feed. -/
def Eng.feedVal (x : Eng) (cmd : Cmd) (l : CoreId) (k : Nat) : Nat × Nat :=
  let ds := desc cmd.tz
  let rd : Rd := bitsRead x.got (cmd.src l)
  let w := cmd.window
  let i := w.i0 + k % w.ni
  let j := w.j0 + k / w.ni
  if cmd.sparse && isAq ds.fmt then (1, roundV 1 (ds.sparseVal rd i j) .rne)
  else if cmd.sparse then
    let per := sparsePer ds.fmt
    (ds.fmt, sparseAt ds.fmt (rd (ds.addr 0 j + 1024 * (i / per)) 1024) (i % per))
  else if cmd.isCopyx then
    let fmt := if ds.fmt = 11 then ds.pfmt else ds.fmt
    let raw := match x.ebx with | some b => b.field fmt k | none => rd (ds.addr i j) (bitsOf ds.fmt)
    ds.natural fmt ds.base rd raw i j
  else (ds.fmt, rd (ds.addr i j) (bitsOf ds.fmt))

/-- Whether the source of a unit is there: its lines have landed or its elements are produced. -/
def Eng.unitReady (x : Eng) (cmd : Cmd) (l : CoreId) (now : Nat) (ps : List Piece) : Bool :=
  let p := cmd.src l
  match cmd.kind with
  | .copyx .. => ps.all fun q => decide (q.k < x.made)
  | .exportMeta =>
    match x.ebx with
    | some _ => true
    | none => (desc cmd.tz).arrays.all fun (a : Nat × Nat) => bitsLanded x.got now p a.1 a.2
  | _ => ps.all fun q => q.sw == 0 || bitsLanded x.got now p q.src q.sw

/-- The fault of the place that a unit is written to (R210, R280). -/
def State.destFault (s : State) (l : CoreId) (cmd : Cmd) (u : Place × Nat) (ps : List Piece) : Option (Byte × Word) :=
  let dest := (ps.map fun q => q.dst / 8).foldl min (u.2 + 127)
  match cmd.kind, u.1 with
  | .copym _, .sram k =>
    if (s.core k).theTask.asid != (s.core l).theTask.asid || (s.core k).task.isNone then some (0x09, u.1.tval dest) else none
  | _, _ => s.writeFault l u.1 (max u.2 dest)

/-- The faults of a unit (R280): of the bits it uses and of the place it is written to. -/
def State.unitFault (s : State) (l : CoreId) (x : Eng) (cmd : Cmd) (u : Place × Nat) (ps : List Piece) : Option (Byte × Word) :=
  let p := cmd.src l
  let check := cmd.check (s.core l)
  let reads := match cmd.kind with
    | .copyx .. => []
    | .exportMeta => if x.ebx.isSome then [] else (desc cmd.tz).arrays.flatMap fun (a : Nat × Nat) => bitsFaults x.got p a.1 a.2 check
    | _ => ps.flatMap fun q => if q.sw = 0 then [] else bitsFaults x.got p q.src q.sw check
  firstByRank (reads ++ (s.destFault l cmd u ps).toList)

/-- The next unit when it can be written: its place, base and fields; a release waits for its order (R251). -/
def State.copyWrite (s : State) (l : CoreId) (x : Eng) (cmd : Cmd) : Option (Place × Nat × List Field) :=
  match x.lines with
  | [] => none
  | u :: rest =>
    let ps := x.nextPieces cmd u.2
    if !x.unitReady cmd l s.now ps || (s.unitFault l x cmd u ps).isSome then none
    else if cmd.rel && rest.isEmpty && !(s.core l).mayRelease s.now cmd.prog then none
    else some (u.1, u.2, ps.map fun q => (q.dst, q.dw, x.pieceVal cmd l q))

/-! ### Progress at the start of a cycle -/

/-- The EBX source of EXPORT (R287): headers and checksums of the blocks whose lines have landed. -/
def exportScan (xin : EbxIn) : (fuel : Nat) → Ebx → Except (Ebx × (Byte × Word)) Ebx
  | 0, b => .ok b
  | fuel + 1, b =>
    let a := 8 * (xin.d.base + b.block)
    if b.stage == .done || !xin.landed a 256 then .ok b
    else
      let h := xin.head b.block
      match xin.first a 256 [(ebxHeadBad h xin.d.pfmt || decide (xin.total < b.elems + ebxCnt h), xin.fault 0x13 b.block)] with
      | some f => .error (b, f)
      | none =>
        if !xin.landed a (8 * ebxLen h) then .ok b
        else match xin.last a (8 * ebxLen h) [(crc32c (xin.covered b.block) != ebxCrc h, xin.fault 0x14 b.block)] with
          | some f => .error (b, f)
          | none =>
            let elems := b.elems + ebxCnt h
            exportScan xin fuel { b with
              block := ebxNext b.block h, elems, nblk := b.nblk + 1, rows := b.rows ++ [(b.block, leBytes 32 h)]
              stage := if elems < xin.total then .header else .done }

/-- Lines that an EBX stream asks for and that have not been asked for yet (R304). -/
def Eng.extend (x : Eng) (xin : EbxIn) (withMeta : Bool) : Eng :=
  let known := x.plan.map (·.2) ++ x.got.map (·.addr)
  { x with plan := x.plan ++ ((xin.list withMeta).filter fun a => !known.contains a).map fun a => (xin.place, a) }

/-- The progress of EXPORT over an EBX source; once the scan ends its units are known. A byte of the record outside the leases is found
here (log 30). -/
def State.scanExport (s : State) (l : CoreId) (cmd : Cmd) (x : Eng) : Eng :=
  match x.ebx with
  | none => x
  | some b =>
    if b.stage == .done || x.held.isSome then x
    else
      let xin := cmd.ebxIn s l x.got
      let x := match exportScan xin (x.got.length + 1) b with
        | .ok b => { x with ebx := some b }
        | .error (b, f) => { x with ebx := some b, held := some f }
      let ended := x.held.isSome || (match x.ebx with | some b => b.stage == .done | none => true)
      if ended then
        let x := (x.exportEnd cmd)
        let x := { x with lines := (x.exportUnits cmd l).drop x.micro }
        let dd := desc cmd.ty
        if dd.space = 3 then
          let (n, whole) := x.exportKnown cmd
          let (a, b) := exportPieces dd n whole
          match (s.core l).theTask.unleased needW ((b ++ a).map fun q => q.dst / 8) with
          | some v => { x with held := some (0x08, BitVec.ofNat 64 v), lines := [] }
          | none => x
        else x
      else x.extend xin false

/-- The fault that the command at the head of Tongs `u` takes now: of its next unit, or one held back until the units or elements before
it are done (R268, R280). -/
def State.copyFault (s : State) (l : CoreId) (x : Eng) (cmd : Cmd) : Option (Byte × Word) :=
  match x.lines with
  | u :: _ =>
    let ps := x.nextPieces cmd u.2
    if x.unitReady cmd l s.now ps then s.unitFault l x cmd u ps
    else if cmd.isCopyx && x.held.isSome then firstByRank (x.held.toList ++ (s.destFault l cmd u ps).toList) else none
  | [] =>
    if cmd.isExport then x.held
    else if cmd.isCopyx then (if x.made = x.micro then x.held else none)
    else if cmd.toFeed && decide (x.micro < cmd.total) then
      let us := cmd.uses x.micro
      if us.all fun q => bitsLanded x.got s.now (cmd.src l) q.1 q.2 then
        firstByRank (us.flatMap fun q => bitsFaults x.got (cmd.src l) q.1 q.2 (cmd.check (s.core l)))
      else none
    else none

/-- The start of a cycle on a Tongs engine. -/
def State.copyStart (s : State) (l : CoreId) (e : EngId) (cmd : Cmd) : State :=
  let c := s.core l
  let x := c.getE e
  let x := if x.laid || !(x.begun.isSome || c.mayBegin s.now cmd) then x else x.layCopy cmd l s.now
  let x := if !x.laid then x
    else if cmd.isExport then s.scanExport l cmd x
    else if cmd.isCopyx && x.ebx.isSome then x.extend (cmd.ebxIn s l x.got) true
    else x
  let x := if x.laid && cmd.toFeed && x.last.isNone && x.plan.isEmpty && x.got.all (!·.bytes.isEmpty) &&
      (match x.ebx with | some b => b.stage == .done | none => true) then { x with last := some (s.now - 1) } else x
  let s := s.setCore l (c.setE e x)
  if !x.laid then s
  else match s.copyFault l x cmd with
    | some f => s.engFault l e f
    | none => s

/-- Whether a Tongs command has made its last access and delivered its last element (R267). -/
def Eng.copyDone (x : Eng) (cmd : Cmd) : Bool :=
  x.laid && x.lines.isEmpty && x.held.isNone && (!cmd.toFeed || decide (x.micro = cmd.total)) &&
  match x.ebx with | some b => b.stage == .done | none => true

/-! ### Crucible serving COPYX (R305) -/

/-- Whether the uses of element `k` are there, and the fault that they meet. -/
def State.expandable (s : State) (l : CoreId) (x : Eng) (cmd : Cmd) (k : Nat) : Option (Except (Byte × Word) Unit) :=
  let p := cmd.src l
  let us := cmd.uses k
  if !(us.all fun q => bitsLanded x.got s.now p q.1 q.2) then none
  else
    let broken := match us.getLast? with
      | some (b, _) => if cmd.sparse && sparseBad (desc cmd.tz).fmt (bitsRead x.got p b 1024) then [((0x13 : Byte), p.tval (b / 8))] else []
      | none => []
    match firstByRank ((us.flatMap fun q => bitsFaults x.got p q.1 q.2 (cmd.check (s.core l))) ++ broken) with
    | some f => some (.error f)
    | none => some (.ok ())

/-- Produce up to `n` elements in stream order. -/
def State.produce (s : State) (l : CoreId) (cmd : Cmd) : (n : Nat) → Eng → Eng
  | 0, x => x
  | n + 1, x =>
    let limit := match x.ebx with | some b => b.elems | none => cmd.total
    if limit ≤ x.made || x.held.isSome then x
    else match s.expandable l x cmd x.made with
      | none => x
      | some (.error f) => { x with held := some f }
      | some (.ok _) => State.produce s l cmd n { x with made := x.made + 1 }

/-- The COPYX served in this cycle whose EBX stream can advance. -/
def State.servedEbx (s : State) (l : CoreId) : Option (EngId × Cmd × Ebx) :=
  [(0 : EngId), 1].findSome? fun e =>
    let x := (s.core l).getE e
    match x.queue, x.ebx with
    | cmd :: _, some b =>
      if cmd.isCopyx && x.laid && x.active && x.held.isNone && x.served == some s.now && b.ready (cmd.ebxIn s l x.got) then
        some (e, cmd, b) else none
    | _, _ => none

end Sys2Proof.Machine
end

