-- ==== Sys2Proof/Machine/Temper.lean ====
section
/-! DEFINITION. The ROW major (R292 to R295): checks at issue, the values of a row, load, timetable and write. -/

namespace Sys2Proof.Machine

/-- The checks of R292; `x` is the parameter descriptor with its least D1. -/
def rowCmd (kind : CmdKind) (y z : Nat) (param : Option (Nat × Nat)) (s : State) (c : Core) : Except Halt Cmd := do
  let ok (n : Nat) : Bool := !tdBad (c.getTd n) && (desc (c.getTd n)).own s.cur && [1, 2, 3].contains (desc (c.getTd n)).fmt
  let dd := desc (c.getTd y)
  let ds := desc (c.getTd z)
  need y (ok y)
  need z (ok z)
  match param with
  | some (x, _) => need x (ok x)
  | none => pure ()
  need y (dd.d1 == ds.d1 && (dd.d0 == ds.d0 || kind == .rowmx))
  match param with
  | some (x, d1) => need x ((desc (c.getTd x)).d0 == ds.d0 && decide (d1 ≤ (desc (c.getTd x)).d1))
  | none => pure ()
  need z (decide (ds.d0 * ds.d1 ≤ 65536))
  return { kind, y, z, x := (param.map (·.1)).getD 0, ty := c.getTd y, tz := c.getTd z,
           tx := match param with | some (x, _) => c.getTd x | none => 0 }

/-- ROWSM (R292). -/
def execROWSM (y z : BitVec 6) (s : State) : Host.Outcome State Fault Refusal :=
  command 3 (rowCmd .rowsm y.toNat z.toNat none) s

/-- ROWNM (R292). -/
def execROWNM (x : BitVec 5) (y z : BitVec 6) (e : BitVec 5) (s : State) : Host.Outcome State Fault Refusal :=
  command 3 (rowCmd (.rownm e.toNat) y.toNat z.toNat (some (x.toNat, 1))) s

/-- ROWLN (R292). -/
def execROWLN (x : BitVec 5) (y z : BitVec 6) (e : BitVec 5) (s : State) : Host.Outcome State Fault Refusal :=
  command 3 (rowCmd (.rowln e.toNat) y.toNat z.toNat (some (x.toNat, 2))) s

/-- ROWMX (R292). -/
def execROWMX (y z : BitVec 6) (s : State) : Host.Outcome State Fault Refusal :=
  command 3 (rowCmd .rowmx y.toNat z.toNat none) s

/-! ### Values of a row (R294) -/

/-- A value rounded to FP32. -/
def f32 (v : Val) : Val := fltVal 1 (roundV 1 v .rne)

/-- A sum in ascending order from +0, rounded at each step. -/
def sum32 (l : List Val) : Val := l.foldl (fun s v => f32 (Val.add .rne s v)) (.fin false 0 0)

/-- The maximum, -0 below +0, NaN if any is NaN. -/
def rowMax (l : List Val) : Val :=
  match l with
  | [] => .nan
  | x :: t => t.foldl (fun m v => if m = .nan || v = .nan then .nan else if m.below v then v else m) x

/-- ε of R292. -/
def rowEps (e : Nat) : Val := if e = 0 then .fin false 0 0 else .fin false 1 (-(e : Int))

/-- E_e of ROWSM. -/
def rowExp (m x : Val) : Val :=
  match m, x with
  | .inf false, .inf false => .fin false 1 0
  | .inf false, _ => .fin false 0 0
  | _, _ => match Val.add .rne x m.neg with
    | .fin neg k e =>
      let z := fracOf neg k e
      fltVal 1 (roundFrac 1 (exp2Core ⟨z.num * log2e, z.den * 2 ^ 40⟩))
    | _ => .fin false 0 0

/-- Root-mean scale of ROWNM and ROWLN: VRSQ of the mean of squares plus ε. -/
def rowScale (sum : Val) (n e : Nat) : Val :=
  fltVal 1 (vrsq 1 (roundV 1 (Val.add .rne (fltVal 1 (divV 1 .rne sum (Val.ofInt n))) (rowEps e)) .rne))

/-- The outputs of a row as encodings of format `f`: `xs` its elements, `g` and `b` the parameters. -/
def rowOut (kind : CmdKind) (f : Nat) (xs g b : List Val) : List Nat :=
  let n := xs.length
  match kind with
  | .rowsm =>
    let m := rowMax xs
    if m = .nan then List.replicate n (nanEnc f)
    else if m = .inf true then List.replicate n 0
    else
      let es := xs.map (rowExp m)
      let r := fltVal 1 (divV 1 .rne (.fin false 1 0) (sum32 es))
      es.map fun e => roundV f (e.mul r) .rne
  | .rownm e =>
    let r := rowScale (sum32 (xs.map fun x => f32 (x.mul x))) n e
    (xs.zip g).map fun p => roundV f ((f32 (p.1.mul r)).mul p.2) .rne
  | .rowln e =>
    let mu := fltVal 1 (divV 1 .rne (sum32 xs) (Val.ofInt n))
    let ds := xs.map fun x => f32 (Val.add .rne x mu.neg)
    let r := rowScale (sum32 (ds.map fun d => f32 (d.mul d))) n e
    (ds.zip (g.zip b)).map fun p => roundV f (Val.add .rne ((f32 (p.1.mul r)).mul p.2.1) p.2.2) .rne
  | _ => [roundV f (rowMax xs) .rne]

/-! ### Progress -/

/-- Phases (R292), and the cycles of one phase (R293). -/
def Cmd.phases (cmd : Cmd) : Nat := match cmd.kind with | .rowmx => 1 | _ => 3
def Cmd.phaseLen (cmd : Cmd) : Nat := ceilDiv (desc cmd.tz).d0 64
def Cmd.rows (cmd : Cmd) : Nat := (desc cmd.tz).d1
/-- Rows of the parameter tensor, every one of which is read (R293). -/
def Cmd.params (cmd : Cmd) : Nat := match cmd.kind with | .rownm _ | .rowln _ => (desc cmd.tx).d1 | _ => 0

/-- Bits of row `j` of a tensor. -/
def Desc.row (d : Desc) (j : Nat) : List (Nat × Nat) := d.rowBits 0 d.d0 j

/-- The uses of a command's load from row `r` on: descriptor number, image and bits (R293). -/
def Cmd.rowUses (cmd : Cmd) (r : Nat) : List (Nat × BitVec 256 × List (Nat × Nat)) :=
  [(cmd.z, cmd.tz, (List.range (cmd.rows - r)).flatMap fun j => (desc cmd.tz).row (r + j)),
   (cmd.x, cmd.tx, (List.range cmd.params).flatMap fun j => (desc cmd.tx).row j)]

/-- The lines of the load: source lines in address order, then parameter lines. -/
def Cmd.rowLines (cmd : Cmd) (r : Nat) : List Nat :=
  dedup ((cmd.rowUses r).flatMap fun u => sortBy id (u.2.2.flatMap fun b => linesOfBits b.1 b.2))

/-- Elements of row `j` of an image as read. -/
def Eng.rowVals (x : Eng) (l : CoreId) (image : BitVec 256) (j : Nat) : List Val :=
  let d := desc image
  (List.range d.d0).map fun i => fltVal d.fmt (bitsRead x.got (.ember l) (d.addr i j) (bitsOf d.fmt))

/-- The fields of output row `j`. -/
def Eng.rowFields (x : Eng) (cmd : Cmd) (l : CoreId) (j : Nat) : List Field :=
  let dd := desc cmd.ty
  let vs := rowOut cmd.kind dd.fmt (x.rowVals l cmd.tz j) (x.rowVals l cmd.tx 0) (x.rowVals l cmd.tx 1)
  vs.zipIdx.map fun v => (dd.addr v.2 j, bitsOf dd.fmt, v.1)

/-- Whether two lists of bit fields share a bit. -/
def fieldsMeet (xs ys : List (Nat × Nat)) : Bool := xs.any fun x => ys.any fun y => x.1 < y.1 + y.2 && y.1 < x.1 + x.2

/-- Whether a row's destination overlaps a source row other than that row, or a parameter element, against R292. -/
def Cmd.overlaps (cmd : Cmd) : Bool :=
  let out (j : Nat) : List (Nat × Nat) := (desc cmd.ty).rowBits 0 (if cmd.kind == .rowmx then 1 else (desc cmd.ty).d0) j
  (List.range cmd.rows).any fun j =>
    ((List.range cmd.rows).any fun k => k != j && fieldsMeet (out j) ((desc cmd.tz).row k)) ||
    (List.range cmd.params).any fun k => fieldsMeet (out j) ((desc cmd.tx).row k)

/-- The lines of output row `j`, ascending. -/
def Cmd.outLines (cmd : Cmd) (j : Nat) : List Nat :=
  let dd := desc cmd.ty
  dedup (sortBy id ((List.range (if cmd.kind == .rowmx then 1 else dd.d0)).flatMap fun i => linesOfBits (dd.addr i j) (bitsOf dd.fmt)))

/-- The first cycle of a load (R293): the cycle after the head, or the head cycle itself when the previous command has just left. -/
def Eng.loadFrom (x : Eng) : Nat :=
  match x.head, x.freed with
  | some h, some f => if f + 1 = h then h else h + 1
  | some h, none => h + 1
  | none, _ => 0

/-- Whether the load of the head command may start now. -/
def Core.temperMayLoad (c : Core) (now : Nat) : Bool :=
  let x := c.getE 3
  match x.queue with
  | [] => false
  | cmd :: _ => x.active && !x.laid && decide (x.loadFrom ≤ now) && (x.begun.isSome || c.mayBegin now cmd)

/-- TEMPER_LOAD (R293): the load starts at the micro-PC's row; `made` keeps that row. -/
def execTEMPER_LOAD (c : CoreId) (s : State) : Host.Outcome State Fault Refusal :=
  let k := s.core c
  let x := k.getE 3
  match x.queue with
  | [] => .next s
  | cmd :: _ =>
    if !k.temperMayLoad s.now then .next s
    else .next (s.setCore c (k.setE 3 { x with
      laid := true, begun := some (x.begun.getD s.now), got := [], lines := [], sub := 0, made := x.micro
      plan := (cmd.rowLines x.micro).map fun a => (Place.ember c, a) }))

/-- The start of a cycle on Temper: a fault of the load, or the start of the timetable in the cycle in which its last line lands. `sub` is 1 +
the phase slots that have ended, 0 during the load. -/
def State.temperStart (s : State) (l : CoreId) (cmd : Cmd) : State :=
  let c := s.core l
  let x := c.getE 3
  if !x.laid || x.sub != 0 then s
  else
    let got := x.got.filter (·.landed s.now)
    let faults := (cmd.rowUses x.made).flatMap fun u => u.2.2.flatMap fun b =>
      bitsFaults got (.ember l) b.1 b.2 (if c.csr.lchk then some (u.1, desc u.2.1) else none)
    match firstByRank faults with
    | some f => s.engFault l 3 f
    | none =>
      if x.plan.isEmpty && x.got.all (·.landed s.now) then s.setCore l (c.setE 3 { x with sub := 1, t0 := s.now }) else s

/-- Whether a phase slot of the timetable ends at the end of this cycle, and its number. -/
def Eng.phaseEnd (x : Eng) (cmd : Cmd) (now : Nat) : Option Nat :=
  let k := x.sub
  if k != 0 && k < cmd.rows - x.made + cmd.phases && now + 1 = x.t0 + k * cmd.phaseLen then some k else none

/-- TEMPER_PHASE (R293): a phase slot ends; the row whose last phase it was has its lines queued for writing. -/
def execTEMPER_PHASE (c : CoreId) (s : State) : Host.Outcome State Fault Refusal :=
  let k := s.core c
  let x := k.getE 3
  match x.queue with
  | [] => .next s
  | cmd :: _ => match (if x.active then x.phaseEnd cmd s.now else none) with
    | none => .next s
    | some n =>
      let lines := if cmd.phases ≤ n then (cmd.outLines (x.made + (n - cmd.phases))).map fun a => (Place.ember c, a) else []
      .next (s.setCore c (k.setE 3 { x with sub := n + 1, lines := x.lines ++ lines }))

/-- The line that Temper presents for writing. The row that ends with a release write begins only once the release may be made: a row begun
is written to its end (R268; log 79). -/
def State.temperWrite (s : State) (l : CoreId) (x : Eng) (cmd : Cmd) : Option Nat :=
  match x.lines with
  | [] => none
  | (_, a) :: _ => if cmd.rel && x.micro + 1 == cmd.rows && !(s.core l).mayRelease s.now cmd.prog then none else some a

/-- The fault of the output row of the micro-PC: it is found before the row takes effect (R268, R295). -/
def State.rowFault (s : State) (l : CoreId) (x : Eng) (cmd : Cmd) : Option (Byte × Word) :=
  (cmd.outLines x.micro).findSome? fun a => s.writeFault l (.ember l) a

/-- Whether some lines of the first queued row, and not all, are written. -/
def Eng.midRow (x : Eng) (cmd : Cmd) : Bool :=
  match x.lines with
  | (_, a) :: _ => (cmd.outLines x.micro).head? != some a
  | [] => false

/-- The bytes that Temper writes to a line: where the command breaks R292 they are unpredictable (R8; log 12). -/
def State.rowBytes (s : State) (l : CoreId) (x : Eng) (cmd : Cmd) (a : Nat) : List (Option Byte) × State :=
  let bs := unitWrite a 64 (x.rowFields cmd l x.micro) (s.curByte l (.ember l))
  if cmd.overlaps then (bs.zipIdx.map fun b => b.1.map fun _ => Config.contextByte s.fresh.1 b.2, s.fresh.2) else (bs, s)

/-- TEMPER_ROW_WRITE (R293): one line of the first queued row. -/
def execTEMPER_ROW_WRITE (c : CoreId) (s : State) : Host.Outcome State Fault Refusal :=
  let x := (s.core c).getE 3
  match x.queue with
  | [] => .next s
  | cmd :: _ => match (if x.active then s.temperWrite c x cmd else none) with
    | none => .next s
    | some a => match s.rowFault c x cmd with
      | some f => .next (s.engFault c 3 f)
      | none =>
        let (bs, s) := s.rowBytes c x cmd a
        let s := s.putBytes c (.ember c) a bs
        let last := (cmd.outLines x.micro).getLast? == some a
        let micro := if last then x.micro + 1 else x.micro
        .next (s.setCore c ((s.core c).setE 3 { x with
          lines := x.lines.drop 1, micro, last := if micro = cmd.rows then some s.now else x.last }))

/-- Whether a Temper command is done (R267). -/
def Eng.rowDone (x : Eng) (cmd : Cmd) : Bool := decide (x.micro = cmd.rows)

end Sys2Proof.Machine
end

