-- ==== Sys2Proof/Machine/Anvil.lean ====
section
/-! DEFINITION. The matrix engine (R296 to R320): MMA, MZERO, MSTORE and MLOAD at issue, fills, passes, tile reads and writes. -/

namespace Sys2Proof.Machine

/-! ### Issue -/

/-- The accumulator format of two operand formats (R67): 0 FP32, 1 INT32, 2 FP64. -/
def accFmt (a b : Nat) : Nat := if a = 0 && b = 0 then 2 else if (a = 6 || a = 7) && (b = 6 || b = 7) then 1 else 0

/-- The format that an operand counts as: an EBX operand its PFMT (R298). -/
def Desc.eff (d : Desc) : Nat := if d.fmt = 11 then d.pfmt else d.fmt

/-- K of a B format (R298). -/
def kOf (fmtB : Nat) : Nat := 1024 / bitsOf fmtB

/-- The A formats that R298 accepts with a B format; `ebx` says that A is an EBX stream of payload `a`. -/
def pairOk (a b : Nat) (ebx : Bool) : Bool :=
  match b with
  | 0 => a == 0 && !ebx
  | 1 => [1, 2, 3].contains a && !ebx
  | 2 | 3 => [2, 3, 4, 5, 6, 7, 8, 9, 10].contains a
  | 7 | 9 => [7, 9, 10].contains a
  | _ => [4, 5, 6, 7, 8, 9, 10].contains a

/-- The tile format that a command leaves. -/
def Cmd.leaves (cmd : Cmd) (acc tf : Nat) : Nat :=
  match cmd.kind with
  | .mma a _ _ useAcc _ => if a = acc && !useAcc then accFmt (desc cmd.ty).eff (desc cmd.tz).eff else tf
  | .mzero a f | .mload a f => if a = acc then f else tf
  | _ => tf

/-- The tile format as left by the Anvil commands already issued (R310). -/
def Core.tfLeft (c : Core) (acc : Nat) : Nat := (c.getE 2).queue.foldl (fun tf cmd => cmd.leaves acc tf) (vget c.tiles acc {}).tf

/-- The stamp offset that a prefix gives, and the target it makes (R313). -/
def Core.stampOf (c : Core) : Option Nat := c.pfx.bind (·.stamp)
def Core.target (c : Core) (n : Nat) : Nat := (c.csr.stbase.toNat + n) % 2 ^ 64

/-- Order 2 of R310: a stamp needs a power region. -/
def stampRegion (c : Core) : Except Halt Unit :=
  match c.stampOf with
  | some n => if c.csr.grant then .ok () else .error (.fault 0x12 (BitVec.ofNat 64 n))
  | none => .ok ()

/-- Order 7 of R310: the target lies ahead. The answer is the target. -/
def stampAhead (s : State) (c : Core) : Except Halt (Option Nat) :=
  match c.stampOf with
  | some n => if c.target n ≤ s.clock.stamp.toNat then .error (.fault 0x11 s.clock.stamp) else .ok (some (c.target n))
  | none => .ok none

/-- The checks of R310 at issue. -/
def mmaCmd (acc a b m n : Nat) (useAcc spa : Bool) (s : State) (c : Core) : Except Halt Cmd := do
  stampRegion c
  let da := desc (c.getTd a)
  let db := desc (c.getTd b)
  let k := kOf db.fmt
  let passes := ceilDiv n 256
  need a (!tdBad (c.getTd a) && !(isAq da.eff && da.grp == 3) && decide (da.fmt < 12) && da.own s.cur)
  need b (!tdBad (c.getTd b) && decide (db.fmt < 10) && db.space == 2 && db.base % 128 == 0 &&
    decide (db.base + 128 * ((passes - 1) * ceilDiv db.d1 k + 1) ≤ 524288) && !(db.fmt == 0 && decide (512 < n)))
  need a (pairOk da.eff db.fmt (da.fmt == 11) && (!spa || [2, 3, 4, 5, 6].contains da.fmt) &&
    !(da.fmt == 11 && (decide (k < da.d0) || decide (m < da.d1))) &&
    (!spa || (List.range da.d1).all fun j => da.addr 0 j % 1024 == 0) &&
    (!useAcc || c.tfLeft acc == accFmt da.eff db.eff))
  let cost := min n 256
  if c.csr.grant && decide (c.csr.level < cost) then .error (.fault 0x17 (BitVec.ofNat 64 cost))
  else
    let stamp ← stampAhead s c
    return { kind := .mma acc m n useAcc spa, y := a, z := b, ty := c.getTd a, tz := c.getTd b, stamp }

/-- MMA (R307): M is 16 × 2^m and N is 16 × n. `y` and `ty` hold tdA, `z` and `tz` hold tdB. -/
def execMMA (t : BitVec 2) (a b : BitVec 6) (m : BitVec 2) (n : BitVec 6) (c v : BitVec 1) (s : State) :
    Host.Outcome State Fault Refusal :=
  command 2 (mmaCmd t.toNat a.toNat b.toNat (16 * 2 ^ m.toNat) (16 * n.toNat) (c == 1) (v == 1)) s

/-- MZERO (R317). -/
def execMZERO (t f : BitVec 2) (s : State) : Host.Outcome State Fault Refusal :=
  command 2 (fun s c => do
    stampRegion c
    let stamp ← stampAhead s c
    return { kind := .mzero t.toNat f.toNat, stamp }) s

/-- Destination formats of MSTORE (R318). -/
def storeFmts (f : Nat) : Bool := isVecFmt f || f == 7 || isAq f

/-- MSTORE (R318). -/
def execMSTORE (t : BitVec 2) (y : BitVec 6) (s : State) : Host.Outcome State Fault Refusal :=
  command 2 (fun s c => do
    stampRegion c
    let dd := desc (c.getTd y.toNat)
    need y.toNat (!tdBad (c.getTd y.toNat) && (dd.space == 3 || dd.own s.cur) && storeFmts dd.fmt &&
      decide (dd.d0 ≤ (if c.tfLeft t.toNat = 2 then 512 else 1024)) && decide (dd.d1 ≤ 64))
    let stamp ← stampAhead s c
    return { kind := .mstore t.toNat, y := y.toNat, ty := c.getTd y.toNat, stamp }) s

/-- MLOAD (R319). -/
def execMLOAD (t : BitVec 2) (z : BitVec 6) (f : BitVec 2) (s : State) : Host.Outcome State Fault Refusal :=
  command 2 (fun s c => do
    stampRegion c
    let ds := desc (c.getTd z.toNat)
    need z.toNat (!tdBad (c.getTd z.toNat) && (ds.space == 3 || ds.own s.cur) && isVecFmt ds.fmt &&
      decide (ds.d0 ≤ (if f.toNat = 2 then 512 else 1024)) && decide (ds.d1 ≤ 64))
    let stamp ← stampAhead s c
    return { kind := .mload t.toNat f.toNat, z := z.toNat, tz := c.getTd z.toNat, stamp }) s

/-! ### Tiles (R297) -/

/-- Columns of a tile format. -/
def tileCols (tf : Nat) : Nat := if tf = 2 then 512 else 1024

def Tile.get (t : Tile) (r n : Nat) : Nat :=
  ((t.elems.find? fun e => e.1 == tileCols t.tf * r + n).map (·.2)).getD 0

/-- The value of an element. -/
def tileVal (tf enc : Nat) : Val := match tf with | 0 => fltVal 1 enc | 1 => Val.ofInt (signed 32 enc) | _ => fltVal 0 enc

/-- Two ascending lists of elements in one. -/
def mergeElems : (fuel : Nat) → List (Nat × Nat) → List (Nat × Nat) → List (Nat × Nat)
  | 0, a, b => a ++ b
  | _, [], b => b
  | _, a, [] => a
  | fuel + 1, x :: a, y :: b => if x.1 < y.1 then x :: mergeElems fuel a (y :: b) else y :: mergeElems fuel (x :: a) b

/-- The 64-bit word of its row that column `n` of a tile format stands in; words are numbered 512 to a row. -/
def tileWord (tf n : Nat) : Nat := if tf = 2 then n else n / 2

/-- The words of a tile with a single-bit error in rows below `rows` and columns from `lo` to `hi` (R391). -/
def Tile.weakIn (t : Tile) (rows lo hi : Nat) : Nat :=
  (t.weak.filter fun w => w / 512 < rows && tileWord t.tf lo ≤ w % 512 && w % 512 ≤ tileWord t.tf hi).length

/-- The words of a tile with a single-bit error that some elements, given by column and row, stand in. -/
def Tile.weakOf (t : Tile) (es : List (Nat × Nat)) : Nat :=
  (t.weak.filter fun w => es.any fun e => e.2 == w / 512 && tileWord t.tf e.1 == w % 512).length

/-- Replace elements: `new` by ascending index. A word written holds no single-bit error any more. -/
def Tile.put (t : Tile) (new : List (Nat × Nat)) : Tile :=
  let old := t.elems.filter fun e => !(new.any fun n => n.1 == e.1)
  let add := new.filter (·.2 != 0)
  { t with elems := mergeElems (old.length + add.length) old add, weak := t.weak.filter fun w => !(new.any fun n => tileWord t.tf n.1 == w) }

/-- The same bytes under another tile format (R297). -/
def Tile.recast (t : Tile) (tf : Nat) : Tile :=
  if t.tf = 2 && tf != 2 then
    { t with tf, elems := (t.elems.flatMap fun e => [(2 * e.1, e.2 % 2 ^ 32), (2 * e.1 + 1, e.2 / 2 ^ 32)]).filter (·.2 != 0) }
  else if t.tf != 2 && tf = 2 then
    { t with tf, elems := (dedup (t.elems.map (·.1 / 2))).map fun i =>
        (i, ((t.elems.filter fun e => e.1 / 2 == i).map fun e => if e.1 % 2 = 0 then e.2 else e.2 * 2 ^ 32).sum) }
  else { t with tf }

def Core.tile (c : Core) (n : Nat) : Tile := vget c.tiles n {}
def Core.setTile (c : Core) (n : Nat) (t : Tile) : Core := { c with tiles := vput c.tiles n t }

/-! ### Fills (R302 to R306) -/

/-- M, N, whether the tile is accumulated into, and the tile of an MMA. -/
def Cmd.mmaM (cmd : Cmd) : Nat := match cmd.kind with | .mma _ m _ _ _ => m | _ => 0
def Cmd.mmaN (cmd : Cmd) : Nat := match cmd.kind with | .mma _ _ n _ _ => n | _ => 0
def Cmd.mmaAcc (cmd : Cmd) : Bool := match cmd.kind with | .mma _ _ _ a _ => a | _ => false
def Cmd.tileNo (cmd : Cmd) : Nat := match cmd.kind with | .mma a .. | .mzero a _ | .mstore a | .mload a _ => a | _ => 0
def Cmd.isMma (cmd : Cmd) : Bool := match cmd.kind with | .mma .. => true | _ => false

/-- Rows and columns of the A tile that are read (R299). -/
def Cmd.fillN (cmd : Cmd) : Nat := min (kOf (desc cmd.tz).fmt) (desc cmd.ty).d0
def Cmd.fillM (cmd : Cmd) : Nat := min cmd.mmaM (desc cmd.ty).d1

/-- The stages of an MMA's source list: operand A, unless it is EBX, then the metadata of an AQ operand B. -/
def Cmd.fillA (cmd : Cmd) : List (List (Nat × Nat)) :=
  let da := desc cmd.ty
  if da.fmt = 11 then [] else da.stages cmd.sparse 0 cmd.fillN 0 cmd.fillM
def Cmd.fillB (cmd : Cmd) : List (List (Nat × Nat)) := (desc cmd.tz).bStages cmd.mmaN (kOf (desc cmd.tz).fmt)

/-- The lines of a structured-sparse A tile: first bit, and how many logical elements of the line the fill uses (R301, R306). -/
def Cmd.fillSparse (cmd : Cmd) : List (Nat × Nat) :=
  let da := desc cmd.ty
  (List.range cmd.fillM).flatMap fun j => (da.sparseBits 0 cmd.fillN j).zipIdx.map fun b => (b.1.1, cmd.fillN - sparsePer da.fmt * b.2)

/-- What decodes the EBX operand of a fill. -/
def Cmd.fillIn (cmd : Cmd) (s : State) (l : CoreId) (got : List Line) : EbxIn :=
  { d := desc cmd.ty, place := .ember l, check := if (s.core l).csr.lchk then some (cmd.y, desc cmd.ty) else none, task := none
    got, peek := fun a => s.readLine l (.ember l) a s.now, now := s.now, ranked := false }

/-- The first request list of a fill (R303, R304). The metadata lines of an AQ operand B follow the header line of an EBX operand A (log 131). -/
def Cmd.fillLines (cmd : Cmd) : List Nat :=
  let da := desc cmd.ty
  if da.fmt = 11 then dedup (linesOfBits (8 * da.base) 256 ++ stageLines cmd.fillB) else stageLines (cmd.fillA ++ cmd.fillB)

/-- Whether a fill is in progress (R302): it has not completed and has not been stopped. -/
def Core.filling (c : Core) : Bool := !(c.getE 2).frozen && c.fills.any fun f => f.done.isNone && f.held.isNone

def Core.fillOf (c : Core) (prog : Nat) : Option Fill := c.fills.find? (·.prog == prog)

/-- The MMA whose fill begins now, if one may (R302). -/
def Core.nextFill (c : Core) (now : Nat) : Option Cmd :=
  let x := c.getE 2
  if x.frozen || x.stop || 2 ≤ c.fills.length then none
  else
    let mmas := x.queue.filter (·.isMma)
    let earlier := mmas.takeWhile fun cmd => (c.fillOf cmd.prog).isSome
    match mmas.drop earlier.length with
    | [] => none
    | cmd :: _ =>
      let ready := earlier.all fun e => match c.fillOf e.prog with
        | none => true
        | some f => if f.ebx.isSome then f.done.isSome else f.shown
      if ready && decide (cmd.entry < now) && c.mayBegin now cmd then some cmd else none

/-- CRUCIBLE_FILL_START (R302). -/
def execCRUCIBLE_FILL_START (c : CoreId) (s : State) : Host.Outcome State Fault Refusal :=
  let k := s.core c
  match k.nextFill s.now with
  | none => .next s
  | some cmd =>
    let reqs := cmd.fillLines
    .next (s.setCore c { k with fills := k.fills ++
      [{ prog := cmd.prog, start := s.now, reqs, asked := reqs, shown := reqs.isEmpty, ebx := if (desc cmd.ty).fmt = 11 then some {} else none }] })

/-- The metadata bits of the elements that a fill of an EBX operand with an AQ or CB3 payload uses (R59, R306). -/
def Cmd.fillExtra (cmd : Cmd) : List (Nat × Nat) :=
  let da := desc cmd.ty
  if da.fmt != 11 then []
  else (dedup ((List.range cmd.fillM).flatMap fun j => (List.range cmd.fillN).map fun i => da.metaIdx da.pfmt i j)).flatMap
    (da.metaBits da.pfmt da.base)

/-- The fault that a fill has found (R306): the first in list order among the lines landed; those of EBX blocks are found as they are decoded. -/
def State.fillFault (s : State) (l : CoreId) (cmd : Cmd) (f : Fill) : Option (Byte × Word) :=
  let got := f.got.filter (·.landed s.now)
  let lchk := (s.core l).csr.lchk
  let chk (n : Nat) (d : BitVec 256) : Option (Nat × Desc) := if lchk then some (n, desc d) else none
  let da := desc cmd.ty
  let p := Place.ember l
  let one (check : Option (Nat × Desc)) (r : Nat × Nat) : Option (Byte × Word) := (bitsFaults got p r.1 r.2 check).head?
  let line (r : Nat × Nat) : Option (Byte × Word) :=
    let used := if bitsLanded got s.now p r.1 (sparseHead da.fmt) then sparseUsed da.fmt r.1 (bitsRead got p r.1 1024) r.2
      else [(r.1, sparseHead da.fmt)]
    match used.findSome? (one (chk cmd.y cmd.ty)) with
    | some e => some e
    | none =>
      if bitsLanded got s.now p r.1 1024 && sparseBad da.fmt (bitsRead got p r.1 1024) then some (0x13, p.tval (r.1 / 8)) else none
  let b := cmd.fillB.flatten.findSome? (one (chk cmd.z cmd.tz))
  if da.fmt = 11 then b.or (cmd.fillExtra.findSome? (one (chk cmd.y cmd.ty)))
  else (if cmd.sparse then cmd.fillSparse.findSome? line else cmd.fillA.flatten.findSome? (one (chk cmd.y cmd.ty))).or b

/-- The start of a cycle of the fills of a core: lines that EBX headers ask for, and faults. A held fault gives way to one found later that stands
before it in the list; the fault of an EBX block, which ends its decoding, to none (R306; log 30). -/
def State.fillStart (s : State) (l : CoreId) : State :=
  let c := s.core l
  if (c.getE 2).frozen then s
  else s.setCore l { c with fills := c.fills.map fun (f : Fill) =>
    match (c.getE 2).queue.find? (·.prog == f.prog) with
    | none => f
    | some cmd =>
      if f.done.isSome || (f.held.isSome && f.ebx.any (·.stage == .done)) then f
      else
        let f := match f.ebx with
          | none => f
          | some _ =>
            let new := if f.held.isSome then [] else ((cmd.fillIn s l f.got).list true).filter fun a => !f.asked.contains a
            { f with reqs := f.reqs ++ new, asked := f.asked ++ new }
        match s.fillFault l cmd f with
        | some e => { f with held := some e, reqs := [] }
        | none => f }

/-- The fill that completes now: its last line has landed or, for EBX, its last block was checked in an earlier cycle and no metadata is missing
(R304; log 30). -/
def Core.fillEnds (c : Core) (now : Nat) : Option Fill :=
  if (c.getE 2).frozen then none
  else c.fills.find? fun f => f.done.isNone && f.held.isNone && match f.ebx with
    | none => f.reqs.isEmpty && f.got.all (·.landed now)
    | some b => b.stage == .done && b.turn != some now && match (c.getE 2).queue.find? (·.prog == f.prog) with
      | none => true
      | some cmd => (cmd.fillExtra ++ cmd.fillB.flatten).all fun r => (linesOfBits r.1 r.2).all fun a =>
          !f.reqs.contains a && f.got.any fun x => x.addr == a && x.landed now

/-- CRUCIBLE_FILL_COMPLETE (R303, R304). -/
def execCRUCIBLE_FILL_COMPLETE (c : CoreId) (s : State) : Host.Outcome State Fault Refusal :=
  let k := s.core c
  match k.fillEnds s.now with
  | none => .next s
  | some f => .next (s.setCore c { k with fills := k.fills.map fun (g : Fill) => if g.prog == f.prog then { g with done := some s.now, reqs := [] } else g })

/-! ### EBX events (R304) -/

/-- The EBX fill that is being decoded. One that holds a fault goes on only over the lines it has. -/
def State.decodingFill (s : State) (l : CoreId) : Option (Fill × Ebx × EbxIn) :=
  let c := s.core l
  if (c.getE 2).frozen then none
  else c.fills.findSome? fun (f : Fill) => match f.ebx, (c.getE 2).queue.find? (·.prog == f.prog) with
    | some b, some cmd =>
      let xin := cmd.fillIn s l f.got
      if f.done.isNone && b.stage != .done && (f.held.isNone || b.ready xin) then some (f, b, xin) else none
    | _, _ => none

/-- A step of the EBX stream that Crucible of core `l` decodes in this cycle: a fill's, or else that of the COPYX served (R305). -/
def State.ebxStep (s : State) (l : CoreId) (stage : EbxStage → Bool) (f : Ebx → EbxIn → Except (Byte × Word) Ebx) : State :=
  let c := s.core l
  match s.decodingFill l with
  | some (fill, b, xin) =>
    if !(b.ready xin && stage b.stage) then s
    else
      let fill' := match f b xin with
        | .ok b => { fill with ebx := some b }
        | .error e => { fill with held := some e, reqs := [], ebx := some { b with stage := .done } }
      s.setCore l { c with fills := c.fills.map fun (g : Fill) => if g.prog == fill.prog then fill' else g }
  | none => match s.servedEbx l with
    | none => s
    | some (e, cmd, b) =>
      let x := c.getE e
      if !stage b.stage then s
      else match f b (cmd.ebxIn s l x.got) with
        | .ok b => s.setCore l (c.setE e { x with ebx := some b })
        | .error er => s.setCore l (c.setE e { x with held := some er })

/-- EBX_BLOCK_BUILD (R304): one of a block's two build cycles. -/
def execEBX_BLOCK_BUILD (c : CoreId) (s : State) : Host.Outcome State Fault Refusal :=
  .next (s.ebxStep c (fun t => t == .header || t == .build) Ebx.build)

/-- EBX_BLOCK_DECODE (R304): four units. -/
def execEBX_BLOCK_DECODE (c : CoreId) (s : State) : Host.Outcome State Fault Refusal :=
  .next (s.ebxStep c (fun t => match t with | .decode .. => true | _ => false) Ebx.decodeCycle)

/-- EBX_BLOCK_CHECK (R304). -/
def execEBX_BLOCK_CHECK (c : CoreId) (s : State) : Host.Outcome State Fault Refusal :=
  .next (s.ebxStep c (fun t => t == .check) Ebx.check)

/-! ### Passes (R296, R308, R309) -/

/-- Passes and the cycles of one. -/
def Cmd.passes (cmd : Cmd) : Nat := ceilDiv cmd.mmaN 256
def Cmd.acc (cmd : Cmd) : Nat := accFmt (desc cmd.ty).eff (desc cmd.tz).eff
def Cmd.passLen (cmd : Cmd) : Nat := if cmd.acc = 2 then cmd.mmaM else cmd.mmaM / 4
def Cmd.cost (cmd : Cmd) : Nat := min cmd.mmaN 256

/-- The columns of a pass that lie inside tdB (R300). -/
def Cmd.passCols (cmd : Cmd) (p : Nat) : List Nat :=
  (List.range (min cmd.mmaN (256 * p + 256) - 256 * p)).map (256 * p + ·)

/-- The byte of operand SRAM at which column `n` reads its line (R300). -/
def Cmd.bLine (cmd : Cmd) (n : Nat) : Nat :=
  let db := desc cmd.tz
  524288 * (n % 256) + db.base + 128 * (n / 256 * ceilDiv db.d1 (kOf db.fmt))

/-- Element a(k, r) of the A tile (R299, R301). -/
def Cmd.aVal (cmd : Cmd) (l : CoreId) (f : Fill) (k r : Nat) : Val :=
  let da := desc cmd.ty
  let rd : Rd := bitsRead f.got (.ember l)
  if cmd.fillN ≤ k || cmd.fillM ≤ r then .fin false 0 0
  else match f.ebx with
    | some b => da.expand da.pfmt da.base rd (b.field da.pfmt (r * da.d0 + k)) k r
    | none =>
      if cmd.sparse then
        let per := sparsePer da.fmt
        valOf da.fmt (sparseAt da.fmt (rd (da.addr 0 r + 1024 * (k / per)) 1024) (k % per))
      else da.expand da.fmt da.base rd (rd (da.addr k r) (bitsOf da.fmt)) k r

/-- Element b(n, k) from the B lines of the pass (R300). -/
def Cmd.bVal (cmd : Cmd) (l : CoreId) (f : Fill) (lines : List Line) (n k : Nat) : Val :=
  let db := desc cmd.tz
  if db.d0 ≤ n then .fin false 0 0
  else
    let bytes := ((lines.find? fun x => x.addr == cmd.bLine n).map (·.bytes)).getD []
    db.expand db.fmt 0 (bitsRead f.got (.ember l)) (bitsOfList bytes (k * bitsOf db.fmt) (bitsOf db.fmt)) n k

/-- One output element (R65, R66, R68): `old` is the accumulator's value when it is a term. -/
def mmaElem (tf : Nat) (old : Option Nat) (ab : List (Val × Val)) : Nat :=
  match tf with
  | 2 => (ab.foldl (fun (acc : Option Val) p =>
      some (fltVal 0 (roundV 0 (match acc with | none => p.1.mul p.2 | some c => Val.add .rne c (p.1.mul p.2)) .rne)))
      (old.map (fltVal 0))).elim 0 fun v => roundV 0 v .rne
  | _ =>
    let s0 : Sum := {}
    let s1 := match old with | none => s0 | some o => s0.add (tileVal tf o) 1
    let v := (ab.foldl (fun (s : Sum) p => s.add (p.1.mul p.2) 1) s1).val false
    if tf = 0 then roundV 1 v .rne else wrapTo 32 (toIntClamp (-2147483648) 2147483647 v .rne)

/-- The elements that pass `p` writes. -/
def Cmd.passElems (cmd : Cmd) (l : CoreId) (f : Fill) (lines : List Line) (t : Tile) (p : Nat) : List (Nat × Nat) :=
  let k := kOf (desc cmd.tz).fmt
  let cols := (cmd.passCols p).map fun n => (n, (List.range k).map fun i => cmd.bVal l f lines n i)
  (List.range cmd.mmaM).flatMap fun r =>
    let as := (List.range k).map fun i => cmd.aVal l f i r
    cols.map fun c => (tileCols cmd.acc * r + c.1, mmaElem cmd.acc (if cmd.mmaAcc then some (t.get r c.1) else none) (as.zip c.2))

/-- A stamped command's cycle has come and its region stands (R314, R315). -/
def stampHolds (s : State) (c : Core) (cmd : Cmd) : Bool :=
  match cmd.stamp with
  | none => true
  | some t => s.clock.stamp.toNat == t && c.csr.grant && cmd.miss.isNone

/-- The MMA at the head whose conditions 1, 2 and 4 of R309 hold, not in a pass: `sub` is 1 during a pass. -/
def State.mmaWaits (s : State) (l : CoreId) : Option (Cmd × Fill) :=
  let c := s.core l
  let x := c.getE 2
  match x.queue with
  | [] => none
  | cmd :: _ =>
    if !(x.active && cmd.isMma && x.sub == 0 && decide (x.micro < cmd.passes) && cmd.miss.isNone && stampHolds s c cmd) then none
    else match c.fillOf cmd.prog with
      | some f => if f.done.isSome then some (cmd, f) else none
      | none => none

/-- Condition 3 of R309. -/
def State.powered (s : State) (l : CoreId) : Bool :=
  (s.core l).csr.grant || ((s.core l).getE 2).grant == some s.now

/-- A pass begins in this cycle: the first one by R309, a later one behind the pass before it. -/
def State.passBegins (s : State) (l : CoreId) : Option (Cmd × Fill) :=
  match s.mmaWaits l with
  | some x => if s.powered l then some x else none
  | none => none

/-- ANVIL_PASS_START (R296, R309): the B lines are read; a poisoned one, or a poisoned tile row among the terms, freezes the command before the
pass takes effect (R310, R416). The tile has no address, so `tval` has no stated value for it (log 5). -/
def execANVIL_PASS_START (c : CoreId) (s : State) : Host.Outcome State Fault Refusal :=
  match s.passBegins c with
  | none => .next s
  | some (cmd, _) =>
    let k := s.core c
    let x := k.getE 2
    let db := desc cmd.tz
    let cols := (cmd.passCols x.micro).filter fun n => n < db.d0
    let bad := cols.findSome? fun n => k.sram.poisonIn (cmd.bLine n) 128
    let pois := (cols.map fun n => k.sram.poisonsIn (cmd.bLine n) 128).sum
    let weak := (cols.map fun n => k.sram.weakIn (cmd.bLine n) 128).sum
    let s := s.foundErrors c 1 weak pois (bad.getD 0)
    match bad with
    | some a => .next (s.engFault c 2 (0x1A, (Place.sram c).tval a))
    | none =>
      let t := k.tile cmd.tileNo
      let rows := if cmd.mmaAcc then (t.pois.filter (· < cmd.mmaM)).length else 0
      let s := s.foundErrors c 4 (if cmd.mmaAcc then t.weakIn cmd.mmaM (256 * x.micro) (min cmd.mmaN (256 * x.micro + 256) - 1) else 0) rows 0
      if rows != 0 then
        .next ((s.engFault c 2 (0x1A, BitVec.ofNat 64 (Config.wild s.fresh.1))).fresh.2)
      else
        let lines := cols.map fun n => ({ place := .sram c, addr := cmd.bLine n, bytes := k.sram.read (cmd.bLine n) 128 } : Line)
        let queue := match x.queue with | [] => [] | h :: t => { h with stamp := none } :: t
        let x := { x with
          queue, begun := some (x.begun.getD s.now), sub := 1, t0 := s.now, got := lines
          last := if x.micro + 1 = cmd.passes then some s.now else x.last }
        .next (s.setCore c ((s.core c).setE 2 x))

/-- ANVIL_PASS_END (R296, R308): the results are written at the end of the pass's last cycle; the next pass follows without a gap. A residue
failure poisons the rows of the pass (R416). -/
def execANVIL_PASS_END (c : CoreId) (residue : Bool) (s : State) : Host.Outcome State Fault Refusal :=
  let k := s.core c
  let x := k.getE 2
  match x.queue with
  | [] => .next s
  | cmd :: _ =>
    match (if x.active && x.sub = 1 && cmd.isMma && s.now + 1 = x.t0 + cmd.passLen then k.fillOf cmd.prog else none) with
    | none => .next s
    | some f =>
      let t := k.tile cmd.tileNo
      let t := if !cmd.mmaAcc && x.micro = 0 && t.tf != cmd.acc then { tf := cmd.acc } else t
      let t := t.put (cmd.passElems c f x.got t x.micro)
      let t := if residue then { t with pois := dedup (t.pois ++ List.range cmd.mmaM) } else t
      let s := if residue then s.logEntry 4 (s.physOf c) 6 k.task 0 else s
      let k := (k.setTile cmd.tileNo t).count 1 (ofBool residue)
      let p := x.micro + 1
      let k := if p = cmd.passes then { k with fills := k.fills.filter (·.prog != cmd.prog) } else k
      .next (s.setCore c (k.setE 2 { x with micro := p, sub := 0, got := [], grant := if p = cmd.passes then none else some (s.now + 1) }))

/-! ### MZERO, MSTORE and MLOAD (R316 to R320) -/

/-- The command at the head of Anvil begins by R320. -/
def State.tileBegins (s : State) (l : CoreId) (cmd : Cmd) : Bool :=
  let c := s.core l
  let x := c.getE 2
  !cmd.isMma && !x.laid && cmd.miss.isNone && stampHolds s c cmd && (x.begun.isSome || c.mayBegin s.now cmd)

/-- Destination lines of MSTORE, ascending (R318). -/
def Cmd.storeBits (cmd : Cmd) : List (Nat × Nat × Nat × Nat) :=
  let dd := desc cmd.ty
  (List.range dd.d1).flatMap fun j => (List.range dd.d0).map fun i => (i, j, dd.addr i j, bitsOf dd.fmt)
def Cmd.storeLines (cmd : Cmd) : List Nat := dedup (sortBy id (cmd.storeBits.flatMap fun x => linesOfBits x.2.2.1 x.2.2.2))

/-- The metadata bits that MSTORE needs for element (i, j). -/
def Cmd.storeMeta (cmd : Cmd) (i j : Nat) : List (Nat × Nat) :=
  let dd := desc cmd.ty
  if isAq dd.fmt then dd.metaBits dd.fmt dd.base (dd.metaIdx dd.fmt i j) else []

/-- The elements of MSTORE in a line. -/
def Cmd.storeIn (cmd : Cmd) (a : Nat) : List (Nat × Nat × Nat × Nat) :=
  cmd.storeBits.filter fun x => 8 * a < x.2.2.1 + x.2.2.2 && x.2.2.1 < 8 * (a + 64)

/-- Conv of R318. -/
def storeConv (dd : Desc) (rd : Rd) (v : Val) (i j : Nat) : Nat :=
  match (if isAq dd.fmt then dd.metaBits dd.fmt dd.base (dd.metaIdx dd.fmt i j) else []) with
  | [(a, _), (b, n)] => quantise v (rd a 16) (rd b n) n
  | _ => convertV dd.fmt v

/-- The rows of an MLOAD's source. -/
def Cmd.loadRow (cmd : Cmd) (j : Nat) : List (Nat × Nat) := (desc cmd.tz).rowBits 0 (desc cmd.tz).d0 j

/-- The start of a cycle for MZERO, MSTORE and MLOAD: they are laid when they begin; MSTORE's and MLOAD's faults are raised. -/
def State.tileLay (s : State) (l : CoreId) (cmd : Cmd) : State :=
  let c := s.core l
  let x := c.getE 2
  if !s.tileBegins l cmd then s
  else
    let queue := match x.queue with | [] => [] | h :: t => { h with stamp := none } :: t
    let x := { x with queue, laid := true, begun := some (x.begun.getD s.now), t0 := s.now, got := [], sub := 0 }
    let x := match cmd.kind with
      | .mstore _ =>
        let p := (desc cmd.ty).place l
        { x with
          lines := (cmd.storeLines.drop x.micro).map fun a => (p, a)
          plan := (stageLines [cmd.storeBits.flatMap fun e => cmd.storeMeta e.1 e.2.1]).map fun a => (p, a) }
      | .mload .. =>
        let p := (desc cmd.tz).place l
        { x with plan := (stageLines [(List.range ((desc cmd.tz).d1 - x.micro)).flatMap fun j => cmd.loadRow (x.micro + j)]).map fun a => (p, a) }
      | _ => x
    s.setCore l (c.setE 2 x)

/-- Whether the metadata of MSTORE's next line has landed. -/
def Eng.storeReady (x : Eng) (cmd : Cmd) (l : CoreId) (now : Nat) (a : Nat) : Bool :=
  (cmd.storeIn a).all fun e => (cmd.storeMeta e.1 e.2.1).all fun b => bitsLanded x.got now ((desc cmd.ty).place l) b.1 b.2

/-- The poisoned rows of its tile that MSTORE's next line takes elements of (R416). -/
def Core.storesPoison (c : Core) (cmd : Cmd) (a : Nat) : List Nat :=
  dedup (((cmd.storeIn a).map (·.2.1)).filter ((c.tile cmd.tileNo).pois.contains ·))

/-- What MSTORE's next line finds in its tile is counted and logged (R391, R416). -/
def State.countTile (s : State) (l : CoreId) (cmd : Cmd) (a : Nat) : State :=
  s.foundErrors l 4 (((s.core l).tile cmd.tileNo).weakOf ((cmd.storeIn a).map fun e => (e.1, e.2.1))) ((s.core l).storesPoison cmd a).length 0

/-- The fault of MSTORE's next line: its place, its metadata, a poisoned tile row (R318, R416). -/
def State.storeFault (s : State) (l : CoreId) (x : Eng) (cmd : Cmd) (a : Nat) : Option (Byte × Word) :=
  let c := s.core l
  let p := (desc cmd.ty).place l
  let es := cmd.storeIn a
  let check := if c.csr.lchk then some (cmd.y, desc cmd.ty) else none
  let metas := es.flatMap fun e => (cmd.storeMeta e.1 e.2.1).flatMap fun b => bitsFaults x.got p b.1 b.2 check
  let first := (es.map fun e => e.2.2.1 / 8).foldl min (a + 63)
  let pois := if (c.storesPoison cmd a).isEmpty then [] else [((0x1A : Byte), BitVec.ofNat 64 (Config.wild s.fresh.1))]
  firstByRank ((s.writeFault l p (max a first)).toList ++ metas ++ pois)

/-- Whether every line of MLOAD's row has landed. -/
def Eng.rowLanded (x : Eng) (cmd : Cmd) (l : CoreId) (now j : Nat) : Bool :=
  (cmd.loadRow j).all fun b => bitsLanded x.got now ((desc cmd.tz).place l) b.1 b.2

/-- The fault of MLOAD's row (R319). -/
def State.loadFault (s : State) (l : CoreId) (x : Eng) (cmd : Cmd) (j : Nat) : Option (Byte × Word) :=
  firstByRank ((cmd.loadRow j).flatMap fun b =>
    bitsFaults x.got ((desc cmd.tz).place l) b.1 b.2 (if (s.core l).csr.lchk then some (cmd.z, desc cmd.tz) else none))

/-- The start of a cycle on Anvil: a held fault or a schedule miss is raised at the head (R306, R310), or a tile command goes on. -/
def State.anvilStart (s : State) (l : CoreId) (cmd : Cmd) : State :=
  let c := s.core l
  let x := c.getE 2
  if cmd.isMma && x.sub = 1 then s
  else match (c.fillOf cmd.prog).bind (·.held) with
    | some f => s.engFault l 2 f
    | none => match cmd.miss with
      | some t => s.engFault l 2 (0x11, t)
      | none =>
        let s := s.tileLay l cmd
        let x := (s.core l).getE 2
        if !x.laid then s
        else match cmd.kind, x.lines with
          | .mstore _, (_, a) :: _ =>
            if x.storeReady cmd l s.now a then match s.storeFault l x cmd a with
              | some f => ((s.countTile l cmd a).engFault l 2 f).fresh.2
              | none => s
            else s
          | .mload .., _ =>
            let s := if x.last.isNone && x.plan.isEmpty && x.got.all (!·.bytes.isEmpty) then
                s.setCore l ((s.core l).setE 2 { x with last := some (s.now - 1) }) else s
            let x := (s.core l).getE 2
            if decide (x.micro < (desc cmd.tz).d1) && x.rowLanded cmd l s.now x.micro then match s.loadFault l x cmd x.micro with
              | some f => s.engFault l 2 f
              | none => s
            else s
          | _, _ => s

/-- MZERO_WRITE (R317): the tile is zero at the end of the sixteenth cycle. -/
def execMZERO_WRITE (c : CoreId) (s : State) : Host.Outcome State Fault Refusal :=
  let k := s.core c
  let x := k.getE 2
  match x.queue with
  | [] => .next s
  | cmd :: _ => match cmd.kind with
    | .mzero a f =>
      if x.active && x.laid && x.sub = 0 && s.now = x.t0 + 15 then
        .next (s.setCore c ((k.setTile a { tf := f }).setE 2 { x with sub := 2 }))
      else .next s
    | _ => .next s

/-- The line that MSTORE writes next: its metadata has landed; a release waits for its order. -/
def State.mstoreAsk (s : State) (l : CoreId) (x : Eng) (cmd : Cmd) : Option (Place × Nat) :=
  match cmd.kind, x.lines with
  | .mstore _, u :: rest =>
    if !(x.laid && x.storeReady cmd l s.now u.2) || (s.storeFault l x cmd u.2).isSome then none
    else if cmd.rel && rest.isEmpty && !(s.core l).mayRelease s.now cmd.prog then none
    else some u
  | _, _ => none

/-- MSTORE_LINE_WRITE (R318). -/
def execMSTORE_LINE_WRITE (c : CoreId) (s : State) : Host.Outcome State Fault Refusal :=
  let k := s.core c
  let x := k.getE 2
  match x.queue with
  | [] => .next s
  | cmd :: _ => match (if x.active then s.mstoreAsk c x cmd else none) with
    | none => .next s
    | some (p, a) =>
      let dd := desc cmd.ty
      let t := k.tile cmd.tileNo
      let fields := (cmd.storeIn a).map fun e =>
        (e.2.2.1, e.2.2.2, storeConv dd (bitsRead x.got p) (tileVal t.tf (t.get e.2.1 e.1)) e.1 e.2.1)
      let s := s.countTile c cmd a
      let s := s.putBytes c p a (unitWrite a 64 fields (s.curByte c p))
      let lines := x.lines.drop 1
      .next (s.setCore c ((s.core c).setE 2 { x with
        lines, micro := x.micro + 1, last := if lines.isEmpty then some s.now else x.last }))

/-- MLOAD's next row, when its lines have landed by the end of the cycle (R319); row D1 stands for the rows from D1 on, a cycle later. -/
def Eng.mloadRow (x : Eng) (cmd : Cmd) (l : CoreId) (now : Nat) : Option Nat :=
  match cmd.kind with
  | .mload .. =>
    let d1 := (desc cmd.tz).d1
    if !x.laid then none
    else if x.micro < d1 then (if x.rowLanded cmd l now x.micro then some x.micro else none)
    else if x.micro = d1 && d1 < 64 && decide (x.sub < now) then some d1
    else none
  | _ => none

/-- The rows of MLOAD that are written at the end of this cycle. -/
def Eng.mloadRows (x : Eng) (cmd : Cmd) (l : CoreId) (now : Nat) : Nat :=
  let next (k : Nat) : Eng := { x with micro := x.micro + k, sub := if k = 0 then x.sub else now }
  ((List.range 64).takeWhile fun k => ((next k).mloadRow cmd l now).isSome).length

/-- MLOAD_ROW_WRITE (R319): a row, or the rows from D1 to 63 together. `sub` keeps the cycle of the last row written. -/
def execMLOAD_ROW_WRITE (c : CoreId) (s : State) : Host.Outcome State Fault Refusal :=
  let k := s.core c
  let x := k.getE 2
  match x.queue with
  | [] => .next s
  | cmd :: _ => match cmd.kind, (if x.active then x.mloadRow cmd c s.now else none) with
    | .mload a f, some j =>
      let ds := desc cmd.tz
      match (if j < ds.d1 then s.loadFault c x cmd j else none) with
      | some f => .next (s.engFault c 2 f)
      | none =>
        let t := (k.tile a).recast f
        let cols := tileCols f
        let last := j = ds.d1
        let rows := if last then 64 - j else 1
        let keep := { t with elems := t.elems.filter (fun e => e.1 < cols * j || cols * (j + rows) ≤ e.1)
                             pois := t.pois.filter fun r => r < j || j + rows ≤ r
                             weak := t.weak.filter fun w => w / 512 < j || j + rows ≤ w / 512 }
        let rd : Rd := bitsRead x.got (ds.place c)
        let new := if last then [] else (List.range ds.d0).map fun i =>
          let v := valOf ds.fmt (rd (ds.addr i j) (bitsOf ds.fmt))
          (cols * j + i, match f with | 0 => roundV 1 v .rne | 1 => convertV 13 v | _ => roundV 0 v .rne)
        .next (s.setCore c ((k.setTile a (keep.put new)).setE 2 { x with micro := j + 1, sub := s.now }))
    | _, _ => .next s

/-- Whether the command at the head of Anvil is done (R267). -/
def Eng.anvilDone (x : Eng) (cmd : Cmd) : Bool :=
  match cmd.kind with
  | .mma .. => decide (x.micro = cmd.passes)
  | .mzero .. => x.sub == 2
  | .mstore _ => x.laid && x.lines.isEmpty
  | .mload .. => decide (x.micro = min 64 ((desc cmd.tz).d1 + 1))
  | _ => false

/-- Back-pressure and fill cycles of a core (R391), counted once its passes of the cycle have begun. -/
def Core.countAnvil (c : Core) : Core :=
  let x := c.getE 2
  let c := c.count 15 (ofBool c.filling)
  match x.queue with
  | [] => c
  | cmd :: _ => if x.active && cmd.isMma && x.sub = 0 && x.micro = 0 then c.count 3 1 else c

end Sys2Proof.Machine
end

