-- ==== Sys2Proof/Machine/Link.lean ====
section
/-! DEFINITION. The LINK major (R392 to R403): checks at issue, streams, flits sent and received. The link engine has no rank among the
requesters of R206: its accesses take no bank and are made in the cycle of their flit (log 31). -/

namespace Sys2Proof.Machine

/-! ### Issue -/

/-- A route word that R394 refuses. -/
def routeBad (w : Word) (topk : Bool) : Bool :=
  fld w 24 40 != 0 || fld w 14 2 != 0 || fld w 6 2 != 0 || (if topk then fld w 16 8 == 0 else fld w 16 8 != 0)

/-- Order 3 of R397: the port is trained and its neighbour a chorus member, which a leaving one is until its LEAVE takes effect (R375). -/
def portUp (s : State) (p : PortId) : Bool :=
  (s.port p).trained && s.chorus.members.any fun m => some m.idx == (s.port p).peer && m.idx != s.chorus.self && (m.st == 2 || m.st == 3)

/-- The checks of R397; `ds` are the descriptors with what R398 asks of them, `stamps` says that the form takes STAMP. -/
def linkCmd (kind : CmdKind) (b : Nat) (p : PortId) (topk : Bool) (ds : List (Nat × (Desc → Bool))) (y z : Option Nat)
    (s : State) (c : Core) : Except Halt Cmd := do
  stampRegion c
  let route := vget c.b b 0
  if !portUp s p then .error (.fault 0x09 (BitVec.ofNat 64 p.val))
  else match ds.find? fun d => tdBad (c.getTd d.1) || !d.2 (desc (c.getTd d.1)) with
    | some d => badTd d.1
    | none =>
      need (64 + b) (!routeBad route topk)
      let stamp ← stampAhead s c
      return { kind, y := y.getD 0, z := z.getD 0, ty := (y.map c.getTd).getD 0, tz := (z.map c.getTd).getD 0, bound := some route, stamp }

/-- LXFER (R396). -/
def execLXFER (b : BitVec 4) (z : BitVec 6) (p : BitVec 4) (s : State) : Host.Outcome State Fault Refusal :=
  let port : PortId := p.toFin
  command 5 (fun s c => linkCmd (.lxfer port) b.toNat port false
    [(z.toNat, fun d => (d.own s.cur || d.space == 2 || d.space == 3) && !([7, 10, 11].contains d.fmt))] none (some z.toNat) s c) s

/-- LRECV (R396). -/
def execLRECV (b : BitVec 4) (y : BitVec 6) (p : BitVec 4) (s : State) : Host.Outcome State Fault Refusal :=
  let port : PortId := p.toFin
  command 5 (fun s c => linkCmd (.lrecv port) b.toNat port false
    [(y.toNat, fun d => (d.own s.cur || d.space == 3) && (isVecFmt d.fmt || isAq d.fmt))] (some y.toNat) none s c) s

/-- LRED (R396). -/
def execLRED (b : BitVec 4) (y z : BitVec 6) (p : BitVec 4) (s : State) : Host.Outcome State Fault Refusal :=
  let port : PortId := p.toFin
  command 5 (fun s c =>
    let dz := desc (c.getTd z.toNat)
    linkCmd (.lred port) b.toNat port false
      [(y.toNat, fun d => (d.own s.cur || d.space == 3) && [1, 2, 3, 8, 9].contains d.fmt && d.d0 == dz.d0 && d.d1 == dz.d1),
       (z.toNat, fun d => d.own s.cur && [1, 2, 3, 4, 5, 6, 8, 9].contains d.fmt)] (some y.toNat) (some z.toNat) s c) s

/-- LTOPK (R396). -/
def execLTOPK (b : BitVec 4) (y z : BitVec 6) (p : BitVec 4) (s : State) : Host.Outcome State Fault Refusal :=
  let port : PortId := p.toFin
  command 5 (fun s c =>
    let dz := desc (c.getTd z.toNat)
    linkCmd (.ltopk port) b.toNat port true
      [(y.toNat, fun d => d.own s.cur && d.fmt == 1 && d.d0 == dz.d0 && d.d1 == dz.d1),
       (z.toNat, fun d => d.own s.cur && [1, 2, 3].contains d.fmt)] (some y.toNat) (some z.toNat) s c) s

/-! ### Streams (R393) -/

/-- Element `e` of an image, in stream order. -/
def Desc.at_ (d : Desc) (e : Nat) : Nat := d.addr (e % d.d0) (e / d.d0)
/-- The bytes of a dense stream, each as the source bits it packs, lowest first. -/
def denseBytes (d : Desc) : List (List (Nat × Nat)) :=
  let w := bitsOf d.fmt
  if isAq d.fmt then
    (List.range d.d1).flatMap fun j => (List.range (ceilDiv d.d0 (d.span d.fmt))).flatMap fun g =>
      let i := g * d.span d.fmt
      let n := min (d.span d.fmt) (d.d0 - i)
      let head := match d.metaBits d.fmt d.base (d.metaIdx d.fmt i j) with
        | [(a, _), (b, k)] => [[(a, 8)], [(a + 8, 8)], [(b, k)]]
        | _ => []
      head ++ (if w = 8 then (List.range n).map fun k => [(d.addr (i + k) j, 8)]
        else (List.range (ceilDiv n 2)).map fun k =>
          (d.addr (i + 2 * k) j, 4) :: (if 2 * k + 1 < n then [(d.addr (i + 2 * k + 1) j, 4)] else []))
  else (List.range d.count).flatMap fun e => (List.range (w / 8)).map fun b => [(d.at_ e + 8 * b, 8)]

/-- Where element `e` of a dense stream of the given header stands: its first bit and width, and the bytes of its scale and zero point. -/
def densePos (fmt grp d0 e : Nat) : Nat × Nat × Option (Nat × Nat) :=
  let w := bitsOf fmt
  if isAq fmt then
    let g := 32 * 2 ^ grp
    let full := 3 + g * w / 8
    let n := ceilDiv d0 g
    let row := (n - 1) * full + 3 + ceilDiv ((d0 - (n - 1) * g) * w) 8
    let i := e % d0
    let head := e / d0 * row + i / g * full
    (8 * (head + 3) + i % g * w, w, some (head, head + 2))
  else (e * w, w, none)

/-- The lines that hold some bits, read now, for the link engine. -/
def State.linesNow (s : State) (l : CoreId) (p : Place) (bits : List (Nat × Nat)) : List Line :=
  (dedup (bits.flatMap fun b => linesOfBits b.1 b.2)).map fun a => s.readLine l p a s.now

/-- The lines of some bits of a tensor in global space. -/
def Desc.globLines (d : Desc) (bits : List (Nat × Nat)) : List Nat :=
  if d.space = 3 then dedup (bits.flatMap fun b => linesOfBits b.1 b.2) else []

/-- The faults of reading some bits now. -/
def State.faultsNow (s : State) (l : CoreId) (n : Nat) (image : BitVec 256) (bits : List (Nat × Nat)) : List (Byte × Word) :=
  let d := desc image
  let got := s.linesNow l (d.place l) bits
  bits.flatMap fun b => bitsFaults got (d.place l) b.1 b.2 (if (s.core l).csr.lchk then some (n, d) else none)

/-- The chosen elements of each block of LTOPK, ascending (R399): `xs` are the encodings in stream order. -/
def topkChoose (fmt k : Nat) (xs : List Nat) : List Nat :=
  let key (x : Nat) : Nat := if fltVal fmt x = .nan then 0 else 2 ^ bitsOf fmt - x % 2 ^ (bitsOf fmt - 1)
  (List.range (ceilDiv xs.length 256)).flatMap fun b =>
    let es := ((xs.drop (256 * b)).take 256).zipIdx.map fun x => (x.1, 256 * b + x.2)
    sortBy id (((sortBy (fun x => key x.1) es).take k).map (·.2))

/-- Flits of a stream. -/
def flitsOf (bytes : Nat) : Nat := max 1 (ceilDiv bytes 224)

/-- Bytes of a sender's stream. -/
def Cmd.streamBytes (cmd : Cmd) : Nat :=
  match cmd.kind with
  | .ltopk _ => 8 * cmd.pairCount
  | _ => (denseBytes (desc cmd.tz)).length

/-! ### Writes -/

/-- The first fault of writing some fields, and the fields written line by line. -/
def State.writeFaults (s : State) (l : CoreId) (p : Place) (fs : List Field) : Option (Byte × Word) :=
  (dedup (sortBy id (fs.flatMap fun f => linesOfBits f.1 f.2.1))).findSome? fun a =>
    s.writeFault l p (max a ((fs.filter fun f => 8 * a < f.1 + f.2.1 && f.1 < 8 * (a + 64)).foldl (fun m f => min m (f.1 / 8)) (a + 63)))

def State.writeFields (s : State) (l : CoreId) (p : Place) (fs : List Field) : State :=
  (dedup (sortBy id (fs.flatMap fun f => linesOfBits f.1 f.2.1))).foldl
    (fun s a => s.putBytes l p a (unitWrite a 64 fs (s.curByte l p))) s

/-! ### Beginning -/

/-- The command at the head of the link engine begins now (R401). -/
def State.linkBegins (s : State) (l : CoreId) (cmd : Cmd) : Bool :=
  let c := s.core l
  let x := c.getE 5
  x.active && x.begun.isNone && cmd.miss.isNone && stampHolds s c cmd && c.mayBegin s.now cmd

/-- The start of a cycle on the link engine. -/
def State.linkStart (s : State) (l : CoreId) (cmd : Cmd) : State :=
  let c := s.core l
  match cmd.miss, cmd.lost with
  | some t, _ => s.engFault l 5 (0x11, t)
  | none, some m => s.engFault l 5 (0x19, BitVec.ofNat 64 m)
  | none, none => if s.linkBegins l cmd then s.setCore l (c.setE 5 { c.getE 5 with begun := some s.now }) else s

/-- A link engine that may go on. `sub` is 1 once the last flit has been sent or received. -/
def Eng.linkGoes (x : Eng) : Bool := x.active && x.begun.isSome && x.sub = 0

/-! ### Sending -/

/-- What a LTOPK's next micro-step works on (R399): the encodings of its source, the elements it sends, those whose residuals it writes, and the
source bits that it reads. -/
structure TopkStep where
  xs   : List Nat
  mine : List Nat
  rest : List Nat
  used : List (Nat × Nat)

def State.topkStep (s : State) (l : CoreId) (x : Eng) (cmd : Cmd) : TopkStep :=
  let d := desc cmd.tz
  let p := d.place l
  let all := (List.range d.count).map fun e => (d.at_ e, bitsOf d.fmt)
  let got := s.linesNow l p all
  let xs := all.map fun b => bitsRead got p b.1 b.2
  let chosen := topkChoose d.fmt cmd.topK xs
  let mine := (chosen.drop (28 * x.micro)).take 28
  let after := 28 * x.micro + mine.length
  let k := min cmd.topK 256
  let blocks := (List.range (ceilDiv d.count 256)).filter fun b =>
    let last := if b * 256 + 256 ≤ d.count then (b + 1) * k else cmd.pairCount
    28 * x.micro < last && last ≤ after
  { xs, mine
    rest := blocks.flatMap fun b => ((List.range (min 256 (d.count - 256 * b))).map (256 * b + ·)).filter fun e => !chosen.contains e
    used := (dedup (mine.map (· / 256) ++ blocks)).flatMap fun b =>
      (List.range (min 256 (d.count - 256 * b))).map fun i => (d.at_ (256 * b + i), bitsOf d.fmt) }

/-- The bits of the residual tensor that a LTOPK's micro-step reads and writes. -/
def Cmd.residuals (cmd : Cmd) (rest : List Nat) : List (Nat × Nat) := rest.map fun e => ((desc cmd.ty).at_ e, 32)

/-- The bits of a dense stream's next flit, byte by byte. -/
def Cmd.flitParts (cmd : Cmd) (micro : Nat) : List (List (Nat × Nat)) := ((denseBytes (desc cmd.tz)).drop (224 * micro)).take 224

/-- What a sender's next micro-step reads: places with their bits. -/
def State.sendReads (s : State) (l : CoreId) (x : Eng) (cmd : Cmd) : List (Place × List (Nat × Nat)) :=
  match cmd.kind with
  | .ltopk _ =>
    let k := s.topkStep l x cmd
    [((desc cmd.tz).place l, k.used), ((desc cmd.ty).place l, cmd.residuals k.rest)]
  | _ => [((desc cmd.tz).place l, (cmd.flitParts x.micro).flatten)]

/-- The corrected and poisoned words of what the link engine reads now are counted and logged (R204, R391, R416). -/
def State.countReads (s : State) (l : CoreId) (rs : List (Place × List (Nat × Nat))) : State :=
  (rs.flatMap fun r => s.linesNow l r.1 r.2).foldl (fun s ln => s.countLine l ln) s

/-- What a sender's next micro-step reads and gives: the faults met, the payload, and the residual writes of LTOPK. -/
def State.sendStep (s : State) (l : CoreId) (x : Eng) (cmd : Cmd) : Option (Byte × Word) × List Byte × List Field :=
  let d := desc cmd.tz
  let p := d.place l
  match cmd.kind with
  | .ltopk _ =>
    let ⟨xs, mine, rest, used⟩ := s.topkStep l x cmd
    let bytes := mine.flatMap fun e => leBytes 4 e ++ leBytes 4 (xs.getD e 0)
    let r := desc cmd.ty
    let rbits := cmd.residuals rest
    let rgot := s.linesNow l (r.place l) rbits
    let fields := rest.map fun e =>
      (r.at_ e, 32, roundV 1 (Val.add .rne (fltVal 1 (bitsRead rgot (r.place l) (r.at_ e) 32)) (valOf d.fmt (xs.getD e 0))) .rne)
    (firstByRank (s.faultsNow l cmd.z cmd.tz used ++ s.faultsNow l cmd.y cmd.ty rbits ++ (s.writeFaults l (r.place l) fields).toList),
      bytes, fields)
  | _ =>
    let parts := cmd.flitParts x.micro
    let bits := parts.flatten
    let got := s.linesNow l p bits
    let byte (ps : List (Nat × Nat)) : Byte :=
      BitVec.ofNat 8 (ps.foldr (fun b acc => bitsRead got p b.1 b.2 + 2 ^ b.2 * acc) 0)
    (firstByRank (s.faultsNow l cmd.z cmd.tz bits), parts.map byte, [])

/-- Whether the port gives credit for the next flit of a command (R395): surely for the first 64 to its core; after those the store at the far end may
be full (log 49). -/
def State.credited (s : State) (cmd : Cmd) : Bool :=
  let n := ((s.port cmd.port).sent.filter (·.dst == cmd.peer)).length
  decide (n < 64) || Config.credit cmd.port.val n s.now

/-- Whether a sender presents a flit now. -/
def State.linkSends (s : State) (l : CoreId) : Option Cmd :=
  let x := (s.core l).getE 5
  match x.queue with
  | [] => none
  | cmd :: _ =>
    if !(x.linkGoes && cmd.sends && s.credited cmd) then none
    else if cmd.rel && x.micro + 1 == flitsOf cmd.streamBytes && !(s.core l).mayRelease s.now cmd.prog then none
    else some cmd

/-- LINK_FLIT_SEND (R393, R400): one flit, and the residuals of the blocks it ends. -/
def execLINK_FLIT_SEND (c : CoreId) (s : State) : Host.Outcome State Fault Refusal :=
  match s.linkSends c with
  | none => .next s
  | some cmd =>
    let x := (s.core c).getE 5
    let d := desc cmd.tz
    match s.sendStep c x cmd with
    | (some f, _, _) => .next ((s.countReads c (s.sendReads c x cmd)).engFault c 5 f)
    | (none, bytes, fields) =>
      let s := s.countReads c (s.sendReads c x cmd)
      let last := x.micro + 1 == flitsOf cmd.streamBytes
      let pairs := match cmd.kind with | .ltopk _ => true | _ => false
      let flit : Flit := {
        src := c, dst := cmd.peer, chan := BitVec.ofNat 6 cmd.chan, index := x.micro, last, pairs
        npairs := if pairs then cmd.pairCount else 0, fmt := BitVec.ofNat 4 d.fmt, grp := BitVec.ofNat 2 d.grp, d0 := d.d0, d1 := d.d1
        release := cmd.rel && decide (4 ≤ cmd.scope), payload := bytes ++ List.replicate (224 - bytes.length) 0 }
      let s := s.notesReads c 4 (d.globLines (cmd.flitParts x.micro).flatten)
      let s := s.writeFields c (desc cmd.ty |>.place c) fields
      let port := s.port cmd.port
      let s := s.setPort cmd.port { port with sent := port.sent ++ [flit] }
      .next (s.setCore c ((s.core c).setE 5 { x with
        micro := x.micro + 1, sub := ofBool last, last := if last then some s.now else x.last }))

/-! ### Receiving -/

/-- Flits that the inbound store of a core holds (R395). -/
def Port.held (p : Port) (c : CoreId) : Nat := (p.store.filter (·.dst == c)).length

/-- LINK_FLIT_ARRIVAL (R395, R411): a flit enters the inbound store of its core while the port gives credit. A flit that fails its authentication is
dropped and logged; a port that has failed 16 times is no longer trained. -/
def arriveFlit (s : State) (p : PortId) (flit : Flit) : State :=
  let port := s.port p
  let k := (flit.src, flit.dst, flit.chan)
  if port.trained && port.skip.contains k then s.setPort p { port with skip := if flit.last then port.skip.erase k else port.skip }
  else if port.trained && decide (port.held flit.dst < 64) then s.setPort p { port with store := port.store ++ [flit] } else s

/-- The flit that a receiver takes next. -/
def State.nextFlit (s : State) (l : CoreId) (cmd : Cmd) : Option Flit :=
  (s.port cmd.port).store.find? fun f => f.dst == l && f.src == cmd.peer && f.chan.toNat == cmd.chan

/-- Remove the first flit that equals `f`. -/
def dropFlit : List Flit → Flit → List Flit
  | [], _ => []
  | x :: t, f => if x == f then t else x :: dropFlit t f

/-- A stream that its receiver refuses: a size that differs, a format it may not carry, or an end before the size its header states (R399, R400). -/
def streamBad (cmd : Cmd) (f : Flit) (received : Nat) : Bool :=
  let dd := desc cmd.ty
  let fmt := f.fmt.toNat
  let need := if f.pairs then 8 * f.npairs else match densePos fmt f.grp.toNat f.d0 (f.d0 * f.d1 - 1) with | (b, w, _) => (b + w + 7) / 8
  (!f.pairs && f.d0 * f.d1 != dd.count) ||
  (match cmd.kind with
    | .lrecv _ => isAq dd.fmt && (f.pairs || fmt != dd.fmt || f.grp.toNat != dd.grp)
    | _ => false) ||
  (f.last && decide (received < need))

/-- The exact value of element `e` of a dense stream. -/
def denseVal (f : Flit) (bytes : List Byte) (e : Nat) : Val :=
  let fmt := f.fmt.toNat
  match densePos fmt f.grp.toNat f.d0 e with
  | (b, w, some (c, z)) => (fltVal 3 (bitsOfList bytes (8 * c) 16)).mul (Val.ofInt ((bitsOfList bytes b w : Int) - bitsOfList bytes (8 * z) w))
  | (b, w, none) => valOf fmt (bitsOfList bytes b w)

/-- The elements that a flit completes (R400), of a stream whose first `old` bytes had come before and of which `bytes` have come: the element and
its value with its stored field. Elements of LRED that no pair names have the value +0. -/
def flitElems (cmd : Cmd) (f : Flit) (bytes : List Byte) (old : Nat) : List (Nat × Val × Nat) :=
  let fmt := f.fmt.toNat
  let new := bytes.length
  if f.pairs then
    let pair (k : Nat) : Nat × Nat := (bitsOfList bytes (64 * k) 32, bitsOfList bytes (64 * k + 32) 32 % 2 ^ bitsOf fmt)
    let ps := ((List.range (min f.npairs (new / 8))).drop (old / 8)).map pair
    match cmd.kind with
    | .lred _ =>
      let before := ((List.range (old / 8)).map fun k => (pair k).1 + 1).foldl max 0
      let upto := if f.last then (desc cmd.ty).count else (ps.map (·.1 + 1)).foldl max before
      ((List.range upto).drop before).map fun e => match ps.find? (·.1 == e) with
        | some p => (e, valOf fmt p.2, p.2)
        | none => (e, .fin false 0 0, 0)
    | _ => ps.map fun p => (p.1, valOf fmt p.2, p.2)
  else
    ((List.range (f.d0 * f.d1)).filter fun e =>
      let (b, w, _) := densePos fmt f.grp.toNat f.d0 e
      8 * old < b + w && b + w ≤ 8 * new).map fun e =>
        let (b, w, _) := densePos fmt f.grp.toNat f.d0 e
        (e, denseVal f bytes e, bitsOfList bytes b w)

/-- The metadata that LRED reads to quantise the elements that a flit completes (R53, R55, R399). -/
def Cmd.redMeta (cmd : Cmd) (es : List (Nat × Val × Nat)) : List (Nat × Nat) :=
  let dd := desc cmd.ty
  if isAq dd.fmt then es.flatMap fun e => dd.metaBits dd.fmt dd.base (dd.metaIdx dd.fmt (e.1 % dd.d0) (e.1 / dd.d0)) else []

/-- What a receiver's next micro-step reads: LRED, the local terms of its elements and the metadata of its destination. -/
def Cmd.recvReads (cmd : Cmd) (l : CoreId) (x : Eng) (f : Flit) : List (Place × List (Nat × Nat)) :=
  match cmd.kind with
  | .lred _ =>
    let old := x.flits.flatMap (·.payload)
    let es := flitElems cmd f (old ++ f.payload) old.length
    let dz := desc cmd.tz
    [(dz.place l, es.flatMap fun e => (dz.at_ e.1, bitsOf dz.fmt) :: dz.metaBits dz.fmt dz.base (dz.metaIdx dz.fmt (e.1 % dz.d0) (e.1 / dz.d0))),
     ((desc cmd.ty).place l, cmd.redMeta es)]
  | _ => []

/-- A receiver's next micro-step: the flit, the faults met, the fields it writes. -/
def State.recvStep (s : State) (l : CoreId) (x : Eng) (cmd : Cmd) (f : Flit) : Option (Byte × Word) × List Field :=
  let dd := desc cmd.ty
  let p := dd.place l
  let oldBytes := x.flits.flatMap (·.payload)
  let bytes := oldBytes ++ f.payload
  let malformed : Byte × Word := (0x13, p.tval (dd.addr 0 0 / 8))
  let es := flitElems cmd f bytes oldBytes.length
  if streamBad cmd f bytes.length || es.any (fun e => dd.count ≤ e.1) then (some malformed, [])
  else match cmd.kind with
    | .lred _ =>
      let dz := desc cmd.tz
      let zbits := es.flatMap fun e => (dz.at_ e.1, bitsOf dz.fmt) :: dz.metaBits dz.fmt dz.base (dz.metaIdx dz.fmt (e.1 % dz.d0) (e.1 / dz.d0))
      let ybits := cmd.redMeta es
      let zrd : Rd := bitsRead (s.linesNow l (dz.place l) zbits) (dz.place l)
      let yrd : Rd := bitsRead (s.linesNow l p ybits) p
      let fields := es.map fun e =>
        let i := e.1 % dz.d0
        let j := e.1 / dz.d0
        let loc := dz.expand dz.fmt dz.base zrd (zrd (dz.at_ e.1) (bitsOf dz.fmt)) i j
        let sum := f32 (Val.add .rne e.2.1 loc)
        (dd.at_ e.1, bitsOf dd.fmt, storeConv dd yrd sum i j)
      (firstByRank (s.faultsNow l cmd.z cmd.tz zbits ++ s.faultsNow l cmd.y cmd.ty ybits ++ (s.writeFaults l p fields).toList), fields)
    | _ =>
      let fields := es.map fun e =>
        (dd.at_ e.1, bitsOf dd.fmt, if f.fmt.toNat = dd.fmt then e.2.2 else convertV dd.fmt e.2.1)
      (s.writeFaults l p fields, fields)

/-- Whether a receiver takes a flit now. -/
def State.linkTakes (s : State) (l : CoreId) : Option (Cmd × Flit) :=
  let x := (s.core l).getE 5
  match x.queue with
  | [] => none
  | cmd :: _ =>
    if !(x.linkGoes && !cmd.sends) then none
    else match s.nextFlit l cmd with
      | none => none
      | some f => if cmd.rel && f.last && !(s.core l).mayRelease s.now cmd.prog then none else some (cmd, f)

/-- LINK_FLIT_RECEIVE (R399, R400): one flit with the elements it completes. -/
def execLINK_FLIT_RECEIVE (c : CoreId) (s : State) : Host.Outcome State Fault Refusal :=
  match s.linkTakes c with
  | none => .next s
  | some (cmd, f) =>
    let x := (s.core c).getE 5
    match s.recvStep c x cmd f with
    | (some e, _) => .next ((if e.1 = 0x13 then s else s.countReads c (cmd.recvReads c x f)).engFault c 5 e)
    | (none, fields) =>
      let s := s.countReads c (cmd.recvReads c x f)
      let dd := desc cmd.ty
      let old := x.flits.flatMap (·.payload)
      let metas := match cmd.kind with | .lred _ => cmd.redMeta (flitElems cmd f (old ++ f.payload) old.length) | _ => []
      let s := s.notesReads c 4 (dd.globLines metas)
      let s := (s.writeFields c (dd.place c) fields).notesWrites c 4 (dd.globLines (fields.map fun f => (f.1, f.2.1)))
      let port := s.port cmd.port
      let s := s.setPort cmd.port { port with store := dropFlit port.store f }
      .next (s.setCore c ((s.core c).setE 5 { x with
        micro := x.micro + 1, flits := x.flits ++ [f], sub := ofBool f.last, last := if f.last then some s.now else x.last }))

end Sys2Proof.Machine
end

