-- ==== Sys2Proof/Machine/Swage.lean ====
section
/-! DEFINITION. The SWG major (R288 to R291): checks at issue, windows of pairs and read-modify-writes. -/

namespace Sys2Proof.Machine

/-- Whether an operation accepts a format (R289): 0 add.i32, 1 add.f32, 2 max, 3 min, 4 or, 5 xchg. -/
def saccFmt (op fmt : Nat) : Bool := if op = 0 || op = 4 then fmt == 13 else if op = 1 then fmt == 1 else true

/-- The checks of R289. -/
def saccCmd (kind : CmdKind) (op y z : Nat) (feed : Option (CoreId × Nat)) (c : Core) : Except Halt Cmd := do
  let dt := desc (c.getTd y)
  let di := desc (c.getTd z)
  need y (!tdBad (c.getTd y) && decide (dt.space < 2) && (dt.fmt == 13 || dt.fmt == 1))
  need z (decide (z ≤ 62) && !tdBad (c.getTd z) && di.fmt == 13)
  let dv := desc (c.getTd (z + 1))
  need (z + 1) (!tdBad (c.getTd (z + 1)) && dv.fmt == dt.fmt && dv.d0 * dv.d1 == di.d0 * di.d1)
  need y (saccFmt op dt.fmt)
  return { kind, y, z, x := z + 1, ty := c.getTd y, tz := c.getTd z, tx := c.getTd (z + 1), feed }

/-- SACC (R288). -/
def execSACC (y z : BitVec 6) (o : BitVec 3) (s : State) : Host.Outcome State Fault Refusal :=
  command 4 (fun _ c => saccCmd (.sacc o.toNat) o.toNat y.toNat z.toNat none c) s

/-- SACCR (R288): the old values enter a feed of the issuing core. -/
def execSACCR (f : BitVec 3) (y z : BitVec 6) (o : BitVec 3) (s : State) : Host.Outcome State Fault Refusal :=
  command 4 (fun s c => saccCmd (.saccr o.toNat f.toNat) o.toNat y.toNat z.toNat (some (s.cur, f.toNat)) c) s

/-- Merge and Apply of R290 on encodings of format `fmt`. -/
def saccMerge (op fmt m v : Nat) : Nat :=
  match op with
  | 0 => (m + v) % 2 ^ 32
  | 1 => roundV 1 (Val.add .rne (fltVal 1 m) (fltVal 1 v)) .rne
  | 2 => maxEnc fmt m v
  | 3 => minEnc fmt m v
  | 4 => m ||| v
  | _ => v

/-- The operation and the pairs of a window (R290). -/
def Cmd.saccOp (cmd : Cmd) : Nat := match cmd.kind with | .sacc op => op | .saccr op _ => op | _ => 0
def Cmd.saccSpan (cmd : Cmd) : Nat := match cmd.kind with | .saccr .. => 1 | _ => 64
def Cmd.saccPairs (cmd : Cmd) : Nat := (desc cmd.tz).d0 * (desc cmd.tz).d1

/-- Bits of index and value of pair `e`. -/
def Cmd.idxBit (cmd : Cmd) (e : Nat) : Nat := (desc cmd.tz).addr (e % (desc cmd.tz).d0) (e / (desc cmd.tz).d0)
def Cmd.valBit (cmd : Cmd) (e : Nat) : Nat := (desc cmd.tx).addr (e % (desc cmd.tx).d0) (e / (desc cmd.tx).d0)

/-- The window of the micro-PC, and the read-modify-writes of it that are done (R268): the micro-PC is 64 × window + done. -/
def Eng.saccWindow (x : Eng) (cmd : Cmd) : List Nat :=
  let n := cmd.saccPairs
  let w := x.micro / 64 * cmd.saccSpan
  (List.range (min cmd.saccSpan (n - w))).map (w + ·)

/-- Whether every window is done. -/
def Eng.saccEnd (x : Eng) (cmd : Cmd) : Bool := decide (ceilDiv cmd.saccPairs cmd.saccSpan ≤ x.micro / 64)

/-- Index and value of a pair as read. -/
def Eng.saccIdx (x : Eng) (cmd : Cmd) (l : CoreId) (e : Nat) : Int :=
  signed 32 (bitsRead x.got ((desc cmd.tz).place l) (cmd.idxBit e) 32)
def Eng.saccVal (x : Eng) (cmd : Cmd) (l : CoreId) (e : Nat) : Nat :=
  bitsRead x.got ((desc cmd.tx).place l) (cmd.valBit e) (bitsOf (desc cmd.tx).fmt)

/-- The distinct indices of the window in order of first occurrence, with their merged values (R290). -/
def Eng.saccMerged (x : Eng) (cmd : Cmd) (l : CoreId) : List (Nat × Nat) :=
  let ps := (x.saccWindow cmd).map fun e => ((x.saccIdx cmd l e).toNat, x.saccVal cmd l e)
  let fmt := (desc cmd.ty).fmt
  (dedup (ps.map (·.1))).map fun i =>
    match ps.filter (·.1 == i) with
    | [] => (i, 0)
    | p :: rest => (i, rest.foldl (fun m q => saccMerge cmd.saccOp fmt m q.2) p.2)

/-- The lines of a window, indices before values. -/
def Eng.saccLines (x : Eng) (cmd : Cmd) (l : CoreId) : List (Place × Nat) :=
  let es := x.saccWindow cmd
  dedup ((es.flatMap fun e => (linesOfBits (cmd.idxBit e) 32).map fun a => ((desc cmd.tz).place l, a)) ++
    (es.flatMap fun e => (linesOfBits (cmd.valBit e) 32).map fun a => ((desc cmd.tx).place l, a)))

/-- Whether every line of the window has landed. -/
def Eng.saccLanded (x : Eng) (now : Nat) : Bool := x.laid && x.plan.isEmpty && x.got.all (·.landed now)

/-- The faults of the window's reads, then an index outside the target (R289). -/
def State.saccFault (s : State) (l : CoreId) (x : Eng) (cmd : Cmd) : Option (Byte × Word) :=
  let lchk := (s.core l).csr.lchk
  let chk (n : Nat) (d : BitVec 256) : Option (Nat × Desc) := if lchk then some (n, desc d) else none
  let es := x.saccWindow cmd
  let dt := desc cmd.ty
  let pi := (desc cmd.tz).place l
  let reads := es.flatMap fun e => bitsFaults x.got pi (cmd.idxBit e) 32 (chk cmd.z cmd.tz) ++
    bitsFaults x.got ((desc cmd.tx).place l) (cmd.valBit e) 32 (chk cmd.x cmd.tx)
  match firstByRank reads with
  | some f => some f
  | none =>
    (es.find? fun e => x.saccIdx cmd l e < 0 || (dt.d0 * dt.d1 : Nat) ≤ x.saccIdx cmd l e).map fun e =>
      (0x13, pi.tval (cmd.idxBit e / 8))

/-- The start of a cycle on Swage: a window's lists are laid, and its faults are raised once it is read. -/
def State.swageStart (s : State) (l : CoreId) (cmd : Cmd) : State :=
  let c := s.core l
  let x := c.getE 4
  if x.saccEnd cmd then s
  else
    let x := if x.laid || !(x.begun.isSome || c.mayBegin s.now cmd) then x
      else { x with laid := true, begun := some (x.begun.getD s.now), got := [], plan := x.saccLines cmd l }
    let s := s.setCore l (c.setE 4 x)
    if !x.saccLanded s.now then s
    else match s.saccFault l x cmd with
      | some f => s.engFault l 4 f
      | none => s

/-- The target word of the next read-modify-write, with its index and merged value. -/
def Eng.saccNext (x : Eng) (cmd : Cmd) (l : CoreId) : Option (Nat × Nat × Nat) :=
  ((x.saccMerged cmd l)[x.micro % 64]?).map fun p =>
    let dt := desc cmd.ty
    (dt.addr (p.1 % dt.d0) (p.1 / dt.d0) / 8, p)

/-- Whether the next read-modify-write is the command's last. -/
def Eng.saccLast (x : Eng) (cmd : Cmd) (l : CoreId) : Bool :=
  decide (ceilDiv cmd.saccPairs cmd.saccSpan = x.micro / 64 + 1) && decide ((x.saccMerged cmd l).length = x.micro % 64 + 1)

/-- The word that Swage presents in this cycle (R290): a stream waiting for its feed holds it (R275), a release waits for its order. -/
def State.swageAsk (s : State) (l : CoreId) (x : Eng) (cmd : Cmd) : Option Nat :=
  if x.saccEnd cmd || !x.saccLanded s.now || x.elems.any (fun e => e.1 ≤ s.now) then none
  else if cmd.rel && x.saccLast cmd l && !(s.core l).mayRelease s.now cmd.prog then none
  else (x.saccNext cmd l).map (·.1)

/-- The micro-PC after a read-modify-write. -/
def Eng.saccStep (x : Eng) (cmd : Cmd) (l : CoreId) (now : Nat) : Eng :=
  let last := x.saccLast cmd l
  let x := if (x.saccMerged cmd l).length ≤ x.micro % 64 + 1 then { x with micro := (x.micro / 64 + 1) * 64, laid := false, got := [] }
    else { x with micro := x.micro + 1 }
  if last then { x with last := some now } else x

/-- SWAGE_RMW (R290): one indivisible read-modify-write at the end of its grant cycle. -/
def execSWAGE_RMW (c : CoreId) (s : State) : Host.Outcome State Fault Refusal :=
  let x := (s.core c).getE 4
  match x.queue with
  | [] => .next s
  | cmd :: _ =>
    match (if x.active then s.swageAsk c x cmd else none), x.saccNext cmd c with
    | some _, some (a, _, m) =>
      let dt := desc cmd.ty
      let p := dt.place c
      let lines := linesOfBits (8 * a) 32
      let reads := bitsFaults (lines.map fun l => s.readLine c p l s.now) p (8 * a) 32 (if (s.core c).csr.lchk then some (cmd.y, dt) else none)
      let weak := match p with
        | .ember k => ((s.core k).ember.errors [(a, 4)]).2
        | _ => 0
      let s := s.foundErrors c 0 weak (ofBool (reads.any (·.1 == 0x1A))) a
      match firstByRank reads with
      | some f => .next (s.engFault c 4 f)
      | none =>
        let old := leNat ((List.range 4).map fun i => s.curByte c p (a + i))
        let new := saccMerge cmd.saccOp dt.fmt old m
        let s := lines.foldl (fun s l => s.putBytes c p l (unitWrite l 64 [(8 * a, 32, new)] (s.curByte c p))) s
        let x := x.saccStep cmd c s.now
        let x := match cmd.kind with | .saccr .. => { x with elems := x.elems ++ [(s.now + 6, dt.fmt, old)] } | _ => x
        .next (s.setCore c ((s.core c).setE 4 x))
    | _, _ => .next s

/-- Whether a Swage command is done (R267). -/
def Eng.saccDone (x : Eng) (cmd : Cmd) : Bool := x.saccEnd cmd && x.elems.isEmpty

end Sys2Proof.Machine
end

