-- ==== Sys2Proof/Machine/Vector.lean ====
section
/-! DEFINITION. Runs (R137 to R144), predicates (R145 to R149), groups (R150 to R152), the checks of R155 with the register that
R438 names, occupancy (R156) and the elementwise frame of R161. -/

namespace Sys2Proof.Machine

/-- A run list: counts and encodings. -/
abbrev Runs := List (Nat × Nat)

def runsLen (r : Runs) : Nat := (r.map (·.1)).sum

/-- The runs of the first `n` elements. -/
def takeRuns : Nat → Runs → Runs
  | _, [] => []
  | n, (c, v) :: t => if n = 0 then [] else if c ≤ n then (c, v) :: takeRuns (n - c) t else [(n, v)]

/-- The runs from element `n` on. -/
def dropRuns : Nat → Runs → Runs
  | _, [] => []
  | n, (c, v) :: t => if c ≤ n then dropRuns (n - c) t else (c - n, v) :: t

/-- Slots that a run list of a format takes (R137, R140). -/
def slotsOf (f : Nat) (r : Runs) : Nat := if f = 0 then 2 * r.length else r.length

def VReg.len (v : VReg) : Nat := runsLen v.runs
def VReg.slots (v : VReg) : Nat := slotsOf v.fmt v.runs

def Core.getV (c : Core) (r : Nat) : VReg := vget c.v r {}

/-- Element `i` of a run list. -/
def elemAt : Runs → Nat → Option Nat
  | [], _ => none
  | (c, v) :: t, i => if i < c then some v else elemAt t (i - c)

/-- The segments of the first `m` elements cut at every boundary of every list (R143), with the lists' values. -/
def segments : (fuel m : Nat) → List Runs → List (Nat × List Nat)
  | 0, _, _ => []
  | fuel + 1, m, ls =>
    if m = 0 || ls.any (·.isEmpty) then []
    else
      let n := ls.foldl (fun acc l => min acc ((l.head?.map (·.1)).getD 0)) m
      (n, ls.map fun l => (l.head?.map (·.2)).getD 0) :: segments fuel (m - n) (ls.map (dropRuns n))

/-- Merge neighbours of equal encoding (R144). -/
def coalesce : Runs → Runs
  | [] => []
  | (c, v) :: t => match coalesce t with
    | [] => [(c, v)]
    | (d, w) :: r => if v = w then (c + d, v) :: r else (c, v) :: (d, w) :: r

/-- A predicate as an instruction reads it; `k0` is fixed (R146). -/
def Core.getK (c : Core) (k : Nat) : KReg := if k = 0 then { count := 131071, wid := 3 } else vget c.k k {}

def Core.setK (c : Core) (k : Nat) (x : KReg) : Core := if k = 0 then c else { c with k := vput c.k k x }

/-- B of R147, in bytes. -/
def KReg.bytes (k : KReg) : Nat := k.count.toNat * 2 ^ k.wid.toNat

/-- The active count of each part (R147, R152). -/
def partActive (onePrefix : Bool) (n : Nat) : (off : Nat) → List Nat → List Nat
  | _, [] => []
  | off, l :: t => (if onePrefix then min (n - off) l else min n l) :: partActive onePrefix n (off + l) t

/-- The active counts of parts of the given lengths, for governing width `w`; `k0` counts as any other predicate (R146, R147; log 125). -/
def Core.active (c : Core) (k w : Nat) (lens : List Nat) : List Nat :=
  partActive (c.csr.grp == 1) ((c.getK k).bytes / w) 0 lens

/-- The registers of a group (R150). -/
def group (n g : Nat) : List Nat := (List.range g).map (n + ·)

/-- A fault found by the checks of R155: its code and the register number that `tval` names (R438). -/
abbrev VCheck (α : Type) := Except (Byte × Nat) α

/-- Order 2: a group that passes `v31`, operands in field order. -/
def checkGroups (g : Nat) (firsts : List Nat) : VCheck Unit :=
  match firsts.find? fun n => 31 < n + g - 1 with
  | some n => .error (0x0E, n)
  | none => .ok ()

/-- Order 3 on one operand: part 0 has an accepted format, the other parts have the format of part 0. -/
def checkFmt (c : Core) (n g : Nat) (ok : Nat → Bool) : VCheck Unit :=
  let f := (c.getV n).fmt
  match (group n g).find? fun r => !ok f || (c.getV r).fmt != f with
  | some r => .error (0x0E, r)
  | none => .ok ()

/-- Order 8: a destination part of more than 8,192 slots (R142). -/
def checkSlots (parts : List (Nat × VReg)) : VCheck Unit :=
  match parts.find? fun x => 8192 < x.2.slots with
  | some x => .error (0x0D, x.1)
  | none => .ok ()

/-- Order 4 on the sources after the first (R151, R438): parts ascending, then operands. `old` is the first register of a
source whose format belongs to this order too (R164). -/
def checkLens (c : Core) (g va : Nat) (others : List Nat) (old : Option Nat) : VCheck Unit :=
  let bad (j n : Nat) : Bool :=
    (c.getV (n + j)).len != (c.getV (va + j)).len || (old == some n && (c.getV (n + j)).fmt != (c.getV (va + j)).fmt)
  match (List.range g).findSome? fun j => (others.find? (bad j)).map (· + j) with
  | some r => .error (0x0E, r)
  | none => .ok ()

/-- Order 5 (R148): where a tail is kept, the old destination has the result's length and format. -/
def checkOld (c : Core) (fmt : Nat) (dests lens acts : List Nat) : VCheck Unit :=
  match (dests.zip (lens.zip acts)).find? fun (d, l, m) => m < l && ((c.getV d).fmt != fmt || (c.getV d).len != l) with
  | some x => .error (0x0E, x.1)
  | none => .ok ()

/-- The kept tail of an old destination (R148). -/
def Core.tail (c : Core) (d l m : Nat) : Runs := if m < l then dropRuns m (c.getV d).runs else []

/-- What a list of marks becomes when the slots from `skip` on stand after `new` others. -/
def moveMarks (skip new : Nat) (l : List Nat) : List Nat := (l.filter fun i => skip ≤ i).map fun i => i - skip + new

/-- A destination part (R148): the computed runs and the tail of the old destination. Slots of the tail are copied with their errors (R416). -/
def Core.withTail (c : Core) (d fmt : Nat) (runs : Runs) (l m : Nat) : VReg :=
  let old := c.getV d
  let move := moveMarks (old.slots - slotsOf fmt (dropRuns m old.runs)) (slotsOf fmt runs)
  if m < l then { fmt, runs := runs ++ c.tail d l m, pois := move old.pois, weak := move old.weak } else { fmt, runs := runs ++ c.tail d l m }

/-- Slots that an instruction reads: a register, the first of them and the one after the last. -/
abbrev Slots := Nat × Nat × Nat

/-- The slots of register `r` that hold its first `n` elements. -/
def Core.prefixSlots (c : Core) (r n : Nat) : Slots := (r, 0, slotsOf (c.getV r).fmt (takeRuns n (c.getV r).runs))

/-- Every slot of a register. -/
def Core.allSlots (c : Core) (r : Nat) : Slots := (r, 0, (c.getV r).slots)

/-- The uncorrectable and the corrected errors among the slots read (R155 order 9, R391). -/
def Core.slotErrors (c : Core) (reads : List Slots) : Nat × Nat :=
  let hits (f : VReg → List Nat) : Nat := (reads.map fun x => ((f (c.getV x.1)).filter fun i => x.2.1 ≤ i && i < x.2.2).length).sum
  (hits VReg.pois, hits VReg.weak)

/-- Occupancy of R156. -/
def occupancy (slots : Nat) : Nat := ceilDiv slots 32 + 6

/-- What a vector instruction gives: destination parts, a predicate, a scalar result with its register, the occupancy, and the active slots it
has read (order 9). -/
structure VOut where
  parts : List (Nat × VReg) := []
  pred  : Option (Nat × KReg) := none
  push  : Option (Nat × Word) := none
  occ   : Nat := 6
  reads : List Slots := []

/-- Destination parts and the occupancy that they give. -/
def VOut.of (parts : List (Nat × VReg)) (reads : List Slots) : VOut :=
  { parts, reads, occ := occupancy (parts.map (·.2.slots)).sum }

/-- Write destination parts. -/
def Core.setParts (c : Core) (parts : List (Nat × VReg)) : Core :=
  parts.foldl (fun c x => { c with v := vput c.v x.1 x.2 }) c

/-- A vector instruction that accesses no memory (R155, R157): scalar registers `regs` are read and `dst` is named. The address
of a poisoned run slot has no stated value (log 5). -/
def vector (regs : List Nat) (dst : Nat) (f : Core → VCheck VOut) (s : State) : Host.Outcome State Fault Refusal :=
  smith s 4 .plain fun s c => with0 c regs dst fun c =>
    match f c with
    | .error (e, r) => .halt (.fault e (BitVec.ofNat 64 r))
    | .ok o => match checkSlots o.parts with
      | .error (e, r) => .halt (.fault e (BitVec.ofNat 64 r))
      | .ok _ =>
        let (bad, weak) := c.slotErrors o.reads
        if bad != 0 then .halt (.poison 2 3 bad (BitVec.ofNat 64 (Config.poisonedSlot s.cur.val s.now)))
        else
          let c := c.setParts o.parts
          let c := match o.pred with | none => c | some (k, x) => c.setK k x
          let c := match o.push with | none => c | some (d, v) => c.push d v (s.now + o.occ)
          .done { c with vbusy := some { issue := s.now, until_ := s.now + o.occ } } id (fun s => s.foundErrors s.cur 3 weak 0 0)

/-- Elementwise of R161 once the formats are checked: sources `srcs` (the first governs), destination group `d`, result format
`out`, operation on encodings. -/
def elementwise (c : Core) (d g k : Nat) (srcs : List Nat) (old : Option Nat) (out : Nat) (op : List Nat → Nat) :
    VCheck VOut :=
  match srcs with
  | [] => .ok {}
  | va :: others => do
    checkLens c g va others old
    let lens := (group va g).map fun r => (c.getV r).len
    let acts := c.active k (widthOf (c.getV va).fmt) lens
    checkOld c out (group d g) lens acts
    let parts := (List.range g).map fun j =>
      let l := lens.getD j 0
      let m := acts.getD j 0
      let rs := srcs.map fun n => (c.getV (n + j)).runs
      let segs := segments ((rs.map (·.length)).sum + 1) m rs
      (d + j, c.withTail (d + j) out (segs.map fun x => (x.1, op x.2)) l m)
    return VOut.of parts (srcs.flatMap fun n => (List.range g).map fun j => c.prefixSlots (n + j) (acts.getD j 0))

end Sys2Proof.Machine
end

