-- ==== Sys2Proof/Machine/VMem.lean ====
section
/-! DEFINITION. Vector memory instructions, major VMEM (R176 to R182): the checks at issue and the requests they give; the
accesses themselves and the end of the instruction are CoreEvents and Banks. -/

namespace Sys2Proof.Machine

/-- One access of a vector memory instruction after its checks at issue (R179), or its fault. -/
def vAccess (s : State) (c : Core) (ea : Word) (n : Nat) (data : Option (List Byte)) : Except Byte VElem :=
  match checkAccess s c ea.toNat n (if data.isSome then needW else needRd) with
  | .error e => .error e
  | .ok (sp, p) => match sp with
    | .ember o =>
      if data.isNone && c.csr.dbgPend && c.pendingByte s.now o n then .error 0x0C
      else .ok { ea, place := .ember s.cur, addr := o, n, data }
    | .sram o => .ok { ea, place := .sram s.cur, addr := o, n, data }
    | _ => .ok { ea, place := .glob, addr := p, n, data }

/-- The accesses in ascending order up to the first that fails its checks at issue; `ls` are the commit-buffer lines, and the number spilled,
as the stores before them leave them. -/
def vAccesses (s : State) (c : Core) (prog : Nat) (plain : Bool) :
    List CLine × Nat → List (Word × Nat × Option (List Byte)) → List VElem × Option (Byte × Word)
  | _, [] => ([], none)
  | ls, (ea, n, data) :: t =>
    match vAccess s c ea n data with
    | .error e => ([], some (e, ea))
    | .ok x =>
      let buffered := plain && data.isSome && x.place == .glob
      if buffered && overflowsAt s c ls ea.toNat prog then ([], some (0x16, ea))
      else
        let ls := if buffered && c.theTask.gang then
            soonAfter true c.closes ls { addr := ea.toNat, data := (data.getD []).map some, cls := 0, prog, due := 0 } else ls
        let (xs, stop) := vAccesses s c prog plain ls t
        (x :: xs, stop)

/-- Requests for the accesses that `sel` selects (R182): one for each line when `dense`, else one for each access. `i` is the number of
the first access of the list. -/
def vRequests (dense : Bool) (sel : VElem → Bool) : (i : Nat) → List VElem → List VReq
  | _, [] => []
  | i, x :: t =>
    let rest := vRequests dense sel (i + 1) t
    if !sel x then rest
    else match t, rest with
      | y :: _, r :: rs =>
        if dense && r.first = i + 1 && sel y && y.addr / 64 = x.addr / 64 then { first := i, count := r.count + 1 } :: rs
        else ⟨i, 1⟩ :: rest
      | _, _ => ⟨i, 1⟩ :: rest

def VElem.isEmber (x : VElem) : Bool := match x.place with | .ember _ => true | _ => false
def VElem.isSram (x : VElem) : Bool := match x.place with | .sram _ => true | _ => false
def VElem.isGlob (x : VElem) : Bool := x.place == .glob

/-- What a vector memory form asks for after its checks of orders 2 to 6. -/
structure VAsk where
  kind   : VKind
  per    : Nat := 0
  active : List Nat := []
  k      : Nat := 0
  slots  : Nat := 0
  dense  : Bool
  reads  : List Slots := []
  list   : List (Word × Nat × Option (List Byte))

/-- A vector memory instruction at issue (R179, R182): faults of its first access, the stalls of R33, then it is in progress. -/
def vmem (d fmt : Nat) (regs : List Nat) (ask : Core → VCheck VAsk) (s : State) : Host.Outcome State Fault Refusal :=
  smith s 4 .plain fun s c => with0 c regs 0 fun c =>
    match ask c with
    | .error (e, r) => .halt (.fault e (BitVec.ofNat 64 r))
    | .ok q =>
      let (k, _, rel, scope) := c.access 0
      let store := q.kind == .store
      let plain := store && !rel
      let (elems, stop) := vAccesses s c c.nextId plain (if plain then c.linesSoon else ([], 0)) q.list
      let hasGlob := elems.any VElem.isGlob
      match (match stop with | none => none | some f => if store || elems.isEmpty then some f else none) with
      | some (e, ea) => .halt (if store then .fault e ea else .misread 1 1 e ea)
      | none =>
        let (bad, worn) := c.slotErrors q.reads
        if bad != 0 then .halt (.poison 2 3 bad (BitVec.ofNat 64 (Config.poisonedSlot s.cur.val s.now)))
        else if c.classStall s.now k then .halt (.stall .classOrder)
        else if !store && hasGlob && 17 ≤ c.ld then .halt (.stall (.outstanding 0))
        else if plain && hasGlob && 16 ≤ c.st then .halt (.stall (.outstanding 1))
        else
          let c' := if rel then c.close else c
          let globs := elems.filter VElem.isGlob
          let c' := if store then globs.foldl (fun c x => c.noted 1 x.ea.toNat x.addr) c' else c'
          let prog := c'.nextId
          let m : VMem := {
            kind := q.kind, dst := d, fmt, per := q.per, active := q.active, k := q.k, slots := q.slots, elems, stop
            ember := vRequests q.dense VElem.isEmber 0 elems
            side := vRequests q.dense VElem.isSram 0 elems
            glob := if !store && hasGlob then some (s.now + 1 + s.delay.1) else none
            land := s.now, ld := !store && hasGlob, rel := if rel then some scope else none
            stored := if store then globs.map fun (x : VElem) =>
              { addr := x.ea.toNat, data := (x.data.getD []).map some, cls := k, prog, due := s.now,
                rel := if rel then some scope else none } else [] }
          .wait { c' with vbusy := some { issue := s.now, until_ := s.now + 6, prog, cls := k, mem := some m },
                          nextId := prog + 1 }
            .occupancy (fun s =>
              let s := if hasGlob then s.delay.2 else s
              let s := match stop with | some (_, ea) => s.misread s.cur 1 1 ea.toNat | none => s
              (s.fixLoads s.cur prog).foundErrors s.cur 3 worn 0 0)

/-- The group size of the forms that take `vcfg.VMG` (R176), checked at order 2. -/
def vmgGroup (c : Core) (d : Nat) : VCheck Nat := do
  let g := c.csr.vmg.toNat
  if g = 7 then .error (0x0E, d)
  else do
    checkGroups (max g 1) [d]
    return max g 1

/-- Order 3: a format that VMEM accepts (R89, R176). -/
def vmemFmt (d fmt : Nat) : VCheck Unit := if isVecFmt fmt then .ok () else .error (0x0E, d)

/-- Element addresses (R177): element `e` of the concatenated group lies at A + e × stride. -/
def elemAddr (a : Word) (stride : Int) (e : Nat) : Word := a + BitVec.ofInt 64 (stride * e)

/-- VLDS and VLDFF (R177, R180). -/
def vloads (kind : VKind) (d a b k fmt : Nat) (s : State) : Host.Outcome State Fault Refusal :=
  vmem d fmt [a, b] (fun c => do
    let g ← vmgGroup c d
    vmemFmt d fmt
    let w := widthOf fmt
    let per := fld (c.getS b) 0 16
    let stride := signed 32 (fld (c.getS b) 32 32)
    let lens := List.replicate g per
    let active := c.active k w lens
    checkOld c fmt (group d g) lens active
    let es := ((List.range g).map fun j => (List.range (active.getD j 0)).map fun i => j * per + i).flatten
    return { kind, per, active, k, dense := stride == (w : Int),
             list := es.map fun e => (elemAddr (c.getS a) stride e, w, none) }) s

/-- The encodings of a run list, one for each element. -/
def expand : Runs → List Nat
  | [] => []
  | (c, v) :: t => List.replicate c v ++ expand t

/-- The slots of a run list as doublewords (R139, R140). -/
def slotWords (fmt : Nat) : Runs → List Nat
  | [] => []
  | (c, v) :: t => if fmt = 0 then v :: (c - 1) * 2 ^ 48 :: slotWords fmt t else (v + (c - 1) * 2 ^ 48) :: slotWords fmt t

/-- Order 3 of a store: every part has format fmt. -/
def storeFmt (c : Core) (d g fmt : Nat) : VCheck Unit := do
  vmemFmt d fmt
  match (group d g).find? fun r => (c.getV r).fmt != fmt with
  | some r => .error (0x0E, r)
  | none => .ok ()

/-- VLD (R178). -/
def execVLD (d a b : BitVec 5) (m : BitVec 4) (s : State) : Host.Outcome State Fault Refusal :=
  vmem d.toNat m.toNat [a.toNat, b.toNat] (fun c => do
    vmemFmt d.toNat m.toNat
    let n := (c.getS b.toNat).toNat
    if m.toNat = 0 && n % 2 = 1 then .error (0x0E, d.toNat)
    else if 8192 < n then .error (0x0D, d.toNat)
    else return { kind := .image, dense := true,
                  list := (List.range n).map fun i => (elemAddr (c.getS a.toNat) 8 i, 8, none) }) s

/-- VLDS (R177). -/
def execVLDS (d a b : BitVec 5) (k : BitVec 3) (m : BitVec 4) (s : State) : Host.Outcome State Fault Refusal :=
  vloads .strided d.toNat a.toNat b.toNat k.toNat m.toNat s

/-- VLDFF (R180). -/
def execVLDFF (d a b : BitVec 5) (k : BitVec 3) (m : BitVec 4) (s : State) : Host.Outcome State Fault Refusal :=
  vloads .firstFault d.toNat a.toNat b.toNat k.toNat m.toNat s

/-- VST (R178): the active prefix as a run image. -/
def execVST (d a : BitVec 5) (k : BitVec 3) (m : BitVec 4) (s : State) : Host.Outcome State Fault Refusal :=
  vmem d.toNat m.toNat [a.toNat] (fun c => do
    storeFmt c d.toNat 1 m.toNat
    let v := c.getV d.toNat
    let n := (c.active k.toNat (widthOf m.toNat) [v.len]).headD 0
    let ws := slotWords m.toNat (takeRuns n v.runs)
    return { kind := .store, slots := ws.length, dense := true, reads := [c.prefixSlots d.toNat n],
             list := ws.zipIdx.map fun x => (elemAddr (c.getS a.toNat) 8 x.2, 8, some (leBytes 8 x.1)) }) s

/-- VSTS (R177). -/
def execVSTS (d a b : BitVec 5) (k : BitVec 3) (m : BitVec 4) (s : State) : Host.Outcome State Fault Refusal :=
  vmem d.toNat m.toNat [a.toNat, b.toNat] (fun c => do
    let g ← vmgGroup c d.toNat
    storeFmt c d.toNat g m.toNat
    let w := widthOf m.toNat
    let stride := signed 32 (fld (c.getS b.toNat) 32 32)
    let lens := (group d.toNat g).map fun r => (c.getV r).len
    let active := c.active k.toNat w lens
    let part (j : Nat) : Runs := takeRuns (active.getD j 0) (c.getV (d.toNat + j)).runs
    let es := ((List.range g).map fun j => (expand (part j)).zipIdx.map fun x => (x.1, (lens.take j).sum + x.2)).flatten
    return { kind := .store, slots := ((List.range g).map fun j => slotsOf m.toNat (part j)).sum, dense := stride == (w : Int),
             reads := (List.range g).map fun j => c.prefixSlots (d.toNat + j) (active.getD j 0)
             list := es.map fun x => (elemAddr (c.getS a.toNat) stride x.2, w, some (leBytes w x.1)) }) s

/-- An element as a vector register holds it (R52, R177, R181). -/
def heldElem (fmt x : Nat) : Nat := if fmt = 15 then ofBool (x % 256 != 0) else x % 2 ^ bitsOf fmt

/-- VPOP (R181). Its occupancy counts every slot of the new register (R156; log 124). -/
def execVPOP (d b : BitVec 5) (n : BitVec 3) (m : BitVec 4) (s : State) : Host.Outcome State Fault Refusal :=
  smith s 4 .plain fun s c => with0 c [b.toNat] 0 fun c =>
    let v := c.getV d.toNat
    let num := (c.getS b.toNat).toNat
    let reg : Word := BitVec.ofNat 64 d.toNat
    let feed := vget c.feeds n.toNat {}
    if !isVecFmt m.toNat || (v.len != 0 && v.fmt != m.toNat) then .halt (.fault 0x0E reg)
    else if 64 < num then .halt (.fault 0x0E reg)
    else if 65535 < v.len + num then .halt (.fault 0x0E reg)
    else if feed.elems.length < num then
      if feed.pb = 0 then .halt (.fault 0x10 (BitVec.ofNat 64 n.toNat)) else .halt (.stall (.feed n.toNat))
    else
      let v' : VReg := { v with fmt := m.toNat, runs := v.runs ++ (feed.elems.take num).map fun e => (1, heldElem m.toNat e.2) }
      if 8192 < v'.slots then .halt (.fault 0x0D reg)
      else match feed.poisoned num with
      | some k => .halt (.poison 3 5 1 (BitVec.ofNat 64 (Config.poisonedEntry k c.nextId)))
      | none =>
        let occ := if num = 0 then 6 else occupancy v'.slots
        .ok { c with
          v := vput c.v d.toNat v'
          feeds := vput c.feeds n.toNat { feed with elems := feed.elems.drop num }
          vbusy := some { issue := s.now, until_ := s.now + occ } }

/-! ### The end of a vector load -/

/-- The first active access that failed: its number among the accesses, its fault. -/
def VMem.failed (m : VMem) : Option (Nat × Byte × Word) :=
  match m.elems.zipIdx.find? fun x => x.1.code.isSome with
  | some (x, i) => some (i, x.code.getD 0, x.ea)
  | none => m.stop.map fun f => (m.elems.length, f.1, f.2)

/-- Loaded elements as runs of count 1. -/
def VMem.runs (m : VMem) (xs : List VElem) : Runs := xs.map fun x => (1, heldElem m.fmt (leNat (x.data.getD [])))

/-- Slots of a run image as runs (R139, R140, R178). -/
def imageRuns (fmt : Nat) : List Nat → Runs
  | [] => []
  | [w] => if fmt = 0 then [] else [(w / 2 ^ 48 % 2 ^ 16 + 1, heldElem fmt (w % 2 ^ 32))]
  | w :: x :: t =>
    if fmt = 0 then (x / 2 ^ 48 % 2 ^ 16 + 1, w) :: imageRuns fmt t
    else (w / 2 ^ 48 % 2 ^ 16 + 1, heldElem fmt (w % 2 ^ 32)) :: imageRuns fmt (x :: t)

/-- The part that an access of a strided load belongs to and its place in it, from the active counts. -/
def partOf : List Nat → (j i : Nat) → Nat × Nat
  | [], j, i => (j, i)
  | a :: t, j, i => if i < a then (j, i) else partOf t (j + 1) (i - a)

/-- The destination parts of a load all of whose accesses succeeded, each with the tail of R148. -/
def VMem.wholeParts (m : VMem) (c : Core) : List (Nat × VReg) :=
  (List.range m.active.length).map fun j =>
    let n := m.active.getD j 0
    let xs := (m.elems.drop (m.active.take j).sum).take n
    (m.dst + j, c.withTail (m.dst + j) m.fmt (m.runs xs) m.per n)

/-- The destination parts of a first-fault load cut before its access `i` (R149, R180; log 126). -/
def VMem.cutParts (m : VMem) (i : Nat) : List (Nat × VReg) :=
  (List.range m.active.length).map fun j =>
    let off := (m.active.take j).sum
    let n := min (m.active.getD j 0) (i - off)
    (m.dst + j, ({ fmt := m.fmt, runs := m.runs ((m.elems.drop off).take n) } : VReg))

/-- What a vector memory instruction leaves when its accesses are complete: the core and the slots of R156, or its fault. A COUNT
that does not fit its field is unstated (`wild`, log 5). -/
def VMem.finish (m : VMem) (c : Core) (wild : Nat) : Except (Byte × Word) (Core × Nat) :=
  let put (c : Core) (parts : List (Nat × VReg)) : Except (Byte × Word) (Core × Nat) :=
    match checkSlots parts with
    | .error (e, r) => .error (e, BitVec.ofNat 64 r)
    | .ok _ => .ok (c.setParts parts, (parts.map (·.2.slots)).sum)
  match m.kind with
  | .store => .ok (c, m.slots)
  | .image => match m.failed with
    | some (_, e, ea) => .error (e, ea)
    | none =>
      let v : VReg := { fmt := m.fmt, runs := imageRuns m.fmt (m.elems.map fun x => leNat (x.data.getD [])) }
      if 65535 < v.len then .error (0x0E, BitVec.ofNat 64 m.dst) else put c [(m.dst, v)]
  | .strided => match m.failed with
    | some (_, e, ea) => .error (e, ea)
    | none => put c (m.wholeParts c)
  | .firstFault => match m.failed with
    | none => put c (m.wholeParts c)
    | some (i, e, ea) =>
      if i = 0 then .error (e, ea)
      else
        let (j, r) := partOf m.active 0 i
        let n := j * m.per + r
        let count := if n ≤ 131071 then n else wild
        put (c.setK m.k { count := BitVec.ofNat 17 count, wid := BitVec.ofNat 2 (widthOf m.fmt).log2 }) (m.cutParts i)

end Sys2Proof.Machine
end

