-- ==== Sys2Proof/Machine/Banks.lean ====
section
/-! DEFINITION. The banks of Ember: what each unit presents in a cycle (R182, R206, R281, R290, R293, R303, R305), arbitration with starvation
(R206), write-hold registers (R207), the refresh unit (R215), and the engine writes that a grant performs. -/

namespace Sys2Proof.Machine

/-! ### Requests -/

/-- What a request is for. -/
inductive Doing where
  | fill (prog : Nat)
  | read (e : EngId)
  | write (e : EngId)
  | rmw
  | vec
  | load (who : Reader)
  deriving DecidableEq, Repr

/-- A request presented in a cycle (R206): its core, requester, its own number, and the access. -/
structure Ask where
  core  : CoreId
  who   : Who
  key   : Nat
  place : Place
  addr  : Nat
  doing : Doing
  deriving DecidableEq, Repr

/-- A read, then a write of one engine; where both go to one place they alternate, read first (R281). -/
def alternate (read : Bool) (rd wr : Option Ask) : List Ask :=
  match rd, wr with
  | some r, some w => if r.place == w.place then (if read then [w] else [r]) else [r, w]
  | r, w => r.toList ++ w.toList

/-- The head of an engine that makes accesses. -/
def Eng.working (x : Eng) : Option Cmd := if x.active && x.laid && x.held.isNone then x.queue.head? else none

/-- Requests of a Tongs engine (R281); of the reads of a COPYX served now, those outside the own slice (R305). -/
def State.tongsAsks (s : State) (l : CoreId) (u : Fin 2) : List Ask :=
  let e : EngId := Fin.castLE (by omega) u
  let x := (s.core l).getE e
  match (if x.active && x.laid then x.queue.head? else none) with
  | none => []
  | some cmd =>
    let ask (p : Place) (a : Nat) (d : Doing) : Ask := { core := l, who := .tongs l u, key := a, place := p, addr := a, doing := d }
    let rd := if x.held.isSome then none
      else if cmd.isCopyx then (if x.served == some s.now then (x.plan.find? fun q => q.1 != .ember l).map fun q => ask q.1 q.2 (.read e) else none)
      else x.plan.head?.map fun q => ask q.1 q.2 (.read e)
    let wr := (s.copyWrite l x cmd).map fun w => ask w.1 w.2.1 (.write e)
    alternate x.read rd wr

/-- Requests of MSTORE and MLOAD: a line write, then reads up to four in all; in global space one read (R318, R319). -/
def State.tileAsks (s : State) (l : CoreId) : List Ask :=
  let x := (s.core l).getE 2
  match x.working with
  | none => []
  | some cmd =>
    if cmd.isMma then []
    else
      let ask (p : Place) (a : Nat) (d : Doing) : Ask := { core := l, who := .crucible, key := a, place := p, addr := a, doing := d }
      let wr := (s.mstoreAsk l x cmd).toList.map fun u => ask u.1 u.2 (.write 2)
      let own := (x.plan.filter fun q => q.1 != .glob).take (4 - wr.length)
      let far := (x.plan.filter fun q => q.1 == .glob).take 1
      wr ++ (own ++ far).map fun q => ask q.1 q.2 (.read 2)

/-- Requests of the fill in progress: its first lines not granted yet (R303). -/
def Core.fillAsks (c : Core) (l : CoreId) (room : Nat) : List Ask :=
  if (c.getE 2).frozen then []
  else ((c.fills.filter fun f => f.held.isNone).flatMap fun f => f.reqs.map fun a =>
    ({ core := l, who := .crucible, key := a, place := .ember l, addr := a, doing := .fill f.prog } : Ask)).take room

/-- Requests that Crucible makes for a COPYX that it serves (R305). -/
def State.copyxAsks (s : State) (l : CoreId) (u : Fin 2) : List Ask :=
  let e : EngId := Fin.castLE (by omega) u
  let x := (s.core l).getE e
  match x.working with
  | none => []
  | some cmd =>
    if !(cmd.isCopyx && x.served == some s.now) then []
    else
      ((x.plan.filter fun q => q.1 == .ember l).take 4).map fun q =>
        ({ core := l, who := .crucible, key := q.2, place := q.1, addr := q.2, doing := .read e } : Ask)

/-- The COPYX that Crucible may serve in this cycle: none while a fill is in progress or a tile command presents requests (R305). -/
def State.copyxServed (s : State) (l : CoreId) : Option (Fin 2) :=
  let c := s.core l
  if c.filling || !(s.tileAsks l).isEmpty then none
  else (List.finRange 2).find? fun u =>
    let y := c.getE (Fin.castLE (by omega) u)
    y.active && y.laid && match y.queue with | cmd :: _ => cmd.isCopyx | [] => false

/-- CRUCIBLE_COPYX_SERVE (R305): the cycle is served, and up to 8 elements are produced; a stream whose feed has not taken the last ones
is held (R275). -/
def execCRUCIBLE_COPYX_SERVE (c : CoreId) (u : Fin 2) (s : State) : Host.Outcome State Fault Refusal :=
  let e : EngId := Fin.castLE (by omega) u
  let x := (s.core c).getE e
  match x.queue with
  | [] => .next s
  | cmd :: _ =>
    if s.copyxServed c != some u || !(cmd.isCopyx && x.laid && x.active) then .next s
    else
      let x := { x with served := some s.now }
      let x := if cmd.toFeed && x.micro < x.made then x else s.produce c cmd 8 x
      .next (s.setCore c ((s.core c).setE e x))

/-- Requests of Crucible, those of MSTORE and MLOAD before the fill's (R303), then a COPYX's. -/
def State.crucibleAsks (s : State) (l : CoreId) : List Ask :=
  let tile := s.tileAsks l
  tile ++ (s.core l).fillAsks l (4 - (tile.filter fun a => a.place != .glob).length) ++ s.copyxAsks l 0 ++ s.copyxAsks l 1

/-- The request of Temper: a line of its load, or of its write queue (R293). -/
def State.temperAsks (s : State) (l : CoreId) : List Ask :=
  let x := (s.core l).getE 3
  match x.working with
  | none => []
  | some cmd =>
    let ask (a : Nat) (d : Doing) : Ask := { core := l, who := .temper, key := a, place := .ember l, addr := a, doing := d }
    match x.plan with
    | q :: _ => [ask q.2 (.read 3)]
    | [] => (s.temperWrite l x cmd).toList.map fun a => ask a (.write 3)

/-- The request of Swage: a line of its window, or a target word (R290). -/
def State.swageAsks (s : State) (l : CoreId) : List Ask :=
  let x := (s.core l).getE 4
  match x.working with
  | none => []
  | some cmd =>
    match x.plan with
    | q :: _ => [{ core := l, who := .swage l, key := q.2, place := q.1, addr := q.2, doing := .read 4 }]
    | [] => (s.swageAsk l x cmd).toList.map fun a =>
      { core := l, who := .swage l, key := a, place := (desc cmd.ty).place l, addr := a, doing := .rmw }

/-- Whether a vector memory instruction waits for the loads of its class before it to be performed (R248; log 119). -/
def Core.vecHeld (c : Core) (v : VBusy) : Bool :=
  c.readOpen v.cls v.prog || c.fly.any fun f => f.cls == v.cls && f.walk.isSome && decide (f.id < v.prog)

/-- A vector memory instruction that makes accesses: its class has been performed up to it, and a release waits for its order (R248, R251). -/
def State.vecWorks (s : State) (l : CoreId) : Option VMem :=
  let c := s.core l
  match c.vbusy with
  | none => none
  | some v => match v.mem with
    | none => none
    | some m => if c.vecHeld v || (m.rel.isSome && !c.mayRelease s.now v.prog) then none else some m

/-- Whether a load before it still has to read some byte of a request of the vector unit (R245, R246). -/
def Core.readsBefore (c : Core) (m : VMem) (r : VReq) : Bool :=
  m.kind != .store && ((m.elems.drop r.first).take r.count).any fun x =>
    c.reads.any fun o => o.unit == 0 && o.land.isNone && o.was.isNone && overlap o.off o.len x.addr x.n

/-- The request of the vector unit, one in each cycle (R182). -/
def State.vecAsks (s : State) (l : CoreId) : List Ask :=
  match s.vecWorks l with
  | none => []
  | some m => match m.ember with
    | [] => []
    | r :: _ => if (s.core l).readsBefore m r then [] else match m.elems[r.first]? with
      | none => []
      | some x => [{ core := l, who := .vec, key := r.first, place := .ember l, addr := x.addr, doing := .vec }]

/-- Reads of Smith: one behind an older one of its class or of one of its bytes, or behind an older acquire, waits for it (R245, R246, R248, R252;
log 28). -/
def Core.smithReads (c : Core) : List SRead → List SRead → List SRead
  | _, [] => []
  | old, r :: t =>
    let open_ := r.land.isNone
    let held := old.any fun o => (c.readClass o).1 == (c.readClass r).1 || (c.readClass o).2 || (o.unit == r.unit && overlap o.off o.len r.off r.len)
    let rest := c.smithReads (if open_ then old ++ [r] else old) t
    if open_ && !held && r.unit == 0 then r :: rest else rest

def State.smithAsks (s : State) (l : CoreId) : List Ask :=
  let c := s.core l
  (c.smithReads [] c.reads).map fun r =>
    { core := l, who := .smith, key := match r.who with | .load id => id + 1 | _ => 0, place := .ember l, addr := r.off, doing := .load r.who }

/-- Whether a core has anything that makes accesses. -/
def Core.quiet (c : Core) : Bool :=
  c.reads.isEmpty && c.vbusy.isNone && c.eng.toList.all fun x => x.queue.isEmpty

/-- Every request of a core in this cycle. -/
def State.asksOf (s : State) (l : CoreId) : List Ask :=
  if (s.core l).quiet then []
  else s.crucibleAsks l ++ s.tongsAsks l 0 ++ s.tongsAsks l 1 ++ s.temperAsks l ++ s.swageAsks l ++ s.vecAsks l ++ s.smithAsks l

/-! ### Arbitration (R206) -/

/-- The place of a request in the order of R206 at the slice of core `k`. -/
def Who.rank (w : Who) (k : CoreId) : Nat :=
  match w with
  | .drain => 0
  | .refresh => 100
  | .crucible => 200
  | .tongs c u => if c = k then 300 + u.val else 302 + 2 * c.val + u.val
  | .temper => 500
  | .swage c => if c = k then 600 else 601 + c.val
  | .vec => 700
  | .smith => 800

/-- A request that has waited 15 consecutive cycles is starved. -/
def Slice.starved (sl : Slice) (a : Ask) : Bool := sl.waits.any fun w => w.1 == a.who && w.2.1 == a.key && decide (15 ≤ w.2.2)

/-- Requests in the order in which they are granted: the starved ones first, then by rank, each requester's own order kept. -/
def Slice.order (sl : Slice) (k : CoreId) (asks : List Ask) : List Ask :=
  sortBy (fun a => (if sl.starved a then 0 else 1000) + a.who.rank k) asks

/-- Grant one request for each bank: those granted and those that wait. -/
def grantBanks : (taken : List Nat) → List Ask → List Ask × List Ask
  | _, [] => ([], [])
  | taken, a :: t =>
    let b := bankOf a.addr
    if taken.contains b then match grantBanks taken t with | (g, w) => (g, a :: w)
    else match grantBanks (b :: taken) t with | (g, w) => (a :: g, w)

/-! ### Writes due into hold registers (R130, R194, R207) -/

/-- Whether an exposed store may write in this cycle; a release waits for its order. -/
def Core.storeReady (c : Core) (now : Nat) (x : Exposed) : Bool := decide (x.t + 3 ≤ now) && (!x.rel || c.mayRelease now x.id)

/-- The exposed stores whose writes are due at the end of this cycle: in issue order for one byte, one for each bank. `banks` are
those that a replayed store takes. -/
def Core.dueFrom (c : Core) (now : Nat) : (banks : List Nat) → (held : List Exposed) → List Exposed → List Exposed
  | _, _, [] => []
  | banks, held, x :: t =>
    let b := bankOf x.off
    if c.storeReady now x && !banks.contains b && !(held.any fun y => overlap x.off x.data.length y.off y.data.length) then
      x :: c.dueFrom now (b :: banks) held t
    else c.dueFrom now banks (x :: held) t

/-- The entries of the landing list that are replayed at the end of this cycle. -/
def Core.dueReplays (c : Core) (now : Nat) : List (Landing × Nat) :=
  c.land.zipIdx.filter fun e => match e.1.at_ with | none => false | some k => decide (k ≤ now)

def Core.dueStores (c : Core) (now : Nat) : List Exposed :=
  if c.exposed.isEmpty then [] else c.dueFrom now ((c.dueReplays now).map fun e => bankOf e.1.off) [] c.exposed

/-- The banks into whose full hold registers a write is due: they drain at rank 0. -/
def Core.forced (c : Core) (now : Nat) : List Nat :=
  let due := (c.dueReplays now).map (fun e => bankOf e.1.off) ++ (c.dueStores now).map fun x => bankOf x.off
  due.filter fun b => c.ember.hold.any (·.1 == b)

/-! ### The refresh unit (R215) -/

/-- REFRESH_REWRITE: the first rewrite of the queue is presented. -/
def execREFRESH_REWRITE (c : CoreId) (s : State) : Host.Outcome State Fault Refusal :=
  let k := s.core c
  match k.ember.queue with
  | [] => .next s
  | q :: rest =>
    if q.begun.isSome || s.now < q.ready then .next s
    else .next (s.setCore c { k with ember := { k.ember with queue := { q with begun := some s.now } :: rest } })

/-- The lines that the refresh unit presents now: 0 to 31 in its first cycle, 32 to 63 in its second, and those that lost their bank. -/
def Slice.refreshLines (sl : Slice) (now : Nat) : List Nat :=
  match sl.queue with
  | [] => []
  | q :: _ => match q.begun with
    | none => []
    | some b =>
      let half (n : Nat) : List Nat := (List.range 32).map fun i => 4096 * q.g + 64 * (n + i)
      if b = now then half 0 else if b + 1 = now then q.lines ++ half 32 else q.lines

/-- The head rewrite after a cycle: `left` are the lines that lost their bank. -/
def Slice.refreshed (sl : Slice) (left : List Nat) : Slice :=
  match sl.queue with
  | [] => sl
  | q :: rest => { sl with queue := { q with lines := left } :: rest }

/-- A line is rewritten: its single-bit errors are corrected, and enter the log (R204, R215). -/
def State.rewriteLine (s : State) (k : CoreId) (a : Nat) : State :=
  let c := s.core k
  let n := if (c.ember.rowAt a).any (·.st == .valid) then c.ember.mem.weakIn a 64 else 0
  if n = 0 then s
  else
    let s := s.setCore k { c with ember := { c.ember with mem := { c.ember.mem with
      weak := c.ember.mem.weak.filter fun w => 8 * w < a || a + 64 ≤ 8 * w } } }
    (List.range n).foldl (fun s _ => s.logEntry 1 (s.physOf k) 0 c.task a) s

/-- Whether the head rewrite has written its last line. -/
def Slice.rewritten (sl : Slice) (now : Nat) : Bool :=
  match sl.queue with
  | [] => false
  | q :: _ => match q.begun with | none => false | some b => decide (b < now) && q.lines.isEmpty

/-- REWRITE_END (R214, R224): a refresh resets the age and counts `refcnt`; an ETOUCH rewrite does neither. -/
def execREWRITE_END (c : CoreId) (s : State) : Host.Outcome State Fault Refusal :=
  let k := s.core c
  match k.ember.queue with
  | [] => .next s
  | q :: rest =>
    if !k.ember.rewritten s.now then .next s
    else
      let k := { k with ember := { k.ember with queue := rest } }.count 8 1
      match k.ember.row q.g with
      | none => .next (s.setCore c k)
      | some r =>
        let k := { k with ember := k.ember.setRow { r with rq := false } }
        if q.touch then .next (s.setCore c k)
        else
          let limit := s.limit (dieOf c) r.cls
          let k := if r.st = .valid then k.resetAge s.now limit q.g else { k with ember := k.ember.setRow { r with rq := false, age := 0 } }
          .next (s.setCore c { k with csr := { k.csr with refcnt := k.csr.refcnt + 1 } })

/-! ### What a grant does -/

/-- A line request of an engine granted, or made in a space without banks: its data lands `delay` cycles on. -/
def State.takeLine (s : State) (a : Ask) (e : EngId) : State :=
  let (due, s) := match a.place with
    | .ember _ => (s.now + 6, s)
    | .sram _ => (s.now + 8, s)
    | .glob => (s.now + 1 + s.delay.1, s.delay.2)
  let line : Line := match a.place with
    | .glob => { place := .glob, addr := a.addr, due := some due }
    | p => s.readLine a.core p a.addr due
  let s := s.modCore a.core fun c =>
    let x := c.getE e
    c.setE e { x with plan := x.plan.filter (fun q => !(q.1 == a.place && q.2 == a.addr)), got := x.got ++ [line], read := true }
  if a.place == .glob then s else s.countLine a.core line

/-- A line of a fill granted. -/
def State.takeFill (s : State) (a : Ask) (prog : Nat) : State :=
  let line := s.readLine a.core a.place a.addr (s.now + 6)
  (s.modCore a.core fun c => { c with fills := c.fills.map fun (f : Fill) =>
    if f.prog == prog then { f with reqs := f.reqs.filter (· != a.addr), got := f.got ++ [line] } else f }).countLine a.core line

/-- A read of Smith granted: its bytes and its fault are fixed, and land 6 cycles on (R205). -/
def State.takeRead (s : State) (l : CoreId) (who : Reader) : State :=
  s.modCore l fun c =>
  let c := if c.reads.any fun r => r.who == who && r.land.isNone then c.relearn who (s.now + 6) else c
  { c with reads := c.reads.map fun (r : SRead) =>
    if r.who == who && r.land.isNone then
      let code := c.readFault r
      let (pois, weak) := if r.was.isSome then (0, 0) else c.ember.errors [(r.off, r.len)]
      { r with land := some (s.now + 6), bytes := c.seenBytes r.issue r.off r.len r.keep, code, weak
               pois := max pois (ofBool (code == some 0x1A)) }
    else r }

/-- The request of the vector unit granted: its reads are made, or its writes wait for the end of the arbitration (`vecWrite`). -/
def State.takeVec (s : State) (l : CoreId) : State :=
  let c := s.core l
  match c.vbusy with
  | none => s
  | some v => match v.mem with
    | none => s
    | some m => match m.ember with
      | [] => s
      | r :: rest =>
        let mine (i : Nat) : Bool := decide (r.first ≤ i) && decide (i < r.first + r.count)
        let elems := m.elems.zipIdx.map fun x =>
          if mine x.2 && m.kind != .store then
            let kept := m.bad.any fun a => x.1.addr ≤ a && a < x.1.addr + x.1.n
            { x.1 with data := some (c.seenBytes v.issue x.1.addr x.1.n m.keep)
                       code := if kept then some 0x1A else c.ember.readFault x.1.addr x.1.n }
          else x.1
        let took := elems.zipIdx.filter fun x => mine x.2
        let (pois, weak) := if m.kind == .store then (0, 0) else c.ember.errors (took.map fun x => (x.1.addr, x.1.n))
        let land := max m.land (if m.kind == .store then s.now + 1 else s.now + 6)
        let s := s.setCore l { c with vbusy := some { v with mem := some { m with ember := rest, elems, land } } }
        s.foundErrors l 0 weak pois ((took.map (·.1.addr)).headD 0)

/-- The elements that a vector store's next request writes. -/
def VMem.writes (m : VMem) : List VElem :=
  match m.kind, m.ember with
  | .store, r :: _ => (m.elems.drop r.first).take r.count
  | _, _ => []

/-- A vector write to own Ember, at the end of its grant cycle: it lands after every earlier scalar store to its bytes (R179). -/
def Core.vecPut (c : Core) (x : VElem) : Core :=
  let data := x.data.getD []
  let newer (off : Nat) (old : List Byte) : List Byte :=
    old.zipIdx.map fun b => if x.addr ≤ off + b.2 && off + b.2 < x.addr + data.length then data.getD (off + b.2 - x.addr) b.1 else b.1
  let c := { c with reads := (c.keepReads x.addr data.length fun _ => true).reads }
  { c with
    ember := c.ember.write x.addr (data.map some)
    exposed := c.exposed.map fun (y : Exposed) => { y with data := newer y.off y.data }
    land := c.land.map fun (y : Landing) => if y.at_.isSome then { y with data := newer y.off y.data } else y }

/-- The line that some elements of one request lie in, and the bytes of it that they write together: a word that they cover whole carries no mark any
more (R204). -/
def lineBase (xs : List VElem) : Nat := ((xs.head?.map (·.addr)).getD 0) / 64 * 64
def lineBytes (xs : List VElem) : List (Option Byte) :=
  (List.range 64).map fun i => xs.findSome? fun x =>
    let a := lineBase xs + i
    if x.addr ≤ a && a < x.addr + x.n then (x.data.getD [])[a - x.addr]? else none

/-- The writes of one granted request of a vector store. -/
def Core.vecPuts (c : Core) (xs : List VElem) : Core :=
  let c := xs.foldl Core.vecPut c
  { c with ember := c.ember.write (lineBase xs) (lineBytes xs) }

/-- Whether a store to operand SRAM at `a` waits for an older one to the same bytes that is still on its way (R128, R179, R246). -/
def Core.sramBarred (c : Core) (a n prog : Nat) : Bool :=
  c.gst.any fun g => decide (2 ^ 48 ≤ g.addr) && decide (g.prog < prog) && overlap (g.addr - sramWindow) g.data.length a n

/-- The side port of the vector unit (R182, R228): one request in each cycle; reads return 8 cycles on, writes are made at once. -/
def State.vecSide (s : State) (l : CoreId) : State :=
  match s.vecWorks l, (s.core l).vbusy with
  | some m, some v => match m.side with
    | [] => s
    | r :: rest =>
      let c := s.core l
      let mine (i : Nat) : Bool := decide (r.first ≤ i) && decide (i < r.first + r.count)
      let took := (m.elems.drop r.first).take r.count
      if m.kind == .store then
        if took.any fun x => c.sramBarred x.addr x.n v.prog then s else
        let sram := took.foldl (fun (m : Mem) x => m.write x.addr (x.data.getD [])) c.sram
        let sram := sram.writeMask (lineBase took) (lineBytes took)
        s.setCore l { c with sram, vbusy := some { v with mem := some { m with side := rest, land := max m.land (s.now + 1) } } }
      else
        let elems := m.elems.zipIdx.map fun x =>
          if mine x.2 then
            let v := c.readSram x.1.addr x.1.n
            { x.1 with data := some v.1, code := poisonCode v.2.1 }
          else x.1
        let pois := touched c.sram.pois (took.map fun x => (x.addr, x.n))
        let weak := touched c.sram.weak (took.map fun x => (x.addr, x.n))
        let s := s.setCore l { c with vbusy := some { v with mem := some { m with side := rest, elems, land := max m.land (s.now + 8) } } }
        s.foundErrors l 1 weak pois ((took.map (·.addr)).headD 0)
  | _, _ => s

/-- A granted request: a read takes its data, a write becomes an event of the end of the cycle. -/
def State.serve (acc : State × List Event) (a : Ask) : State × List Event :=
  let (s, ev) := acc
  match a.doing with
  | .fill prog => (s.takeFill a prog, ev)
  | .read e => (s.takeLine a e, ev)
  | .write e =>
    let i : Event := match e with
      | 0 => .tongsLineWrite a.core 0 | 1 => .tongsLineWrite a.core 1
      | 2 => .mstoreLineWrite a.core | _ => .temperRowWrite a.core
    (s, ev ++ [i])
  | .rmw => (s, ev ++ [.swageRmw a.core])
  | .vec => (s.takeVec a.core, ev)
  | .load who => (s.takeRead a.core who, ev)

/-- The slice of core `k` in a cycle: `asks` are the requests for it. -/
def State.arbitrate (k : CoreId) (asks : List Ask) (acc : State × List Event) : State × List Event :=
  let (s, ev) := acc
  let c := s.core k
  let forced := c.forced s.now
  let lines := c.ember.refreshLines s.now
  if asks.isEmpty && lines.isEmpty && c.ember.hold.isEmpty then
    (if c.ember.waits.isEmpty then s else s.setCore k { c with ember := { c.ember with waits := [] } }, ev)
  else
    let (fresh, lost) := grantBanks forced (lines.map fun a => { core := k, who := .refresh, key := a, place := .ember k, addr := a, doing := .rmw })
    let taken := forced ++ fresh.map fun (a : Ask) => bankOf a.addr
    let (won, wait) := grantBanks taken (c.ember.order k asks)
    let taken := taken ++ asks.map fun a => bankOf a.addr
    let idle := (c.ember.hold.map (·.1)).filter fun b => !taken.contains b && !(lost.any fun a => bankOf a.addr == b)
    let waits := wait.map fun a => (a.who, a.key, ((c.ember.waits.find? fun w => w.1 == a.who && w.2.1 == a.key).map (·.2.2)).getD 0 + 1)
    let stuck := wait.any fun a => a.who == .vec || a.who == .smith
    let c := { c with ember := ({ c.ember with waits } : Slice).refreshed (lost.map fun (a : Ask) => a.addr) }.count 2 (ofBool stuck)
    let s := s.setCore k c
    let ev := ev ++ (forced ++ idle).map fun b => .writeHoldDrain k (Fin.ofNat 32 b)
    let s := fresh.foldl (fun s a => s.rewriteLine k a.addr) s
    won.foldl State.serve (s, ev)

/-- Vector writes of the requests granted to stores, made at the end of the cycle. -/
def State.vecWrites (s s' : State) (l : CoreId) : State :=
  match ((s.core l).vbusy.bind (·.mem)), ((s'.core l).vbusy.bind (·.mem)) with
  | some m, some m' => if m.ember.length == m'.ember.length then s' else s'.modCore l fun c => c.vecPuts m.writes
  | _, _ => s'

/-- Whether a slice has work of its own. -/
def Slice.works (sl : Slice) : Bool := !sl.hold.isEmpty || !sl.queue.isEmpty || !sl.waits.isEmpty

/-- A fill has presented its last request once that is among the requests of a cycle (R302). -/
def Fill.present (f : Fill) (l : CoreId) (asks : List Ask) : Fill :=
  { f with shown := f.shown || asks.any fun a => a.core == l && a.doing == .fill f.prog && some a.addr == f.reqs.getLast? }

def State.showFills (s : State) (asks : List Ask) : State :=
  (List.finRange 64).foldl (fun s l =>
    if (s.core l).fills.isEmpty then s else s.modCore l fun c => { c with fills := c.fills.map fun f => f.present l asks }) s

/-- Apply a change to every core that has reads of Smith under way. -/
def State.eachRead (s : State) (f : State → CoreId → State) : State :=
  ((List.finRange 64).filter fun l => !(s.core l).reads.isEmpty).foldl f s

/-- A cycle of every bank: the state with every read made, and the writes of the end of the cycle. -/
def State.banks (s : State) : State × List Event :=
  let all := (List.finRange 64).flatMap s.asksOf
  let s := s.showFills all
  let acc := (List.finRange 64).foldl (fun (acc : State × List Event) k =>
    let mine := all.filter fun a => a.place == .ember k
    if mine.isEmpty && !(acc.1.core k).ember.works then acc else State.arbitrate k mine acc) (s, [])
  let acc := (all.filter fun a => match a.place with | .ember _ => false | _ => true).foldl State.serve acc
  let s' := (List.finRange 64).foldl (fun (s' : State) l => if (s.core l).vbusy.isNone then s' else (s.vecWrites s' l).vecSide l) acc.1
  let s' := s'.eachRead State.sramReads
  (s', acc.2)

/-! ### Resets of a boundary cycle (R211) -/

/-- The row group whose 64th line a Tongs engine writes in this cycle (R212). An engine about to stop does not write. -/
def State.completes (s : State) (l : CoreId) (u : Fin 2) : Option (CoreId × Nat) :=
  let x := (s.core l).getE (Fin.castLE (by omega) u)
  match x.queue with
  | [] => none
  | cmd :: _ => match (if x.active && x.laid && !(s.core l).preq then s.copyWrite l x cmd else none) with
    | some (.ember k, a, _) =>
      let old := ((x.full.find? fun y => y.1 == k.val && y.2.1 == a / 4096).map (·.2.2)).getD 0
      if (old ||| 2 ^ (a / 64 % 64)) = 2 ^ 64 - 1 && old != 2 ^ 64 - 1 then some (k, a / 4096) else none
    | _ => none

/-- The row groups that Tongs writes and refreshes reset in this cycle, as the requests of the banks now stand. -/
def State.resetsNow (s : State) : List (CoreId × Nat) :=
  let (t, ev) := s.banks
  (ev.filterMap fun e => match e with | .tongsLineWrite l u => s.completes l u | _ => none) ++
    (List.finRange 64).filterMap fun k => match (t.core k).ember.queue with
      | q :: _ => if (t.core k).ember.rewritten s.now && !q.touch then some (k, q.g) else none
      | [] => none

/-- Whether an age tick boundary falls in this cycle. -/
def State.ageing (s : State) : Bool := (List.finRange 64).any fun k => (s.core k).ember.bound == some s.now

/-- In a boundary cycle the resets that fall in it come before the boundary's own steps, so that what issues and what is read in the cycle
finds them made (R211). -/
def State.resetFirst (s : State) : State :=
  if !s.ageing then s
  else s.resetsNow.foldl (fun s x => s.modCore x.1 fun c => match c.ember.row x.2 with
    | none => c
    | some r => c.resetAge s.now (s.limit (dieOf x.1) r.cls) x.2) s

/-! ### Events of the end of a cycle -/

/-- WRITE_HOLD_DRAIN (R207). -/
def execWRITE_HOLD_DRAIN (c : CoreId) (bank : Fin 32) (s : State) : Host.Outcome State Fault Refusal :=
  .next (s.modCore c fun k => { k with ember := k.ember.drain bank.val })

/-- EXPOSED_STORE_WRITE (R130): the store enters the hold register of its bank; reads issued before the end of its window and not granted
yet keep the bytes it replaces. -/
def execEXPOSED_STORE_WRITE (c : CoreId) (id : Nat) (s : State) : Host.Outcome State Fault Refusal :=
  let k := s.core c
  match (k.dueStores s.now).find? (·.id == id) with
  | none => .next s
  | some x =>
    let k := k.keepReads x.off x.data.length fun i => i ≤ x.t + 3
    .next (s.setCore c { k with ember := k.ember.enterHold x.off x.data, exposed := k.exposed.filter (·.id != id) })

/-- LANDING_ENTRY_REPLAY (R194, R196): an armed entry writes at the end of cycle u + r − 1. -/
def execLANDING_ENTRY_REPLAY (c : CoreId) (slot : Fin 8) (s : State) : Host.Outcome State Fault Refusal :=
  let k := s.core c
  match k.land[slot.val]? with
  | none => .next s
  | some e => match e.at_ with
    | none => .next s
    | some d =>
      if s.now < d then .next s
      else
        let k := k.keepReads e.off e.data.length fun i => i ≤ d
        .next (s.setCore c { k with ember := k.ember.enterHold e.off e.data, land := k.land.eraseIdx slot.val })

/-- TONGS_LINE_WRITE (R281, R282): a destination line, with the age and layout tag it sets (R212, R219). -/
def execTONGS_LINE_WRITE (c : CoreId) (u : Fin 2) (s : State) : Host.Outcome State Fault Refusal :=
  let e : EngId := Fin.castLE (by omega) u
  let x := (s.core c).getE e
  match x.queue with
  | [] => .next s
  | cmd :: _ => match (if x.active && x.laid then s.copyWrite c x cmd else none) with
    | none => .next s
    | some (p, a, fs) =>
      let s := s.putBytes c p a (unitWrite a cmd.unitSize fs (s.curByte c p))
      let (s, full) := match p with
        | .ember k => s.coverLine k a (desc cmd.ty).ltag x.full
        | .glob => (s.notesWrites c (2 + u.val) [a], x.full)
        | _ => (s, x.full)
      let rest := x.lines.drop 1
      .next (s.setCore c ((s.core c).setE e { x with
        lines := rest, micro := x.micro + 1, full, read := false, last := if rest.isEmpty then some s.now else x.last }))

/-- The events of the end of a cycle that no bank grants: replays, exposed stores, tile writes, ends of passes, link flits, rewrites. -/
def State.endings (s : State) (l : CoreId) : List Event :=
  let c := s.core l
  let x := c.getE 2
  let anvil : List Event := match x.working with
    | none => []
    | some cmd => match cmd.kind with
      | .mzero .. => if s.now = x.t0 + 15 && x.sub = 0 then [.mzeroWrite l] else []
      | .mload .. => List.replicate (x.mloadRows cmd l s.now) (.mloadRowWrite l)
      | _ => []
  let pass : List Event := match x.queue with
    | cmd :: _ => if x.active && cmd.isMma && x.sub = 1 && s.now + 1 = x.t0 + cmd.passLen then
        [.anvilPassEnd l (c.residue == some s.now)] else []
    | [] => []
  let link : List Event := (if (s.linkSends l).isSome then [.linkFlitSend l] else []) ++
    (if (s.linkTakes l).isSome then [.linkFlitReceive l] else [])
  anvil ++ pass ++ link

/-- The stores of a core that write at the end of this cycle: a replay is named by its place in the list once those before it have gone. -/
def State.storeEndings (s : State) (l : CoreId) : List Event :=
  let c := s.core l
  ((c.dueReplays s.now).zipIdx.map fun e => (.landingEntryReplay l (Fin.ofNat 8 (e.1.2 - e.2)) : Event)) ++
    (c.dueStores s.now).map fun x => .exposedStoreWrite l x.id

end Sys2Proof.Machine
end

