-- ==== Sys2Proof/Machine/Sys.lean ====
section
/-! DEFINITION. The SYS instructions but END: YIELD, TRAP, RETT, BRK, NOP (R196 to R199), FENCE (R249), SEQW (R272), WAITV (R273),
WAIT (R271), and their 16-bit forms (R90). -/

namespace Sys2Proof.Machine

/-- Whether a load in flight is known to fault: it is marked, or its read of own Ember has found or now finds a fault (R131, R205). -/
def Core.doomed (c : Core) (f : Fly) : Bool :=
  f.mark.isSome || match c.reads.find? (·.who == .load f.id) with
    | some r => (if r.land.isSome then r.code else c.readFault r).isSome
    | none => false

/-- The fault of a load on its way that is known to fault. -/
def Core.doom (c : Core) (f : Fly) : Byte :=
  (f.mark.orElse fun _ => (c.reads.find? (·.who == .load f.id)).bind fun r =>
    if r.land.isSome then r.code else c.readFault r).getD 0

/-- The deferred fault that a waiting position takes (R131): that of the oldest load of a class in `mask` that has landed marked, or is on its
way and known to fault (log 41). -/
def Core.deferred (c : Core) (mask : Nat → Bool) : Option Halt :=
  let known := (c.marks.filter fun m => mask m.cls) ++
    ((c.fly.filter fun f => c.doomed f && mask f.cls).map fun f => ⟨f.id, f.dst, c.doom f, f.ea, f.cls⟩)
  let oldest := known.foldl (fun acc (m : Mark) => match acc with | none => some m | some x => if m.id < x.id then some m else some x) none
  oldest.map fun m => .fault m.code m.ea (some m.id)

/-- Any class. -/
def anyClass (_ : Nat) : Bool := true

/-- NOP (R199). -/
def execNOP (s : State) : Host.Outcome State Fault Refusal := smith s 4 .plain fun _ c => .ok c

/-- C.NOP: NOP (R90). -/
def execC_NOP (s : State) : Host.Outcome State Fault Refusal := smith s 2 .plain fun _ c => .ok c

/-- A breakpoint: cause 0x1B after the position (R199). -/
def breakpoint (size : Nat) (s : State) : Host.Outcome State Fault Refusal :=
  smith s size .plain fun s c =>
    .done c (fun c' => { c' with stepOf := none }.raise 0x1B c.fetch.pc.addr none false (s.now + 1)) id

/-- BRK (R199). -/
def execBRK (s : State) : Host.Outcome State Fault Refusal := breakpoint 4 s

/-- C.BRK: BRK (R90). -/
def execC_BRK (s : State) : Host.Outcome State Fault Refusal := breakpoint 2 s

/-- YIELD (R199): a pending deferred fault is taken here; a pre-emption request is taken at the boundary that follows. -/
def execYIELD (s : State) : Host.Outcome State Fault Refusal :=
  smith s 4 .plain fun _ c => match c.deferred anyClass with
    | some h => .halt h
    | none => .ok c

/-- TRAP (R199): the core stops for Salamander, whose answer comes after a free time. -/
def execTRAP (d a b : BitVec 6) (s : State) : Host.Outcome State Fault Refusal :=
  smith s 4 .plain fun s c => with2 c a.toNat b.toNat [] d.toNat fun c' x y =>
    .done c' (fun c => { c with stepOf := none, run := .service x y d.toNat (s.now + 1 + s.delay.1) }) (fun s => s.delay.2)

/-- RETT resumes a frozen engine at its micro-PC. A command frozen by a schedule miss runs unstamped (R315), and Anvil's fill is made
again (R312). -/
def Core.resumeEngine (c : Core) (e : EngId) (code : Nat) : Core :=
  let x := c.getE e
  let queue := match x.queue with
    | [] => []
    | cmd :: rest => (if code = 0x11 then { cmd with stamp := none, miss := none } else cmd) :: rest
  { c.setE e { x with queue, frozen := false } with fills := if e.val = 2 then [] else c.fills }

/-- Resume or abandon the engine whose cause was taken (R196, R197). -/
def State.returnEngine (s : State) (l : CoreId) (cause : Word) : State :=
  let e := fld cause 9 3
  if fld cause 8 1 = 0 then s
  else if h : e < 6 then
    let id : EngId := ⟨e, h⟩
    if fld cause 12 1 = 1 then s.abandon l id else s.modCore l fun c => c.resumeEngine id (fld cause 0 8)
  else s

/-- RETT (R196). -/
def execRETT (s : State) : Host.Outcome State Fault Refusal :=
  smith s 4 .rett fun s c =>
    if !c.csr.h then .halt (.fault 0x06 c.fetch.pc.addr)
    else .stay { c.return (s.now + 1) with ready := s.now + 1 } (fun t => t.returnEngine s.cur c.csr.cause)

/-- Whether a counter meets its bound (R271). -/
def meets (bound v : Nat) : Bool := bound == 63 || decide (v ≤ bound)

/-- The first of the four counters that does not meet its bound: 0 LD, 1 ST, 2 CP, 3 TL. -/
def Core.unmet (c : Core) (ld st cp tl : Nat) : Option Nat :=
  if !meets ld c.ld then some 0 else if !meets st c.st then some 1 else if !meets cp c.cp then some 2
  else if !meets tl c.tl then some 3 else none

/-- WAIT over the four counters (R271): it completes in the cycle in which it finds every bound met. -/
def waitCounters (size ld st cp tl : Nat) (s : State) : Host.Outcome State Fault Refusal :=
  smith s size .plain fun _ c => match (if ld = 63 then none else c.deferred anyClass) with
    | some h => .halt h
    | none => match c.unmet ld st cp tl with
      | none => .ok c
      | some k => .halt (.stall (.counters k))

/-- WAIT (R271). -/
def execWAIT (l st c t : BitVec 6) (s : State) : Host.Outcome State Fault Refusal :=
  waitCounters 4 l.toNat st.toNat c.toNat t.toNat s

/-- C.WAIT: WAIT any, any, cp, tl (R90). -/
def execC_WAIT (c : BitVec 5) (t : BitVec 6) (s : State) : Host.Outcome State Fault Refusal :=
  waitCounters 2 63 63 (if c.toNat = 31 then 63 else c.toNat) t.toNat s

/-- The wrap-aware test of R388: X has reached Y. -/
def reached (x y : BitVec 32) : Bool := decide ((x - y).toNat < 2 ^ 31)

/-- SEQW (R272). -/
def execSEQW (a b : BitVec 6) (s : State) : Host.Outcome State Fault Refusal :=
  smith s 4 .plain fun _ c => with2 c a.toNat b.toNat [] 0 fun c' x y =>
    match c.eng.toList[fld x 0 3]? with
    | none => .halt (.fault 0x01 c.fetch.pc.addr)
    | some e => if reached e.seq (BitVec.ofNat 32 (fld y 0 32)) then .ok c' else .halt (.stall (.counters (4 + fld x 0 3)))

/-- The classes a FENCE operand names (R249). -/
def fenceMask (a : Word) (k : Nat) : Bool := fld a 0 16 == 0 || bitsAt (fld a 0 16) k 1 == 1

/-- Close the lines before a waiting position once (R256): a repeated execution finds them closed. -/
def Core.closeOnce (c : Core) : Core := if c.closes.any (fun k => k + 1 == c.nextId) then c else c.close

/-- FENCE (R249): it closes the commit-buffer lines before it (R256) and waits for the accesses of its classes. -/
def execFENCE (a : BitVec 6) (s : State) : Host.Outcome State Fault Refusal :=
  smith s 4 .plain fun s c => with1 c a.toNat [] 0 fun c' x =>
    match c.deferred (fenceMask x) with
    | some h => .halt h
    | none =>
      if c.fenceDone s.now (fenceMask x) then .ok c'.closeOnce else .wait c.closeOnce .fence id

/-- Whether a word meets WAITV's condition (R273). -/
def waitvCond (k : Nat) (v b : Word) : Bool :=
  match k with
  | 0 => v == b | 1 => v != b | 2 => b.ule v | 3 => v.ult b | 4 => b.sle v | _ => v.slt b

def Reader.isWaitv : Reader → Bool
  | .waitv => true
  | _ => false

/-- WAITV (R273): it reads the word until its condition is met; it always acquires (R250). -/
def execWAITV (k : BitVec 3) (a b : BitVec 6) (s : State) : Host.Outcome State Fault Refusal :=
  smith s 4 .plain fun s c => with2 c a.toNat b.toNat [] 0 fun c' x y =>
    let off := fld x 0 28
    let others := c.reads.filter fun r => !r.who.isWaitv
    let ask : Act :=
      match c.ember.rowAt off with
      | none => .halt (.fault 0x09 x)
      | some _ =>
        if c.csr.dbgPend && c.pendingByte s.now off 8 then .halt (.fault 0x0C x)
        else .wait { c with reads := others ++ [{ who := .waitv, off, len := 8, issue := s.now }] } (.emberWord x.toNat) (fun s => s.fixLoads s.cur c.nextId)
    if x.toNat / 2 ^ 28 != 0xE00000000 then .halt (.fault 0x09 x)
    else if fld x 0 3 != 0 then .halt (.fault 0x07 x)
    else match c.reading Reader.isWaitv with
      | none => if c.classStall s.now (c.access 0).1 then .halt (.stall .classOrder) else ask
      | some r =>
        if !r.here then .halt (.stall (.emberWord x.toNat))
        else match r.code with
          | some e => .halt (.fault e x)
          | none =>
            if waitvCond k.toNat (BitVec.ofNat 64 (leNat r.bytes)) y then landNow s.now { c' with reads := others } else ask

end Sys2Proof.Machine
end

