-- ==== Sys2Proof/Machine/Cards.lean ====
section
/-! DEFINITION. The job-card image (R321), units and levels (R25 to R28), quantum commits (R258), barrier completion (R332,
R333), dependence counters (R329) and the pending pool (R30, R331). -/

namespace Sys2Proof.Machine

/-- `n` bytes of a card image at a byte offset (R321). -/
def Card.at_ (k : Card) (off n : Nat) : Nat := bitsAt k.image.toNat (8 * off) (8 * n)

def Card.ctrl (k : Card) : Nat := k.at_ 0x16 2
/-- KIND: a gang. -/
def Card.gang (k : Card) : Bool := bitsAt k.ctrl 0 1 == 1
def Card.prio (k : Card) : Nat := bitsAt k.ctrl 1 3
def Card.nlvl (k : Card) : Nat := bitsAt k.ctrl 4 4
def Card.nlease (k : Card) : Nat := bitsAt k.ctrl 8 5
def Card.classDef (k : Card) : Nat := bitsAt k.ctrl 13 3
def Card.entry (k : Card) : Nat := k.at_ 0x00 6
def Card.argBase (k : Card) : Nat := k.at_ 0x08 6
def Card.argCount (k : Card) : Nat := k.at_ 0x10 4
def Card.argSize (k : Card) : Nat := k.at_ 0x14 2
def Card.gangN (k : Card) : Nat := k.at_ 0x18 4
def Card.flags (k : Card) : Nat := k.at_ 0x1C 4
def Card.conf (k : Card) : Bool := bitsAt k.flags 0 1 == 1
def Card.resv (k : Card) : Nat := bitsAt k.flags 1 3
def Card.depv (k : Card) : Bool := bitsAt k.flags 4 1 == 1
def Card.dep (k : Card) : Nat := bitsAt k.flags 5 12
def Card.save (k : Card) : Nat := k.at_ 0x20 6
def Card.spill (k : Card) : Nat := k.at_ 0x28 6
def Card.spillP (k : Card) : Nat := k.at_ 0x30 4
def Card.spqn (k : Card) : Nat := k.at_ 0x34 2
def Card.depCnt (k : Card) : Nat := k.at_ 0x36 2
def Card.tag (k : Card) : BitVec 32 := BitVec.ofNat 32 (k.at_ 0x38 4)
/-- A level entry: domain, scope, extent. -/
def Card.domain (k : Card) (j : Nat) : Nat := bitsAt (k.at_ (0x40 + 8 * j) 8) 0 3
def Card.scope (k : Card) (j : Nat) : Nat := bitsAt (k.at_ (0x40 + 8 * j) 8) 3 3
def Card.extent (k : Card) (j : Nat) : Nat := bitsAt (k.at_ (0x40 + 8 * j) 8) 32 32
/-- A lease entry: base, length in bytes, rights (R356). -/
def Card.lease (k : Card) (i : Nat) : Nat × Nat × Nat :=
  let e := k.at_ (0x80 + 16 * i) 16
  (bitsAt e 0 48, bitsAt e 64 32 * 65536, bitsAt e 96 3)

/-- P_j of R25. -/
def Card.prod (k : Card) : Nat → Nat
  | 0 => 1
  | j + 1 => k.prod j * k.extent j

/-- T of R323. -/
def Card.parts (k : Card) : Nat := if k.gang then k.gangN else 64

/-- The unit of a task on a barrier tag (R332). -/
def Card.unitOf (k : Card) (tag index : Nat) : Nat := if tag = 8 then 0 else index / k.prod (tag + 1)

/-- The members of a unit that are bound: task index and core, ascending (R258). -/
def Card.members (k : Card) (tag unit : Nat) : List (Nat × CoreId) :=
  sortBy (·.1) (k.cores.filter fun m => k.unitOf tag m.1 == unit)

/-- CP of a unit's tag (R332). -/
def Card.cp (k : Card) (tag unit : Nat) : BitVec 32 :=
  ((k.cps.find? fun x => x.1 == tag && x.2.1 == unit).map (·.2.2)).getD 0

/-- Accept every plain store of a core that is still on its way, then commit all its lines (R256, R258). -/
def State.quantum (s : State) (l : CoreId) : State :=
  let c := s.core l
  let s := (c.gst.filter (·.plain)).foldl (fun s g => s.acceptStore l g) s
  let s := s.modCore l fun c => { c with gst := c.gst.filter (!·.plain) }
  s.commitAll l

/-- Whether a decrement of program order `prog` may be sent (R255, R336): the accesses before it are performed. -/
def Core.mayDecrement (c : Core) (now prog : Nat) : Bool := !c.scalarOpen prog (fun _ => true) && !c.engineOpen now prog (fun _ => true)

/-- The decrements that a task has issued are sent in program order, each once its quantum commit has passed and the accesses before it are
performed (R255, R336); one to a member that has been declared lost is dropped (R373). -/
def State.sendDecs (s : State) (l : CoreId) : State :=
  let c := s.core l
  let go := (c.decs.takeWhile fun d => d.2.2 && c.mayDecrement s.now d.2.1).map (·.1)
  let known (m : Nat) : Bool := s.chorus.members.any fun x => x.idx == m && (x.st == 2 || x.st == 3)
  let (far, near) := go.partition fun a => bitsAt a 22 1 == 1
  (s.setCore l { c with decs := c.decs.drop go.length }).setHub { s.hub with
    sent := s.hub.sent ++ near.map (fun a => BitVec.ofNat 12 a)
    remote := s.hub.remote ++ (far.filter fun a => known (bitsAt a 12 10)).map (fun a => (bitsAt a 12 10, BitVec.ofNat 12 a)) }

/-- What a member held back until its quantum commit (R331, R336): its decrements may be sent and its spawned cards become eligible. -/
def State.release (s : State) (l : CoreId) : State :=
  let t := (s.core l).theTask
  let s := s.modCore l fun c => { c with decs := c.decs.map fun d => (d.1, d.2.1, true) }
  (s.setHub { s.hub with
    cards := s.hub.cards.map fun k => if k.parent == some (t.card, l.val) then { k with held := false } else k }).sendDecs l

/-- The quantum commit of some members in ascending task index (R258). -/
def State.quantumCommit (s : State) (ms : List (Nat × CoreId)) : State :=
  let s := ms.foldl (fun s m => s.quantum m.2) s
  ms.foldl (fun s m => s.release m.2) s

/-! ### Barriers -/

/-- Whether every task of a unit lies in this package. -/
def Card.whole (k : Card) (tag unit : Nat) : Bool :=
  k.span.isEmpty || (k.members tag unit).length == (if tag = 8 then k.parts else k.prod (tag + 1))

/-- The cores of a unit that are live on a tag: a task at END is not (R332; log 109). -/
def State.liveMembers (s : State) (k : Card) (tag unit : Nat) : List (Nat × CoreId) :=
  (k.members tag unit).filter fun m =>
    (vget (s.core m.2).tags tag {}).live && (s.core m.2).stall != some .gangEnd && (s.core m.2).stall != some .endWait

/-- Whether every live member of a unit here has reached the next instance of its tag (R332). -/
def State.allReached (s : State) (k : Card) (tag unit : Nat) : Bool :=
  (s.liveMembers k tag unit).all fun m => reached (vget (s.core m.2).tags tag {}).ph (k.cp tag unit + 1)

/-- The cycle in which the members leave an instance that completes now, and whether R333 fixes it. -/
def State.leaveAt (s : State) (k : Card) (tag unit : Nat) : (Nat × Bool) × State :=
  let ms := k.members tag unit
  let oneDie := match ms with | [] => true | m :: t => t.all fun x => dieOf x.2 == dieOf m.2
  let empty := (s.liveMembers k tag unit).all fun m => (s.core m.2).wbuf.isEmpty && (s.core m.2).spilt.isEmpty && (s.core m.2).gst.all (!·.plain)
  if oneDie && empty && ms.length == (if tag = 8 then k.parts else k.prod (tag + 1)) then ((s.now + 4, true), s)
  else ((s.now + 4 + s.delay.1, false), s.delay.2)

/-- After an arrival or a departure: an instance that every live member has reached completes (R332). Of a unit that has tasks in other packages,
the chorus brings the completion (log 100). -/
def State.checkBarrier (s : State) (card tag unit : Nat) : State :=
  match s.hub.card card with
  | none => s
  | some k =>
    if k.whole tag unit && !(s.liveMembers k tag unit).isEmpty && !(k.bars.any fun b => b.1 == tag && b.2.1 == unit) && s.allReached k tag unit then
      let (d, s) := s.leaveAt k tag unit
      s.modCard card fun k => { k with bars := k.bars ++ [(tag, unit, d)] }
    else s

/-! ### Dependence counters (R329) -/

def Hub.dep (h : Hub) (c : Nat) : Dep := (h.deps.find? (·.ctr == c)).getD ⟨c, 0, none⟩

/-- Put a counter; one at its reset value without a waiting card is not listed. -/
def Hub.setDep (h : Hub) (d : Dep) : Hub :=
  let rest := h.deps.filter (·.ctr != d.ctr)
  { h with deps := if d.v = 0 && d.card.isNone then rest else d :: rest }

/-- A card becomes eligible for binding: it waits from now on (R42), also while its gang member's quantum commit holds it (log 110). -/
def State.enqueue (s : State) (card : Nat) : State :=
  s.modCard card fun k => { k with st := .waiting, since := s.clock.tick.toNat }

/-- Decrement(c) of R329. -/
def State.decrement (s : State) (c : Nat) : State :=
  let d := s.hub.dep c
  let v := if d.v ≤ -2147483648 then d.v else d.v - 1
  match d.card with
  | some k =>
    if v = 0 then (s.setHub (s.hub.setDep ⟨c, 0, none⟩)).enqueue k else s.setHub (s.hub.setDep { d with v })
  | none => s.setHub (s.hub.setDep { d with v })

/-! ### The pending pool (R30) -/

/-- A template, all zero when it has not been written (R360). -/
def Hub.template (h : Hub) (n : Nat) : Vector Word 72 :=
  ((h.templates.find? (·.n == n)).map (·.image)).getD (Vector.replicate 72 0)

def Hub.setTemplate (h : Hub) (n : Nat) (v : Vector Word 72) : Hub :=
  { h with templates := ⟨n, v⟩ :: h.templates.filter (·.n != n) }

/-- Whether a template is usable by a task (R360). -/
def usable (v : Vector Word 72) (t : Task) : Bool :=
  let o := vget v 65 0
  fld o 34 1 == 1 && fld o 32 2 == t.func.val && (fld o 35 1 == 1 || fld o 0 32 == t.tag.toNat)

/-- The card image of a template: its first 64 doublewords. -/
def templateImage (v : Vector Word 72) : BitVec 4096 :=
  BitVec.ofNat 4096 ((v.toList.take 64).foldr (fun w acc => w.toNat + 2 ^ 64 * acc) 0)

/-- Where a spawned card goes (R30). -/
inductive SpawnPlace where
  | pool | spill | full
  deriving DecidableEq, Repr

def Hub.spawnPlace (h : Hub) (parent : Card) (member : Bool) : SpawnPlace :=
  let mine := (h.spill.filter fun i => ((h.card i).bind (·.parent)).map (·.1) == some parent.id).length
  let free := 256 - h.pool.length
  if mine = 0 && (if member then 0 < free else 32 < free) then .pool
  else if mine < parent.spqn then .spill
  else .full

/-- A card gives back its entry of the pool. -/
def Hub.unpool (h : Hub) (n : Nat) : Hub :=
  { h with pool := h.pool.filter (· != n), freed := h.freed + ofBool (h.pool.contains n) }

/-- Place a spawned card (R331, R338): its image is copied; a spilled one is written to the spawn spill queue (R325). -/
def State.placeSpawn (s : State) (l : CoreId) (t : Task) (image : BitVec 4096) (p : SpawnPlace) : State :=
  let h := s.hub
  let n := h.nextCard
  let k : Card := { id := n, image, func := t.func, st := if p = .spill then .spilled else .pending,
                    parent := some (t.card, l.val), held := t.gang }
  match p with
  | .full => s
  | .pool => s.setHub { h with cards := h.cards ++ [k], nextCard := n + 1, pool := h.pool ++ [n] }
  | .spill =>
    let s := s.setHub { h with cards := h.cards ++ [k], nextCard := n + 1, spill := h.spill ++ [n] }
    match h.card t.card with
    | none => s
    | some parent =>
      let a := parent.spill + 512 * (parent.spills % max 1 parent.spqn)
      (s.writeGlobal t a ((leBytes 512 image.toNat).map some)).modCard t.card fun k => { k with spills := k.spills + 1 }

end Sys2Proof.Machine
end

