-- ==== Sys2Proof/Machine/Sync.lean ====
section
/-! DEFINITION. The SYNC instructions (R334 to R338), and END (R200), which leaves every barrier. -/

namespace Sys2Proof.Machine

/-- A usable tag (R335): the task is a gang member, the tag is its own and it is live on it. -/
def Core.tagOk (c : Core) (tag : Nat) : Bool :=
  let t := c.theTask
  t.gang && (tag == 8 || decide (tag < t.nlvl)) && (vget c.tags tag {}).live

/-- CP of the task's unit on a tag. -/
def cpOf (s : State) (c : Core) (tag : Nat) : BitVec 32 :=
  let t := c.theTask
  match s.hub.card t.card with
  | none => 0
  | some k => k.cp tag (k.unitOf tag t.index)

/-- Set a tag's state. -/
def Core.setTag (c : Core) (tag : Nat) (x : Tag) : Core := { c with tags := vput c.tags tag x }

/-- A tag after an arrival: the next instance, and where in program order it was reached. -/
def Tag.arrive (x : Tag) (prog : Nat) : Tag := { x with ph := x.ph + 1, since := prog }

/-- An arrival or departure of the current task: the values of its loads before it are fixed (R254), and the instance may complete (R332). -/
def barrierFx (c : Core) (tag : Nat) (s : State) : State :=
  let t := c.theTask
  let s := ((s.modCore s.cur fun k => k.fixReads fun _ => true).sramReads s.cur).fixLoads s.cur c.nextId
  match s.hub.card t.card with
  | none => s
  | some k => s.checkBarrier t.card tag (k.unitOf tag t.index)

/-- Whether END's waits are over (R200): engines, counters, exposed stores, loads and, outside a gang, commits. -/
def Core.endReady (c : Core) : Bool :=
  c.eng.toList.all (·.queue.isEmpty) && c.ld == 0 && c.exposed.isEmpty && c.land.all (·.at_.isNone) && c.gst.isEmpty && c.reads.isEmpty &&
  c.fly.all (fun f => !c.unfixed f) && (c.theTask.gang || c.wbuf.isEmpty)

/-- A frozen command is abandoned at END (R200). -/
def State.dropFrozen (s : State) (l : CoreId) : State :=
  [(0 : EngId), 1, 2, 3, 4, 5].foldl (fun s e => if ((s.core l).getE e).frozen then s.abandon l e else s) s

/-- A gang member has reached END and is live on no tag any more: an instance that waited on it alone completes (R258, R332; log 109). -/
def endFx (c : Core) (s : State) : State :=
  if c.theTask.gang then (8 :: List.range c.theTask.nlvl).foldl (fun s tag => barrierFx c tag s) s else s

/-- END (R200): it waits, abandoning frozen commands; then the task is ready to retire, at once or, in a gang, once every
member has reached END (R258). -/
def execEND (s : State) : Host.Outcome State Fault Refusal :=
  smith s 4 .plain fun s c => match c.deferred anyClass with
    | some h => .halt h
    | none =>
      if !c.endReady then .wait c .endWait (fun t => endFx c (t.dropFrozen s.cur))
      else if c.theTask.gang then .wait c .gangEnd (endFx c)
      else .stay { c with run := .ending } id

/-- A barrier instruction leaves: in the cycle in which it was released the next position issues at once (R333). -/
def leave (s : State) (old c : Core) (fx : State → State) : Act :=
  match old.stall with
  | some (.barrier _ _) | some (.arrived _) =>
    .done c (fun c => { c with ready := s.now }) (fun s => fx { s with clock := { s.clock with turn := s.cur.val } })
  | _ => .done c id fx

/-- A SYNC instruction that names a barrier tag (R335). -/
def onTag (a : BitVec 6) (f : State → (old c : Core) → (tag : Nat) → Tag → Act) (s : State) :
    Host.Outcome State Fault Refusal :=
  smith s 4 .plain fun s c => with1 c a.toNat [] 0 fun c' x =>
    let tag := fld x 0 4
    if !c.tagOk tag then .halt (.fault 0x01 c.fetch.pc.addr) else f s c c' tag (vget c.tags tag {})

/-- BARW: wait until the outstanding instance has completed (R335). An ARR found outside the handler is cleared. -/
def barw (arrivedStall : Bool) (s : State) (c c' : Core) (tag : Nat) (x : Tag) : Act :=
  let c2 := if c.csr.h then c' else c'.setTag tag { x with arr := false }
  if reached (cpOf s c tag) x.ph then leave s c c2 id
  else .wait (if c.csr.h then c else c.setTag tag { x with arr := false }) (if arrivedStall then .arrived tag else .barrier tag false) id

/-- BAR: arrive once, then wait (R335). -/
def execBAR (a : BitVec 6) (s : State) : Host.Outcome State Fault Refusal :=
  onTag a (fun s c c' tag x =>
    if (x.arr && !c.csr.h) || c.stall == some (.arrived tag) then barw true s c c' tag x
    else if reached (cpOf s c tag) x.ph then
      .wait (c.setTag tag (x.arrive c.nextId)) (.arrived tag) (barrierFx c tag)
    else .halt (.stall (.barrier tag false))) s

/-- BARA: wait for the previous instance, then arrive (R335). -/
def execBARA (a : BitVec 6) (s : State) : Host.Outcome State Fault Refusal :=
  onTag a (fun s c c' tag x =>
    if reached (cpOf s c tag) x.ph then leave s c (c'.setTag tag (x.arrive c.nextId)) (barrierFx c tag)
    else .halt (.stall (.barrier tag true))) s

/-- BARW (R335). -/
def execBARW (a : BitVec 6) (s : State) : Host.Outcome State Fault Refusal := onTag a (barw false) s

/-- BARX: leave the tag's membership (R35, R335). -/
def execBARX (a : BitVec 6) (s : State) : Host.Outcome State Fault Refusal :=
  onTag a (fun _ c c' tag x => .done (c'.setTag tag { x with live := false }) id (barrierFx c tag)) s

/-- Whether the earlier accesses of a task are performed and, outside a gang, committed (R336, R338). -/
def Core.settled (c : Core) (now : Nat) : Bool := c.fenceDone now fun _ => true

/-- DEPDEC (R336). A decrement is kept as A[22:0], with its program order, until it is sent. -/
def execDEPDEC (a : BitVec 6) (s : State) : Host.Outcome State Fault Refusal :=
  smith s 4 .plain fun s c => with1 c a.toNat [] 0 fun c' x =>
    let far := fld x 22 1 == 1
    let known := s.chorus.members.any fun m => m.idx == fld x 12 10 && (m.st == 2 || m.st == 3)
    let own := fld x 12 10 == s.chorus.self
    let word := if far && !own then fld x 0 23 else fld x 0 12
    if far && !known then .halt (.fault 0x09 x)
    else if c.theTask.gang then .ok { c' with decs := c'.decs ++ [(word, c'.nextId, false)] }
    else if c.settled s.now then
      let c' := c'.closeOnce
      .done { c' with decs := c'.decs ++ [(word, c'.nextId, true)] } id (fun s => s.sendDecs s.cur)
    else .wait c.closeOnce .depOrder id

/-- SPATCH (R337): the hub writes the doubleword after a free time. -/
def execSPATCH (a b : BitVec 6) (s : State) : Host.Outcome State Fault Refusal :=
  smith s 4 .plain fun s c => with2 c a.toNat b.toNat [] 0 fun c' x y =>
    let n := fld x 0 10
    let w := fld x 10 6
    let v := s.hub.template n
    if !usable v c.theTask || fld (vget v 64 0) w 1 == 0 then .halt (.fault 0x09 x)
    else match c.wait with
      | none => .wait { c with wait := some (s.now + 1 + s.delay.1) } .template (fun s => s.delay.2)
      | some d =>
        if s.now < d then .halt (.stall .template)
        else .done c' id (fun s => s.setHub (s.hub.setTemplate n (vput (s.hub.template n) w y)))

/-- SPAWN (R338). -/
def execSPAWN (a : BitVec 6) (s : State) : Host.Outcome State Fault Refusal :=
  smith s 4 .plain fun s c => with1 c a.toNat [] 0 fun c' x =>
    let v := s.hub.template (fld x 0 10)
    let t := c.theTask
    if !usable v t then .halt (.fault 0x09 x)
    else if !c.settled s.now then .wait c.closeOnce .spawn id
    else match s.hub.card t.card with
      | none => .halt (.stall .spawn)
      | some k =>
        let p := s.hub.spawnPlace k t.gang
        if p = .full then .wait c.closeOnce .spawn id
        else .done c'.closeOnce id (fun s => s.placeSpawn s.cur t (templateImage v) p)

end Sys2Proof.Machine
end

