-- ==== Sys2Proof/Machine/CoreEvents.lean ====
section
/-! DEFINITION. The events of a core (95_what_each_step_holds.md): landings (R105), the returns of reads (R204, R205, R237, R273), the end of a
vector instruction (R157, R182), the end of stalls (R32, R33), annulled and illegal positions (R93, R110), acceptance and commit of stores
(R256, R257), trap entry (R191, R193) and Salamander's services (R199). -/

namespace Sys2Proof.Machine

/-! ### Landings and reads -/

/-- RESULT_LANDING (R105). -/
def execRESULT_LANDING (c : CoreId) (id : Nat) (s : State) : Host.Outcome State Fault Refusal :=
  let k := s.core c
  match k.fly.find? (·.id == id) with
  | none => .next s
  | some f => match f.due with
    | none => .next s
    | some d => .next (if d ≤ s.now then s.setCore c (k.landFly f) else s)

/-- The errors of a read that lands are counted and logged, and its fault is fixed (R204, R391): those that it found at its grant, and an error
that strikes it. -/
def State.landRead (s : State) (c : CoreId) (r : SRead) (e : Ecc) : State × Option Byte :=
  let old := s.core c
  let s := s.strike c r.off e
  let valid := ((s.core c).ember.rowAt r.off).any (·.st == .valid)
  let had (l : List Nat) : Nat := ofBool (l.contains (r.off / 8))
  let weak := if valid && e == .single then max 1 (r.weak + 1 - had old.ember.weak) else r.weak
  let pois := if valid && e == .double then max 1 (r.pois + 1 - had old.ember.pois) else r.pois
  (s.foundErrors c 0 weak pois r.off, r.code.orElse fun _ => poisonCode pois)

/-- Mark a read of TDCOPY or WAITV as landed. -/
def Core.arrive (c : Core) (who : Reader → Bool) (code : Option Byte) : Core :=
  { c with reads := c.reads.map fun (x : SRead) => if who x.who then { x with here := true, code } else x }

/-- EMBER_READ_RETURN (R205): identity 0 is TDCOPY's read, any other a load's. -/
def execEMBER_READ_RETURN (c : CoreId) (id : Nat) (e : Ecc) (s : State) : Host.Outcome State Fault Refusal :=
  let mine (w : Reader) : Bool := if id = 0 then w.isTd else w == .load id
  match (s.core c).reads.find? fun r => mine r.who && r.unit == 0 && !r.here && (match r.land with | none => false | some d => decide (d ≤ s.now)) with
  | none => .next s
  | some r =>
    let (s, code) := s.landRead c r e
    let k := s.core c
    if id = 0 then .next (s.setCore c (k.arrive mine code))
    else
      let fly := k.fly.map fun (f : Fly) => if f.id == id then { f with val := extend f.ext r.bytes, mark := code, due := some s.now } else f
      .next (s.setCore c { k with fly, reads := k.reads.filter fun x => !mine x.who })

/-- WAITV_READ (R273): the word lands; the position tests it when it executes again. -/
def execWAITV_READ (c : CoreId) (e : Ecc) (s : State) : Host.Outcome State Fault Refusal :=
  match (s.core c).reads.find? fun r => r.who.isWaitv && !r.here && (match r.land with | none => false | some d => decide (d ≤ s.now)) with
  | none => .next s
  | some r =>
    let (s, code) := s.landRead c r e
    .next (s.modCore c fun k => k.arrive Reader.isWaitv code)

/-- TDCOPY's read of operand SRAM or global memory lands. -/
def State.landTd (s : State) (c : CoreId) : State :=
  match (s.core c).reads.find? fun r => r.who.isTd && r.unit != 0 && !r.here && (match r.land with | none => false | some d => decide (d ≤ s.now)) with
  | none => s
  | some r => (s.modCore c fun k => { k.arrive Reader.isTd r.code with late := k.late + ofBool (r.unit == 2) }).foundErrors c r.unit r.weak r.pois r.off

/-! ### Global reads (R237) -/

/-- WALK_COMPLETE (R237, R248, R256): the value of a global load is fixed, after that of a load of its class that waits for its bank (log 119). -/
def execWALK_COMPLETE (c : CoreId) (id : Nat) (s : State) : Host.Outcome State Fault Refusal :=
  match (s.core c).fly.find? fun f => f.id == id && f.walk.isSome with
  | none => .next s
  | some f => .next (if (s.core c).readOpen f.cls id then s else s.fixLoad c f)

/-! ### The vector unit -/

/-- The global reads of a vector load are made (R182). -/
def State.vecGlobal (s : State) (l : CoreId) : State :=
  let c := s.core l
  match c.vbusy with
  | none => s
  | some v => match v.mem with
    | none => s
    | some m => match m.glob with
      | none => s
      | some d =>
        if s.now < d || c.vecHeld v then s
        else
          let elems := m.elems.map fun (x : VElem) =>
            if x.isGlob then
              let r := c.readGlobal s.mem x.ea.toNat x.addr x.n
              { x with data := some r.1, code := poisonCode r.2.1 }
            else x
          let globs := elems.filter VElem.isGlob
          let errs := globs.map fun x => (c.readGlobal s.mem x.ea.toNat x.addr x.n).2
          let weak := (errs.map (·.2)).sum
          let pois := (errs.map (·.1)).sum
          let s := s.setCore l { c with vbusy := some { v with mem := some { m with elems, glob := none, land := s.now } } }
          let s := globs.foldl (fun s x => s.walked l 1 x.ea.toNat x.addr) s
          s.foundErrors l 2 weak pois ((globs.map (·.addr)).headD 0)

/-- Whether every access of a vector memory instruction is complete. -/
def VMem.complete (m : VMem) (now : Nat) : Bool :=
  m.ember.isEmpty && m.side.isEmpty && m.stored.isEmpty && m.glob.isNone && decide (m.land ≤ now)

/-- The cycle at which a vector instruction ends, once it is known (R182). -/
def State.vecEnds (s : State) (l : CoreId) : Bool :=
  let c := s.core l
  match c.vbusy with
  | none => false
  | some v => match v.mem with
    | none => decide (v.until_ ≤ s.now)
    | some m => m.complete s.now && match m.finish c (Config.wild s.clock.free) with
      | .error _ => true
      | .ok (_, slots) => decide (v.issue + occupancy slots ≤ s.now)

/-- VECTOR_OCCUPANCY_END (R157, R182): the next position may issue. A vector memory instruction completes, or takes its fault, here. -/
def execVECTOR_OCCUPANCY_END (c : CoreId) (s : State) : Host.Outcome State Fault Refusal :=
  if !s.vecEnds c then .next s
  else
    let k := s.core c
    match k.vbusy.bind (·.mem) with
    | none => .next (s.setCore c { k with vbusy := none })
    | some m => match m.finish k (Config.wild s.clock.free) with
      | .error (e, tval) => .next (s.setCore c ({ k with vbusy := none }.raise e tval none false s.now))
      | .ok (k', _) =>
        let s := { s.fresh.2 with cur := c }
        .next (finishPos s k { k' with vbusy := none } .plain none (fun x => { x with ready := s.now }) id)

/-! ### Positions -/

/-- ANNULLED_POSITION (R105, R110): one issue cycle; only a fetch fault, 0x04 and 0x05 are raised. -/
def execANNULLED_POSITION (c : CoreId) (s : State) : Host.Outcome State Fault Refusal :=
  let s := { s with cur := c }
  let k := s.core c
  let p := k.fetch.pc
  if !(k.run == .running && p.ann) then .next s
  else match wordAt s.mem k.theTask k.loop p.addr.toNat with
    | .error (e, a) => .next (s.fetchFault c e (BitVec.ofNat 64 a))
    | .ok (size, _) =>
      let head := isHeader s.mem k.theTask k.loop p.addr.toNat
      if p.tgt && !head then .next (s.setCore c (k.raise 0x04 p.src none false s.now))
      else .next (perform s size (if head then .header else .plain) fun _ k => .ok k)

/-- ILLEGAL_INSTRUCTION (R93): fault 0x01, or 0x02 for a reserved field. -/
def execILLEGAL_INSTRUCTION (c : CoreId) (reserved : Bool) (parcel : Word) (s : State) : Host.Outcome State Fault Refusal :=
  let k := s.core c
  if k.run == .running then .next (s.setCore c (k.raise (if reserved then 0x02 else 0x01) parcel none false s.now)) else .next s

/-- ISSUE_STALL_RELEASE (R33): the cause of a stall has ended; the position then issues. -/
def execISSUE_STALL_RELEASE (c : CoreId) (s : State) : Host.Outcome State Fault Refusal :=
  .next (s.modCore c fun k => { k with stall := none })

/-- WAIT_CONDITION_MET (R271, R272): the counters meet their bounds; the position then completes. -/
def execWAIT_CONDITION_MET (c : CoreId) (s : State) : Host.Outcome State Fault Refusal :=
  .next (s.modCore c fun k => match k.stall with | some (.counters _) => { k with stall := none } | _ => k)

/-! ### Acceptance and commit of stores -/

/-- Stores that may be made now: a store to operand SRAM (R228) with none before it to the same bytes, the first plain global store (R256), a release store whose order is met
(R251). -/
def Core.readyStores (c : Core) (now : Nat) : List GStore :=
  let room (g : GStore) : Bool := c.theTask.gang || !needsLine c.wbuf c.closes g.addr g.prog || decide (c.wbuf.length < 1024)
  let plain := ((c.gst.filter (·.plain)).head?.toList).filter fun g => g.due ≤ now && room g
  plain ++ c.gst.filter fun g => !g.plain && g.due ≤ now && (if g.rel.isSome then c.mayRelease now g.prog
    else !c.sramBarred (g.addr - sramWindow) g.data.length g.prog)

/-- The next store of a vector instruction that may be made. -/
def Core.readyVec (c : Core) (now : Nat) : Option (VBusy × VMem × GStore) :=
  match c.vbusy with
  | none => none
  | some v => match v.mem with
    | none => none
    | some m => match m.stored with
      | [] => none
      | g :: _ =>
        let room := c.theTask.gang || !needsLine c.wbuf c.closes g.addr g.prog || decide (c.wbuf.length < 1024)
        let ok := if g.rel.isSome then c.mayRelease now v.prog else c.gst.all (fun x => !x.plain) && room && !c.vecHeld v
        if ok then some (v, m, g) else none

/-- Take a store out of the list of those on their way. -/
def Core.dropStore (c : Core) (prog : Nat) : Core := { c with gst := c.gst.filter (·.prog != prog) }

/-- The mask words, in the spill area, of the spilled lines that a release store supersedes bytes of (R256, R325). -/
def State.spiltMasks (s : State) (l : CoreId) (a n : Nat) : State :=
  let c := s.core l
  let t := c.theTask
  (c.spilt.zipIdx.filter fun x => overlap x.1.addr 64 a n).foldl (fun s x =>
    s.writeGlobal t (t.spill + 0x88 + 80 * x.2) ((leBytes 8 (maskNat x.1.bytes)).map some)) s

/-- A store on its way is made: accepted into the commit buffer, or written; a release store supersedes the bytes of its task that the buffer and the
spilled lines hold at its address (R256). -/
def State.makeStore (s : State) (l : CoreId) (g : GStore) : State :=
  let c := s.core l
  if g.plain then s.acceptStore l g
  else if 2 ^ 48 ≤ g.addr then s.setCore l { c with sram := c.sram.writeMask (g.addr - sramWindow) g.data }
  else
    let s := (s.modCore l fun c => c.supersedeOld g).spiltMasks l g.addr g.data.length
    s.writeProgram c.theTask g.addr g.data

/-- STORE_ACCEPT (R256): one store. -/
def execSTORE_ACCEPT (c : CoreId) (s : State) : Host.Outcome State Fault Refusal :=
  let k := s.core c
  match k.readyStores s.now with
  | g :: _ => .next ((s.makeStore c g).modCore c fun k => k.dropStore g.prog)
  | [] => match k.readyVec s.now with
    | none => .next s
    | some (v, m, g) =>
      .next ((s.makeStore c g).modCore c fun k =>
        { k with vbusy := some { v with mem := some { m with stored := m.stored.drop 1, land := max m.land (s.now + 1) } } })

/-- Whether the oldest line of a task that is not a gang member commits now: no release store older than its bytes is still to be made, and no load
older than them is still to read them (R246). -/
def Core.lineDue (c : Core) (now : Nat) : Bool :=
  match c.wbuf with
  | [] => false
  | l :: _ => !c.theTask.gang && decide (l.due ≤ now) &&
      !(c.gst.any fun g => !g.plain && g.addr < 2 ^ 48 && (l.held.all fun h => g.prog < h.2)) &&
      !c.fly.any fun f => f.walk.isSome && (l.held.any fun h => f.id < h.2) && overlap f.ea.toNat f.size l.addr 64

/-- COMMIT_LINE (R257). -/
def execCOMMIT_LINE (c : CoreId) (s : State) : Host.Outcome State Fault Refusal :=
  let k := s.core c
  if !k.lineDue s.now then .next s
  else match k.wbuf with
    | [] => .next s
    | l :: rest => .next ((s.commitLine k.theTask l).modCore c fun k => { k with wbuf := rest })

/-! ### Traps -/

/-- The asynchronous trap that is taken at this boundary, in the order of R191: code, `tval`, engine, single step. -/
def Core.pendingTrap (c : Core) : Option (Byte × Word × Option EngId × Bool) :=
  if c.csr.h then none
  else match c.pend19 with
    | some m => some (0x19, m, none, false)
    | none =>
      if c.pend18 then some (0x18, 0, none, false)
      else match (List.finRange 6).findSome? fun e => (c.getE e).cause.map fun f => (e, f) with
        | some (e, f) => some (f.1, f.2, some e, false)
        | none => match c.expiry with
          | g :: _ => some (0x0B, BitVec.ofNat 64 g, none, false)
          | [] => c.stepOf.map fun a => (0x1B, a, none, true)

/-- A cause that is taken leaves the place where it was pending; the engine of an engine cause stays frozen. -/
def Core.takeCause (c : Core) (code : Byte) (eng : Option EngId) : Core :=
  match eng with
  | some e => c.setE e { c.getE e with cause := none }
  | none =>
    if code = 0x19 then { c with pend19 := none }
    else if code = 0x18 then { c with pend18 := false }
    else if code = 0x0B then { c with expiry := c.expiry.drop 1 }
    else { c with stepOf := none }

/-- Whether every pending slot has landed (R104). -/
def Core.landedAll (c : Core) : Bool := c.q.toList.all fun x => match x.pend with | none => true | some id => !c.flying id

/-- TRAP_ENTRY (R191, R193): a pending asynchronous cause is taken at the boundary; a cause already taken enters its handler, or stops the task,
once the queue has landed. -/
def execTRAP_ENTRY (c : CoreId) (code : Byte) (tval : Word) (eng : Option EngId) (single : Bool) (s : State) :
    Host.Outcome State Fault Refusal :=
  let k := s.core c
  match k.run with
  | .running =>
    if k.pendingTrap = some (code, tval, eng, single) then .next (s.setCore c ((k.takeCause code eng).raise code tval eng single s.now))
    else .next s
  | .entering code tval eng single =>
    if k.enters code && !k.landedAll then .next s else .next (s.trapEnter c code tval eng single)
  | _ => .next s

/-! ### Salamander's services -/

/-- The part of the spill and save areas that a core's task has (R323). -/
def Card.part (k : Card) (t : Task) (l : CoreId) : Nat := if k.gang then t.index else l.val

/-- How often the task in a part has been restored (R341). -/
def Card.restored (k : Card) (part : Nat) : Nat := ((k.restores.find? (·.1 == part)).map (·.2)).getD 0

/-- A task has been restored (R341): its restore word rises by 1. -/
def Card.revive (k : Card) (part : Nat) : Card :=
  { k with restores := (part, k.restored part + 1) :: k.restores.filter (·.1 != part), revived := k.revived + 1 }

/-- A new task begins in a part: its restore word is 0. -/
def Card.newTask (k : Card) (part : Nat) : Card := { k with restores := k.restores.filter (·.1 != part) }

/-- Salamander writes the restore word of a core's task (R341). -/
def State.writeRestores (s : State) (l : CoreId) (t : Task) : State :=
  match s.hub.card t.card with
  | none => s
  | some k =>
    let n := k.restored (k.part t l)
    s.writeGlobal t t.spill ((leBytes 8 n).map some)

/-- The result of a service (R199). -/
def serviceResult (s : State) (a : Word) : Word :=
  match fld a 0 16 with
  | 0 => 0
  | 1 => s.clock.tick
  | 2 => 0
  | _ => 0xFFFFFFFFFFFFFFFF

/-- SYSTEM_SERVICE (R199, R341): the result is pushed and written, and the task resumes at the next position. -/
def execSYSTEM_SERVICE (c : CoreId) (s : State) : Host.Outcome State Fault Refusal :=
  let k := s.core c
  match k.run with
  | .service a b dst due =>
    if s.now < due then .next s
    else
      let t := k.theTask
      let v := serviceResult s a
      let s := if fld a 0 16 = 2 then s.modCard t.card fun x => { x with diag := b } else s
      let s := s.writeRestores c t
      .next (s.modCore c fun k => { ({ k with q := pushQ k.q { val := v } }.setS dst v) with run := .running, ready := s.now })
  | _ => .next s

end Sys2Proof.Machine
end

