-- ==== Sys2Proof/Machine/EngineEvents.lean ====
section
/-! DEFINITION. The events that engines share: a command reaching the head of its queue (R266, R280) and completing (R267), elements entering
feeds (R275), returns of global reads (R237), schedule misses (R314), and flits that reach a link port (R395, R402, R411). -/

namespace Sys2Proof.Machine

/-! ### The head of a queue -/

/-- A COPYM with a mask of 0: it makes no access (R284). -/
def Cmd.aimless (cmd : Cmd) : Bool := match cmd.kind with | .copym _ => cmd.bound.getD 0 == 0 | _ => false

/-- The blocks of an EBX stream as its headers give them now: offset and length of each, and whether it is well formed; the first that is not is
the last one. `whole` says that checksums count too. -/
def State.ebxBlocks (s : State) (l : CoreId) (d : Desc) (whole : Bool) : (fuel o e : Nat) → List (Nat × Nat × Bool)
  | 0, _, _ => []
  | fuel + 1, o, e =>
    let peek (a : Nat) : Byte := match d.place l with
      | .glob => match translate s.mem (s.core l).theTask (a % 2 ^ 48) needRd with | none => 0 | some x => s.mem.get x
      | p => s.curByte l p a
    let bytes (n : Nat) : List Byte := (List.range n).map fun i => peek (d.base + o + i)
    let h := leNat (bytes 32)
    let all := if whole then bytes (ebxLen h) else []
    if ebxHeadBad h d.pfmt || decide (d.d0 * d.d1 < e + ebxCnt h) || (whole && crc32c (all.take 24 ++ all.drop 28) != ebxCrc h) then [(o, 32, false)]
    else (o, ebxLen h, true) :: (if e + ebxCnt h < d.d0 * d.d1 then State.ebxBlocks s l d whole fuel (ebxNext o h) (e + ebxCnt h) else [])

/-- The global bytes that the stream of a command with an EBX source touches, the stream itself and what EXPORT writes of it (R239, R280). -/
def State.streamUses (s : State) (l : CoreId) (cmd : Cmd) : List (Nat × List Nat) :=
  let ds := desc cmd.tz
  let dd := desc cmd.ty
  if !(cmd.isCopyx || cmd.isExport) || ds.fmt != 11 then []
  else
    let bs := s.ebxBlocks l ds cmd.isExport (ds.d0 * ds.d1) 0 0
    let n := 64 + 40 * (bs.filter (·.2.2)).length
    let ps := exportPieces dd n (bs.all (·.2.2) && decide (n ≤ dd.d0 * dd.d1))
    (if ds.space = 3 then [(needRd, bs.flatMap fun b => (List.range b.2.1).map (ds.base + b.1 + ·))] else []) ++
      (if cmd.isExport && dd.space == 3 then [(needW, (ps.1 ++ ps.2).flatMap fun q => bytesOfBits q.dst q.dw)] else [])

/-- The global bytes that a command touches, each with the right it needs (R239, R280): sources first, in stream order. -/
def Cmd.globalUses (cmd : Cmd) : List (Nat × List Nat) :=
  let ds := desc cmd.tz
  let dd := desc cmd.ty
  let dx := desc cmd.tx
  let on (d : Desc) (need : Nat) (bits : List (Nat × Nat)) : List (Nat × List Nat) :=
    if d.space = 3 then [(need, bits.flatMap fun b => bytesOfBits b.1 b.2)] else []
  let rd := on ds needRd
  let wr := on dd needW
  match cmd.kind with
  | .copy | .copyt | .copyo | .copym _ =>
    let ps := if cmd.aimless then [] else cmd.pieces
    rd (ps.map fun q => (q.src, q.sw)) ++ wr (ps.map fun q => (q.dst, q.dw))
  | .exportMeta =>
    if ds.fmt = 11 then []
    else
      let n := 64 + ds.arrayBytes
      let ps := exportPieces dd n (decide (n ≤ dd.d0 * dd.d1))
      rd ds.arrays ++ wr ((ps.1 ++ ps.2).map fun q => (q.dst, q.dw))
  | .copyx toFeed _ =>
    rd ((List.range cmd.total).flatMap cmd.uses) ++ (if toFeed then [] else wr (cmd.pieces.map fun q => (q.dst, q.dw)))
  | .copyf => rd ((List.range cmd.total).flatMap cmd.uses)
  | .sacc _ | .saccr .. =>
    let es := List.range cmd.saccPairs
    rd (es.map fun e => (cmd.idxBit e, 32)) ++ on dx needRd (es.map fun e => (cmd.valBit e, 32))
  | .mstore _ =>
    on dd needRd (cmd.storeBits.flatMap fun e => cmd.storeMeta e.1 e.2.1) ++ wr (cmd.storeBits.map fun e => (e.2.2.1, e.2.2.2))
  | .mload .. => rd ((List.range ds.d1).flatMap cmd.loadRow)
  | .lxfer _ => rd (denseBytes ds).flatten
  | .lrecv _ => wr ((List.range dd.count).map fun e => (dd.at_ e, bitsOf dd.fmt))
  | .lred _ =>
    on dd needRd (if isAq dd.fmt then (List.range dd.count).flatMap fun e => dd.metaBits dd.fmt dd.base (dd.metaIdx dd.fmt (e % dd.d0) (e / dd.d0))
      else []) ++ wr ((List.range dd.count).map fun e => (dd.at_ e, bitsOf dd.fmt))
  | .rowsm | .rownm _ | .rowln _ | .rowmx | .mma .. | .mzero .. | .ltopk _ => []

/-- The first byte of a command outside the leases: fault 0x08 (R280). -/
def State.leaseFault (s : State) (l : CoreId) (cmd : Cmd) : Option (Byte × Word) :=
  let t := (s.core l).theTask
  ((s.streamUses l cmd ++ cmd.globalUses).findSome? fun u => t.unleased u.1 (u.2.map (· % 2 ^ 48))).map fun a => (0x08, BitVec.ofNat 64 a)

/-- The place of a stream in its feed's order among those that reach their heads in one cycle (R275). -/
def streamKey (owner l : CoreId) (e : EngId) : Nat := if l = owner then e.val else 8 + 8 * l.val + e.val

/-- A delivering command takes its place in the order of its feed. -/
def State.joinFeed (s : State) (l : CoreId) (e : EngId) (cmd : Cmd) : State :=
  match cmd.feed with
  | none => s
  | some (k, n) =>
    let f := vget (s.core k).feeds n {}
    let new (x : CoreId × EngId) : Bool := ((s.core x.1).getE x.2).head == some s.now
    let order := f.order.filter (fun x => !new x) ++ sortBy (fun x => streamKey k x.1 x.2) (f.order.filter new ++ [(l, e)])
    s.modCore k fun c => { c with feeds := vput c.feeds n { f with order } }

/-- Whether the command of a queue reaches the head now: from the cycle after its entry and after the previous command left (R266, R267). -/
def Eng.headDue (x : Eng) (now : Nat) : Bool :=
  x.head.isNone && !x.stop && !x.frozen && match x.queue with
    | [] => false
    | cmd :: _ => decide (cmd.entry < now) && match x.freed with | none => true | some f => decide (f < now)

/-- ENGINE_COMMAND_HEAD (R266, R275, R280). A command whose queue entry has lost its parity faults (R416). -/
def execENGINE_COMMAND_HEAD (c : CoreId) (e : EngId) (s : State) : Host.Outcome State Fault Refusal :=
  let x := (s.core c).getE e
  if !x.headDue s.now then .next s
  else match x.queue with
    | [] => .next s
    | cmd :: _ =>
      let s := (s.joinFeed c e cmd).modCore c fun k => k.setE e { k.getE e with head := some s.now }
      match s.leaseFault c cmd with
      | some f => .next (s.engFault c e f)
      | none =>
        if cmd.pois then
          let s := (s.modCore c fun k => k.count 1 1).logEntry 3 (s.physOf c) 5 (s.core c).task 0
          .next (s.engFault c e (0x1A, BitVec.ofNat 64 (Config.poisonedEntry e.val cmd.prog)))
        else .next s

/-! ### Completion -/

/-- Whether the head command of an engine is done (R267). -/
def Eng.done (x : Eng) (e : EngId) : Bool :=
  x.active && match x.queue with
    | [] => false
    | cmd :: _ => match e.val with
      | 0 | 1 => x.copyDone cmd
      | 2 => x.anvilDone cmd
      | 3 => x.rowDone cmd
      | 4 => x.saccDone cmd
      | _ => x.sub == 1

/-- ENGINE_COMMAND_COMPLETE (R267, R269): the command leaves its queue. -/
def execENGINE_COMMAND_COMPLETE (c : CoreId) (e : EngId) (s : State) : Host.Outcome State Fault Refusal :=
  .next (if ((s.core c).getE e).done e then s.dropHead c e else s)

/-! ### Feeds -/

/-- Whether a stream has delivered its last element. -/
def Eng.delivered (x : Eng) : Bool :=
  match x.queue with
  | [] => true
  | cmd :: _ => match cmd.kind with
    | .saccr .. => x.saccDone cmd
    | _ => x.laid && decide (x.micro = cmd.total)

/-- The stream that is being delivered to a feed, or is served next (R275). -/
def State.deliverer (s : State) (c : CoreId) (f : Nat) : Option (CoreId × EngId) :=
  (vget (s.core c).feeds f {}).order.find? fun x => !((s.core x.1).getE x.2).delivered

/-- The element that a stream can deliver now, and its engine after the delivery. -/
def State.nextElem (s : State) (l : CoreId) (e : EngId) : Option ((Nat × Nat) × Eng) :=
  let x := (s.core l).getE e
  match x.queue with
  | [] => none
  | cmd :: _ =>
    if !x.active then none
    else match cmd.kind with
      | .saccr .. => match x.elems with
        | (t, fmt, enc) :: rest => if t ≤ s.now then some ((fmt, enc), { x with elems := rest }) else none
        | [] => none
      | .copyx .. => if x.laid && x.micro < x.made then some (x.feedVal cmd l x.micro, { x with micro := x.micro + 1 }) else none
      | .copyf =>
        if x.laid && x.micro < cmd.total then match s.expandable l x cmd x.micro with
          | some (.ok _) => some (x.feedVal cmd l x.micro, { x with micro := x.micro + 1 })
          | _ => none
        else none
      | _ => none

/-- One element enters a feed with room, at most 8 in a cycle (R275). -/
def State.feedOne (s : State) (c : CoreId) (f : Nat) : Option State :=
  let q := vget (s.core c).feeds f {}
  let took := if q.took.1 = s.now then q.took.2 else 0
  if 64 ≤ q.elems.length || 8 ≤ took then none
  else match s.deliverer c f with
    | none => none
    | some (l, e) => (s.nextElem l e).map fun y =>
        (s.modCore l fun k => k.setE e y.2).modCore c fun k =>
          { k with feeds := vput k.feeds f { q with elems := q.elems ++ [y.1], took := (s.now, took + 1), count := q.count + 1 } }

def State.feedMany (c : CoreId) (f : Nat) : (n : Nat) → State → State
  | 0, s => s
  | n + 1, s => match s.feedOne c f with | none => s | some s' => State.feedMany c f n s'

/-- FEED_ELEMENT_ENTRY (R275): every element that may enter now. -/
def execFEED_ELEMENT_ENTRY (c : CoreId) (f : Fin 8) (s : State) : Host.Outcome State Fault Refusal :=
  .next (State.feedMany c f.val 8 s)

/-- At the end of a cycle a neighbour's binding raises PB (R275). -/
def Feed.settle (f : Feed) (now : Nat) : Feed :=
  if f.soon.isEmpty then f
  else { f with pb := f.pb + (f.soon.filter (· ≤ now)).length, soon := f.soon.filter fun t => now < t }

/-! ### Global reads -/

/-- A line of global memory still without its bytes, whose time has come. -/
def Line.waits (l : Line) (now : Nat) : Bool := l.place == .glob && l.bytes.isEmpty && l.landed now

/-- GLOBAL_READ_RETURN (R237): the lines whose walks complete now. -/
def execGLOBAL_READ_RETURN (c : CoreId) (e : EngId) (s : State) : Host.Outcome State Fault Refusal :=
  let x := (s.core c).getE e
  let due := x.got.filter (·.waits s.now)
  let fill (l : Line) : Line := if l.waits s.now then s.readLine c .glob l.addr s.now else l
  let t := s.setCore c ((s.core c).setE e { x with got := x.got.map fill })
  .next (due.foldl (fun t l =>
    let t := t.countLine c (fill l)
    if e.val < 2 then t.notesReads c (2 + e.val) [l.addr] else t) t)

/-! ### Schedule misses -/

/-- Whether a stamped command has missed its target: in the first cycle at or after it the command has not begun (R314). -/
def Eng.misses (x : Eng) (stamp : Word) : List Nat :=
  (x.queue.zipIdx.filter fun y =>
    y.1.miss.isNone && !(y.2 == 0 && x.begun.isSome) && (match y.1.stamp with | none => false | some t => decide (t ≤ stamp.toNat))).map (·.1.prog)

/-- SCHEDULE_MISS (R314, R315, R401): the misses of an engine are found and held with their commands; that of the command at the head is raised at
once. -/
def execSCHEDULE_MISS (c : CoreId) (e : EngId) (s : State) : Host.Outcome State Fault Refusal :=
  let k := s.core c
  let x := k.getE e
  let found := x.misses s.clock.stamp
  let hit (cmd : Cmd) : Cmd := if found.contains cmd.prog then { cmd with miss := some s.clock.stamp } else cmd
  let s := s.setCore c ((k.setE e { x with queue := x.queue.map hit }).count 9 found.length)
  .next (match x.queue with
    | cmd :: _ => if x.active && found.contains cmd.prog then s.engFault c e (0x11, s.clock.stamp) else s
    | [] => s)

/-! ### Link ports -/

/-- LINK_FLIT_ARRIVAL (R395, R411): a flit that fails authentication is discarded, and after 16 failures in a row the port is taken down. -/
def execLINK_FLIT_ARRIVAL (p : PortId) (flit : Flit) (auth : Bool) (s : State) : Host.Outcome State Fault Refusal :=
  let x := s.port p
  if auth then .next (arriveFlit (s.setPort p { x with fails := 0 }) p flit)
  else if 15 ≤ x.fails && x.trained then
    .next ((s.setPort p { x with fails := 0, trained := false }).logEntry 5 255 7 none 0)
  else .next (s.setPort p { x with fails := x.fails + 1 })

/-- LINK_TRAIN (R392, R411): a port trains with its neighbour, or is untrained. -/
def execLINK_TRAIN (p : PortId) (ok : Bool) (neighbour : BitVec 10) (s : State) : Host.Outcome State Fault Refusal :=
  .next (s.setPort p { s.port p with trained := ok, peer := some neighbour.toNat, fails := 0 })

end Sys2Proof.Machine
end

