-- ==== Sys2Proof/Machine/Chorus.lean ====
section
/-! DEFINITION. The chorus controller (R367 to R376): messages, the group step, decision and switch ticks, admission, leaving and loss, and the
rack budget. -/

namespace Sys2Proof.Machine

/-! ### Declarations and the group step -/

/-- The first switch tick at or after a tick (R367). -/
def firstSwitch (t : Nat) : Nat := ceilDiv t 256 * 256

/-- HTICKS (R363). -/
def heartbeat : Nat := 10000

/-- The effective tick of a DECLARE or JOIN stamped `t` (R371). -/
def Chorus.effect (h : Chorus) (t : Nat) : Nat := firstSwitch (t + 2 * h.dticks)

/-- Whether a member counts in the set of switch tick `w` (R371 to R375). -/
def Member.counts (m : Member) (w : Nat) : Bool :=
  let gone (t : Option Nat) : Bool := match t with | none => false | some t => decide (t ≤ w)
  (m.st == 2 || m.st == 3 || (m.st == 1 && gone m.joinAt)) && !gone m.leaveAt && !gone m.lostAt

/-- The declaration in force at switch tick `w`: the one of greatest stamp tick that has taken effect (R371). -/
def Member.inForce (m : Member) (w : Nat) : Option (Nat × Nat × Nat × Nat) :=
  (m.decls.filter fun d => d.2.1 ≤ w).foldl (fun b d => match b with
    | none => some d
    | some x => if x.1 ≤ d.1 then some d else some x) none

/-- Whether the package's own LEAVE has taken effect by switch tick `w` (R375). -/
def Chorus.leftBy (h : Chorus) (w : Nat) : Bool :=
  h.members.any fun m => m.idx == h.self && (match m.leaveAt with | none => false | some t => decide (t ≤ w))

/-- The members of switch tick `w`: after its own LEAVE the package alone (R375). -/
def Chorus.at_ (h : Chorus) (w : Nat) : List Member :=
  h.members.filter fun m => if h.leftBy w then m.idx == h.self else m.counts w

/-- The tick from which declarations must be stamped before the step may pass SAFE again: the last loss by `w` (R373). -/
def Chorus.freshBy (h : Chorus) (w : Nat) : Nat :=
  (h.members.filterMap fun m => match m.lostAt with | some t => if t ≤ w then some t else none | none => none).foldl max h.fresh

/-- Whether a member's declaration in force at `w` keeps the step at SAFE: it has none, or it was a member at the loss of tick `fresh` and has not
declared since (R373; log 120). -/
def Member.stale (m : Member) (fresh w : Nat) : Bool :=
  match m.inForce w with
  | none => true
  | some d => decide (d.1 < fresh) && decide (m.joinAt.getD m.since < fresh)

/-- G(W) of R371, lowered to SAFE by R373. -/
def Chorus.groupStep (h : Chorus) (w : Nat) : Nat :=
  let ds := (h.at_ w).map (·.inForce w)
  let g := ds.foldl (fun g d => match d with | none => min g h.safe | some d => min g d.2.2.1) Config.highestStep.val
  if (h.at_ w).any (·.stale (h.freshBy w) w) then min g h.safe else g

/-- The table from the admission tick on: the entries that ADMIT named, without those whose LEAVE takes effect before, a member lost before
marked so, a joiner admitted before a member (R373 to R375). -/
def Chorus.enrol (h : Chorus) (self wa : Nat) : Chorus :=
  let before (t : Option Nat) : Bool := match t with | none => false | some t => decide (t < wa)
  let own := (h.admitted.find? (·.idx == self)).map (·.dtick)
  { h with
    self, joining := none, admitted := [], fresh := 0, seq := 0, lastDecl := own.getD h.lastDecl
    members := (h.admitted.filter fun m => !before m.leaveAt).map fun (m : Member) =>
      if before m.lostAt then { m with st := 4 }
      else if m.st = 1 && before m.joinAt then { m with st := 2, joinAt := none, since := m.joinAt.getD 0 } else m }

/-- The step that takes effect at switch tick `w` on this package: R370 and R374 override the agreement. -/
def Chorus.stepAt (h : Chorus) (w : Nat) : Nat :=
  if h.leaving then h.safe
  else match h.joining with
    | some (self, wa, _, step) => if w < wa then h.groupStep w else if w = wa then step else (h.enrol self wa).groupStep w
    | none => h.groupStep w

/-- The earliest decided switch tick at which the step differs from the step in force (R372), among `n` from `w` on. -/
def Chorus.nextChange (h : Chorus) (last : Nat) : (n w : Nat) → Option (Nat × Nat)
  | 0, _ => none
  | n + 1, w =>
    if last < w then none
    else if h.stepAt w != h.step then some (w, h.stepAt w)
    else h.nextChange last n (w + 256)

/-- NEXTTICK and NEXTSTEP at tick `t` (R372). -/
def Chorus.withNext (h : Chorus) (t : Nat) : Chorus :=
  { h with next := h.nextChange (t + h.dticks) 17 (t / 256 * 256 + 256) }

/-- Whether the package is a chorus of one. -/
def Chorus.alone (h : Chorus) : Bool := h.members.all fun m => m.idx == h.self || !(m.st == 1 || m.st == 2 || m.st == 3)

/-! ### Messages -/

/-- Put a declaration: stamp tick, effective tick, ceiling, demand. CEIL and DEMAND of the entry hold the latest (R363). -/
def Member.declare (m : Member) (d : Nat × Nat × Nat × Nat) : Member :=
  { m with decls := m.decls ++ [d], dtick := d.1, ceil := d.2.2.1, demand := d.2.2.2 }

/-- The entries a message concerns: those that ADMIT named while it waits for its tick. -/
def Chorus.table (h : Chorus) : List Member := if h.joining.isSome then h.admitted else h.members

/-- Change the entry of an index. -/
def Chorus.modMember (h : Chorus) (i : Nat) (f : Member → Member) : Chorus :=
  let put (l : List Member) : List Member := l.map fun m => if m.idx == i then f m else m
  if h.joining.isSome then { h with admitted := put h.admitted } else { h with members := put h.members }

/-- Its own index, the one that ADMIT named while it waits for its tick. -/
def Chorus.ownIndex (h : Chorus) : Nat := match h.joining with | some (i, _) => i | none => h.self

/-- Whether the package belongs to a chorus of more than one, so that it sends and forwards. -/
def Chorus.sends (h : Chorus) : Bool := !h.alone && h.joining.isNone

/-- ADMITs that a member sent before, and in, the tick of a message stamped `t`: they reach their joiners alone, and take up its numbers (R369). -/
def Member.admitsBefore (x : Member) (t : Nat) : Nat := (x.admits.filter (· < t)).length
def Member.admitsAt (x : Member) (t : Nat) : Nat := (x.admits.filter (· == t)).length

/-- Whether a message leaves no gap after the last one heard of its sender, counting the sender's ADMITs between them (R370, R388; log 120). -/
def Member.follows (x : Member) (m : ChorusMsg) : Bool :=
  match x.seq with
  | none => true
  | some q => decide ((m.seq - (q + 1 + BitVec.ofNat 32 (x.admitsBefore m.stamp.toNat))).toNat ≤ x.admitsAt m.stamp.toNat)

/-- The entry of a sender from whom a message has been taken. -/
def Member.hear (x : Member) (m : ChorusMsg) : Member :=
  let t := m.stamp.toNat
  let used := match x.seq with | none => x.admitsAt t | some q => (m.seq - (q + 1 + BitVec.ofNat 32 (x.admitsBefore t))).toNat
  { x with seq := some m.seq, seen := x.seen ++ [t], admits := List.replicate (x.admitsAt t - used) t ++ x.admits.filter (t < ·) }

/-- A message is received (R370): one that is late, or whose number leaves a gap, makes the member leave; one already seen, or whose
sender is no member, is dropped. A member forwards what it takes, once: `o` stands for the copies to its other neighbours. -/
def State.receive (s : State) (m : ChorusMsg) (o : ChorusOut) (f : Chorus → Chorus) : State :=
  let h := s.chorus
  let i := m.sender.toNat
  match h.table.find? fun x => x.idx == i && x.st != 4 with
  | none => s
  | some x =>
    if h.leaving || i == h.ownIndex then s
    else
      let old := match x.seq with | none => false | some q => decide ((q - m.seq).toNat < 2 ^ 31)
      if old then s
      else if !x.follows m || decide (m.stamp.toNat + h.dticks < s.tick) then { s with chorus := { h with leaving := !h.alone || h.joining.isSome } }
      else
        let h := h.modMember i (·.hear m)
        let h := if h.sends then { h with out := h.out ++ [o] } else h
        { s with chorus := f h }

/-- A message that this package sends now: its contents carry the next sequence number and the current tick (R369). -/
def State.message (s : State) (ceil demand : Nat) : ChorusMsg :=
  { sender := BitVec.ofNat 10 s.chorus.self, seq := s.chorus.seq + 1, stamp := s.clock.tick, ceil := BitVec.ofNat 5 ceil
    demand := BitVec.ofNat 16 demand }

/-- A message leaves by the links; a chorus of one sends to nobody. -/
def State.send (s : State) (o : ChorusOut) : State :=
  let h := s.chorus
  { s with chorus := { h with seq := h.seq + 1, out := if h.alone then h.out else h.out ++ [o] } }

/-- The package's own declaration is recorded. One made while it waits for its admission tick reaches no member, and concerns it as a chorus of
one alone: its JOIN stays the joiner's declaration (R371). -/
def Chorus.declare (h : Chorus) (d : Nat × Nat × Nat × Nat) : Chorus :=
  { h with members := h.members.map fun m => if m.idx == h.self then m.declare d else m }

/-- Its own declaration, sent and recorded (R371). A ceiling never exceeds the highest usable step (R369). -/
def State.declare (s : State) (ceil demand e : Nat) (o : ChorusMsg → ChorusOut) : State :=
  let c := min ceil Config.highestStep.val
  let m := s.message c demand
  let s := s.send (o m)
  { s with chorus := s.chorus.declare (s.tick, e, c, demand) }

/-- DECLARE_SEND (R369, R371). -/
def execDECLARE_SEND (ceil : BitVec 5) (demand : BitVec 16) (s : State) : Host.Outcome State Fault Refusal :=
  if s.chorus.leaving then .next s
  else
    let s := s.declare ceil.toNat demand.toNat (s.chorus.effect s.tick) .declare
    .next { s with chorus := { s.chorus with lastDecl := s.tick } }

/-- A LIMIT (R371): one whose tick lies too early is discarded. -/
def State.sendLimit (s : State) (ceil demand wl : Nat) : State :=
  if s.chorus.leaving || wl < s.tick + 2 * s.chorus.dticks then s
  else s.declare ceil demand wl fun m => .limit m wl

/-- LIMIT_SEND (R371). -/
def execLIMIT_SEND (ceil : BitVec 5) (demand : BitVec 16) (wl : BitVec 64) (s : State) : Host.Outcome State Fault Refusal :=
  .next (s.sendLimit ceil.toNat demand.toNat wl.toNat)

/-- The LIMIT that bands 6 and 7 send (R377): four below the step in force or SAFE, at the earliest switch tick. -/
def State.throttle (s : State) (band : Nat) : State :=
  let h := s.chorus
  let demand := match h.members.find? (·.idx == h.self) with | some m => m.demand | none => 0
  s.sendLimit (if band = 7 then h.safe else max (h.step - 4) h.safe) demand (h.effect s.tick)

/-- CHORUS_DECLARE (R371). -/
def execCHORUS_DECLARE (m : ChorusMsg) (s : State) : Host.Outcome State Fault Refusal :=
  .next (s.receive m (.declare m) fun h => h.modMember m.sender.toNat fun x =>
    x.declare (m.stamp.toNat, h.effect m.stamp.toNat, m.ceil.toNat, m.demand.toNat))

/-- CHORUS_LIMIT (R371). -/
def execCHORUS_LIMIT (m : ChorusMsg) (wl : BitVec 64) (s : State) : Host.Outcome State Fault Refusal :=
  .next (s.receive m (.limit m wl.toNat) fun h =>
    if wl.toNat < m.stamp.toNat + 2 * h.dticks then h
    else h.modMember m.sender.toNat fun x => x.declare (m.stamp.toNat, wl.toNat, m.ceil.toNat, m.demand.toNat))

/-- A LEAVE stamped `t` marks the entry of its sender (R375); a second one changes nothing. -/
def Member.leave (h : Chorus) (t : Nat) (x : Member) : Member := if x.st = 3 then x else { x with st := 3, leaveAt := some (h.effect t) }

/-- CHORUS_LEAVE (R375). -/
def execCHORUS_LEAVE (m : ChorusMsg) (s : State) : Host.Outcome State Fault Refusal :=
  .next (s.receive m (.leave m) fun h => h.modMember m.sender.toNat (Member.leave h m.stamp.toNat))

/-- CHORUS_LOST (R373): a record for Salamander, which does not enter the agreement. -/
def execCHORUS_LOST (m : ChorusMsg) (lost : BitVec 10) (at_ : BitVec 64) (s : State) : Host.Outcome State Fault Refusal :=
  .next (s.receive m (.lost m lost.toNat at_.toNat) id)

/-- LEAVE_SEND (R375). A package that is leaving already sends no second one. -/
def execLEAVE_SEND (s : State) : Host.Outcome State Fault Refusal :=
  if s.chorus.alone || s.chorus.leaving || s.chorus.members.any (fun m => m.idx == s.chorus.self && m.st == 3) then .next s
  else
    let s := s.send (.leave (s.message 0 0))
    .next { s with chorus := s.chorus.modMember s.chorus.self (Member.leave s.chorus s.tick) }

/-! ### Joining (R374) -/

/-- The lowest indexes that no entry holds. -/
def freeIndexes (used : List Nat) : List Nat := (List.range 1024).filter fun i => !used.contains i

/-- Joiners take the lowest absent indexes in the order of their stamps, then of their link identities (R374). One whose decision tick has passed by
tick `now`, with a bound `d`, keeps the index that its ADMIT names. -/
def reindex (now d : Nat) (ms : List Member) : List Member :=
  let (joining, rest) := ms.partition fun m => m.st == 1 && match m.joinAt with | none => true | some w => decide (now + d < w)
  let key (m : Member) : Nat := m.dtick * 2 ^ 32 + m.linkid.toNat
  let free := freeIndexes (rest.map (·.idx))
  rest ++ ((sortBy key joining).zip free).map fun x => { x.1 with idx := x.2 }

/-- A joiner enters the table with its JOIN as its first declaration (R371); from its admission on it numbers its messages from 1 (log 120). The
sponsor that flooded the JOIN will send the ADMIT at its decision tick. A package that waits for its own admission puts it in the coming table. -/
def Chorus.addJoiner (h : Chorus) (now t : Nat) (m : ChorusMsg) (linkid : BitVec 32) (mine : Bool) : Chorus :=
  let wa := h.effect t
  let x : Member := { idx := 0, st := 1, linkid, joinAt := some wa, mine, seen := [t], seq := some 0 }
  let put (l : List Member) : List Member := reindex now h.dticks (l ++ [x.declare (t, wa, m.ceil.toNat, m.demand.toNat)])
  if mine then { h with members := put h.members }
  else
    let h := h.modMember m.sender.toNat fun y => { y with admits := y.admits ++ [wa - h.dticks] }
    if h.joining.isSome then { h with admitted := put h.admitted } else { h with members := put h.members }

/-- CHORUS_JOIN (R374): from a link neighbour outside the chorus, which makes this package its sponsor, or as flooded by another sponsor. A
sponsor whose DTICKS differs admits nobody, so it floods nothing either (log 32). -/
def execCHORUS_JOIN (m : ChorusMsg) (linkid : BitVec 32) (dticks : BitVec 16) (direct : Bool) (s : State) : Host.Outcome State Fault Refusal :=
  if direct then
    if s.chorus.leaving || dticks.toNat != s.chorus.dticks then .next s
    else
      let t := s.tick
      let out : ChorusMsg := { s.message m.ceil.toNat m.demand.toNat with ceil := m.ceil, demand := m.demand }
      let s := s.send (.flood out linkid dticks.toNat)
      .next { s with chorus := s.chorus.addJoiner t t m linkid true }
  else .next (s.receive m (.flood m linkid dticks.toNat) fun h => h.addJoiner s.tick m.stamp.toNat m linkid false)

/-- The LINKID of this package's own entry (R363). -/
def Chorus.ownLink (h : Chorus) : BitVec 32 := ((h.members.find? (·.idx == h.self)).map (·.linkid)).getD 0

/-- JOIN_SEND (R369, R374): only from a chorus of one on which no card is bound. -/
def execJOIN_SEND (p : PortId) (ceil : BitVec 5) (demand : BitVec 16) (s : State) : Host.Outcome State Fault Refusal :=
  let h := s.chorus
  let bound := (List.finRange 64).any fun l => (s.core l).task.isSome
  if !h.alone || bound || h.leaving then .next s
  else
    let c := min ceil.toNat Config.highestStep.val
    let m := s.message c demand.toNat
    .next { s with chorus := { h with seq := h.seq + 1, sponsor := some p, joinDecl := (c, demand.toNat), out := h.out ++ [.join p m h.ownLink h.dticks] } }

/-- CHORUS_ADMIT (R374): the joiner takes the tick count, and the members from the named tick on. Its JOIN, as its sponsor stamped it, is its first
declaration (R371). Of another member's declarations an entry gives the latest alone, so the step that ADMIT names stands until that one takes
effect; it is no older than the last loss where the latest is not (log 111). -/
def execCHORUS_ADMIT (self : BitVec 10) (tick wa stampWa : BitVec 64) (step : BitVec 5) (members : List ChorusMsg) (s : State) :
    Host.Outcome State Fault Refusal :=
  let h := s.chorus
  if h.sponsor.isNone || h.leaving then .next s
  else
    let loss := (members.filterMap fun m => if m.state = 4 then some m.due.toNat else none).foldl max 0
    let entry (m : ChorusMsg) : Member :=
      let t := m.stamp.toNat
      let at_ (k : BitVec 3) : Option Nat := if m.state = k then some m.due.toNat else none
      let x : Member := { idx := m.sender.toNat, st := if m.state = 0 then 2 else m.state.toNat, linkid := m.linkid, seen := [t], seq := some m.seq
                          since := m.since.toNat, joinAt := at_ 1, leaveAt := at_ 3, lostAt := at_ 4, admits := m.admits.map (·.toNat) }
      if m.state = 1 then x.declare (t, m.due.toNat, m.ceil.toNat, m.demand.toNat)
      else (x.declare (min loss t, 0, step.toNat, m.demand.toNat)).declare (t, h.effect t, m.ceil.toNat, m.demand.toNat)
    let (t, ceil, demand) := match members.find? (·.sender == self) with
      | some m => (m.stamp.toNat, m.ceil.toNat, m.demand.toNat)
      | none => (wa.toNat - 2 * h.dticks, h.joinDecl.1, h.joinDecl.2)
    let own : Member := { idx := self.toNat, st := 2, linkid := h.ownLink, seen := [t], since := wa.toNat }
    let admitted := ((members.filter (·.sender != self)).map entry) ++ [own.declare (t, wa.toNat, ceil, demand)]
    .next { s with clock := { s.clock with tick }
                   chorus := { h with sponsor := none, lastDecl := t, joining := some (self.toNat, wa.toNat, stampWa.toNat, step.toNat), admitted } }

/-! ### Decision ticks -/

/-- The stamp counter in the first cycle at switch tick `w`, counted on from the current cycle with the steps decided (R368, R374). -/
def State.stampFrom (s : State) (w : Nat) : (n at_ halves : Nat) → Nat
  | 0, _, halves => s.clock.stamp.toNat + (halves - s.clock.sub) / 2
  | n + 1, at_, halves =>
    if w ≤ at_ then s.clock.stamp.toNat + (halves - s.clock.sub) / 2
    else s.stampFrom w n (at_ + 256) (halves + 256 * (8 + s.chorus.stepAt at_))

def State.stampAt (s : State) (w : Nat) : Nat :=
  let w1 := s.tick / 256 * 256 + 256
  s.stampFrom w 17 w1 ((w1 - s.tick) * (8 + s.chorus.step))

/-- A member unheard for too long is lost at switch tick `w` (R373). -/
def Member.silent (m : Member) (d w : Nat) : Bool :=
  let heard := (m.seen.filter fun t => t + 2 * d ≤ w).foldl max 0
  (m.st == 2 || m.st == 3) && m.lostAt.isNone && decide (heard + 2 * d + heartbeat < w)

/-- The member entries that an ADMIT for switch tick `w` carries: the whole table (R363, R369; log 111). `own` are its sender's number and ADMITs. -/
def Chorus.entries (h : Chorus) (own : BitVec 32 × List Nat) : List ChorusMsg :=
  h.members.map fun (x : Member) =>
    let (seq, admits) := if x.idx = h.self then own else (x.seq.getD 0, x.admits)
    let st := if x.lostAt.isSome then 4 else x.st
    let due := if st = 4 then x.lostAt else if st = 3 then x.leaveAt else if st = 1 then x.joinAt else none
    { sender := BitVec.ofNat 10 x.idx, seq, stamp := BitVec.ofNat 64 x.dtick, ceil := BitVec.ofNat 5 x.ceil, demand := BitVec.ofNat 16 x.demand
      linkid := x.linkid, state := BitVec.ofNat 3 st, since := BitVec.ofNat 64 x.since, due := BitVec.ofNat 64 (due.getD 0)
      admits := admits.map (BitVec.ofNat 64) }

/-- The ADMITs of switch tick `w`, one after another (R374): each names its own number as the sender's last. -/
def State.sendAdmits (s : State) (w : Nat) : List Member → State
  | [] => s
  | m :: rest =>
    let later := (s.chorus.members.filterMap fun x => match x.joinAt with
      | some a => if x.st == 1 && x.mine && decide (w < a) then some (a - s.chorus.dticks) else none
      | none => none)
    let es := s.chorus.entries (s.chorus.seq + 1, List.replicate rest.length s.tick ++ later)
    State.sendAdmits (s.send (.admission (s.message 0 0) m.idx w s.tick (s.stampAt w) (s.chorus.stepAt w) es)) w rest

/-- DECISION_TICK (R371 to R374): losses of the switch tick D on are found, its admissions sent, and `chnext` updated. -/
def execDECISION_TICK (s : State) : Host.Outcome State Fault Refusal :=
  let w := s.tick + s.chorus.dticks
  if w % 256 != 0 then .next s
  else
    let h := s.chorus
    let lostOf (self : Nat) (l : List Member) : List Nat := (l.filter fun m => m.idx != self && m.silent h.dticks w).map (·.idx)
    let mark (lost : List Nat) (l : List Member) : List Member :=
      l.map fun (m : Member) => if lost.contains m.idx then { m with lostAt := some w } else m
    let lost := lostOf h.self h.members
    let h := { h with members := mark lost h.members, admitted := mark (lostOf h.ownIndex h.admitted) h.admitted }
    let s := { s with chorus := h }
    let lowest := ((h.at_ w).map (·.idx)).foldl min h.self
    let s := if lowest = h.self && !h.leaving then lost.foldl (fun s i => s.send (.lost (s.message 0 0) i w)) s else s
    let joins := s.chorus.members.filter fun m => m.st == 1 && m.mine && m.joinAt == some w
    let s := if s.chorus.leaving then s else s.sendAdmits w joins
    .next { s with chorus := s.chorus.withNext s.tick }

/-! ### Switch ticks -/

/-- Tasks of gangs that span a member take cause 0x19 (R373, R375), saved ones once they run again. -/
def State.loseGangs (s : State) (hit : List Nat → Bool) (tval : Nat) : State :=
  let mark (c : Core) : Core := { c with pend19 := some (BitVec.ofNat 64 tval) }
  let s := s.setHub { s.hub with
    cards := s.hub.cards.map fun k => if k.gang && hit k.span then { k with saved := k.saved.map fun x => { x with core := mark x.core } } else k }
  (List.finRange 64).foldl (fun s l =>
    match (s.core l).task with
    | none => s
    | some t => match s.hub.card t.card with
      | none => s
      | some k => if k.gang && hit k.span then s.modCore l mark else s) s

/-- Link commands towards a lost neighbour, those of saved tasks among them: a stamped one takes fault 0x11, any other 0x19 (R401). -/
def State.loseLinks (s : State) (i : Nat) : State :=
  let hit (cmd : Cmd) : Cmd :=
    if (s.port cmd.port).peer = some i then
      (if cmd.stamp.isSome then { cmd with miss := some s.clock.stamp } else { cmd with lost := some i })
    else cmd
  let mark (c : Core) : Core := if (c.getE 5).queue.isEmpty then c else c.setE 5 { c.getE 5 with queue := (c.getE 5).queue.map hit }
  let s := s.setHub { s.hub with cards := s.hub.cards.map fun k => { k with saved := k.saved.map fun x => { x with core := mark x.core } } }
  (List.finRange 64).foldl (fun s l => s.modCore l mark) s

/-- The package runs as a chorus of one from switch tick `w` on (R370, R375); on its own account it also falls to SAFE. -/
def State.standAlone (s : State) (w : Nat) (safe : Bool) : State :=
  let h := s.chorus
  let own : List Member := (h.members.filter (·.idx == h.self)).map fun (m : Member) => { m with st := 2, leaveAt := none, lostAt := none }
  let s := s.loseGangs (fun span => !span.isEmpty) h.self
  { s with chorus := { h with members := own, leaving := false, joining := none, admitted := [], fresh := if safe then w else h.fresh } }

/-- The decrements that a task still holds for lost members are dropped (R336, R373). -/
def Core.dropDecs (c : Core) (lost : List Nat) : Core :=
  { c with decs := c.decs.filter fun d => !(bitsAt d.1 22 1 == 1 && lost.contains (bitsAt d.1 12 10)) }

/-- The same of every task of the package, the saved ones among them. -/
def State.dropDecs (s : State) (lost : List Nat) : State :=
  let s := s.setHub { s.hub with
    remote := s.hub.remote.filter fun x => !lost.contains x.1
    cards := s.hub.cards.map fun k => { k with saved := k.saved.map fun x => { x with core := x.core.dropDecs lost } } }
  (List.finRange 64).foldl (fun s l => s.modCore l (·.dropDecs lost)) s

/-- Members declared lost at `w` (R373); their decrements are dropped (R336). -/
def State.loseMembers (s : State) (w : Nat) : State :=
  let lost := (s.chorus.members.filter fun m => m.lostAt == some w && m.st != 4).map (·.idx)
  if lost.isEmpty then s
  else
    let s := lost.foldl (fun s i => (s.loseGangs (·.contains i) i).loseLinks i) s
    let s := s.dropDecs lost
    let h := s.chorus
    let s := { s with chorus := { h with fresh := w
                                         members := h.members.map fun (m : Member) => if lost.contains m.idx then { m with st := 4 } else m } }
    match h.members.find? (·.idx == h.self) with
    | none => s
    | some m =>
      let s := s.declare m.ceil m.demand (h.effect w) .declare
      { s with chorus := { s.chorus with lastDecl := w } }

/-- Members whose LEAVE takes effect at `w` (R375). -/
def State.leaveMembers (s : State) (w : Nat) : State :=
  let gone := (s.chorus.members.filter fun m => m.leaveAt == some w && m.st == 3).map (·.idx)
  if gone.contains s.chorus.self then s.standAlone w false
  else
    let s := gone.foldl (fun s i => s.loseGangs (·.contains i) i) s
    { s with chorus := { s.chorus with members := s.chorus.members.filter fun m => !gone.contains m.idx } }

/-- A joiner at its admission tick takes its index, the members and the stamp counter, its reference locked to the link's (R374). An ADMIT whose
tick has passed admits nobody. -/
def State.enrolAt (s : State) (w : Nat) : State :=
  match s.chorus.joining with
  | some (self, wa, stampWa, _) =>
    if wa = w then { s with clock := { s.clock with stamp := BitVec.ofNat 64 stampWa, sub := 0 }, chorus := s.chorus.enrol self wa }
    else if wa < w then { s with chorus := { s.chorus with joining := none, admitted := [] } }
    else s
  | none => s

/-- Admissions at `w` (R374): joiners become members. -/
def State.joinMembers (s : State) (w : Nat) : State :=
  { s with chorus := { s.chorus with members := s.chorus.members.map fun (m : Member) =>
                        if m.st = 1 && m.joinAt == some w then { m with st := 2, joinAt := none, since := w } else m } }

/-- The step that a switch tick takes whatever the agreement says: SAFE on leaving on its own account (R370), the step that ADMIT names at its
tick (R374). -/
def Chorus.forced (h : Chorus) (w : Nat) : Option Nat :=
  if h.leaving then some h.safe
  else match h.joining with
    | some (_, wa, _, step) => if wa = w then some step else none
    | none => none

/-- The share of each member (R376): RACK split in proportion to the demands, the remainder 1 W each in ascending index. -/
def rackShares (rack : Nat) (demands : List (Nat × Nat)) : List (Nat × Nat) :=
  let sum := (demands.map (·.2)).sum
  if sum ≤ rack then demands
  else
    let ds := (sortBy (·.1) demands).map fun d => (d.1, rack * d.2 / sum)
    let rest := rack - (ds.map (·.2)).sum
    ds.zipIdx.map fun x => (x.1.1, x.1.2 + if x.2 < rest then 1 else 0)

/-- Declarations that can no longer be in force are forgotten, and old message stamps. -/
def Member.prune (m : Member) (d w : Nat) : Member :=
  let keep := match m.inForce w with | none => 0 | some x => x.1
  let heard := (m.seen.filter fun t => t + 2 * d ≤ w).foldl max 0
  { m with decls := m.decls.filter fun x => keep ≤ x.1, seen := m.seen.filter fun t => heard ≤ t }

/-- SWITCH_TICK (R12, R367 to R376): everything of one switch tick takes effect together. -/
def execSWITCH_TICK (s : State) : Host.Outcome State Fault Refusal :=
  let w := s.tick
  if w % 256 != 0 then .next s
  else
    let forced := s.chorus.forced w
    let s := if s.chorus.leaving then s.standAlone w true else s.enrolAt w
    let s := ((s.loseMembers w).leaveMembers w).joinMembers w
    let h := s.chorus
    let step := forced.getD (h.stepAt w)
    let demands := (h.at_ w).filterMap fun m => (m.inForce w).map fun d => (m.idx, d.2.2.2)
    let share := if h.rack = 0 then h.share else (((rackShares h.rack demands).find? (·.1 == h.self)).map (·.2)).getD 0
    let h := { h with step, share, members := h.members.map fun (m : Member) => m.prune h.dticks w }
    .next { s with chorus := h.withNext w }

/-! ### The table and the reference clock -/

/-- CHORUS_TABLE_WRITE (R364, R370): only while the package is outside any chorus; D lies in 16 to 4,000. -/
def execCHORUS_TABLE_WRITE (fieldName : ChorusField) (v : BitVec 32) (s : State) : Host.Outcome State Fault Refusal :=
  let h := s.chorus
  if !h.alone then .next s
  else match fieldName with
    | .safe => .next { s with chorus := { h with safe := v.toNat % 32 } }
    | .dticks => .next (if 16 ≤ v.toNat && v.toNat ≤ 4000 then { s with chorus := { h with dticks := v.toNat } } else s)
    | .rack => .next { s with chorus := { h with rack := v.toNat } }

/-- REFERENCE_TICK (R4, R367): the reference edge that this cycle opens. -/
def execREFERENCE_TICK (s : State) : Host.Outcome State Fault Refusal :=
  let period := 8 + s.chorus.step
  if s.clock.sub < period then .next s
  else .next { s with clock := { s.clock with tick := s.clock.tick + 1, sub := s.clock.sub - period } }

end Sys2Proof.Machine
end

