-- ==== Sys2Proof/Machine/Lifetime.lean ====
section
/-! DEFINITION. Data lifetimes: age tick boundaries (R211, R214, R216, R217, R377) and the temperature and lifetime table (R213, R354). -/

namespace Sys2Proof.Machine

/-! ### The table -/

/-- The value a write stores (R213, R354): within the reset values of its band and of band 5 for its class; none for bands 6 and 7. -/
def lifeClamp (band cls : Fin 8) (v : Byte) : Option Byte :=
  if 6 ≤ band.val then none
  else
    let hi := vget lifeReset (8 * band.val + cls.val) 0
    let lo := vget lifeReset (40 + cls.val) 0
    some (if hi < v then hi else if v < lo then lo else v)

/-- TEMP_TABLE_WRITE (R354): in force from the next boundary. -/
def execTEMP_TABLE_WRITE (band cls : Fin 8) (v : Byte) (s : State) : Host.Outcome State Fault Refusal :=
  match lifeClamp band cls v with
  | none => .next s
  | some b => .next { s with life := { s.life with pending := s.life.pending ++ [(8 * band.val + cls.val, b)] } }

/-- The table with the writes completed before the boundary. -/
def Life.apply (l : Life) : Life := { table := l.pending.foldl (fun t p => vput t p.1 p.2) l.table, pending := [] }

/-! ### Bands -/

/-- The band after a boundary that reads temperature `t` (R216). -/
def nextBand (b t : Nat) : Nat := if b < bandOf t then bandOf t else if bandOf (t + 1) < b then bandOf (t + 1) else b

/-- An attempt to start fails (R412). -/
def State.bootFail (s : State) (reason : Byte) : State :=
  let b := s.boot
  if b.failed || 8 ≤ b.stage then s
  else { s with boot := { b with failed := true, reason, failSt := BitVec.ofNat 4 b.stage } }

/-- A region revoked in band 7 (R377); a grant not yet taken goes back too. -/
def Core.revoke (c : Core) : Core :=
  let c := match c.pwrReq with
    | some { level, granted := true, .. } =>
      { c with pwrRet := c.pwrRet + (level - if c.csr.grant then c.csr.level else 0), pwrReq := some { level } }
    | _ => c
  c.releaseRegion

/-- BAND_CHANGE (R216, R377): entering band 6 or 7 sends a LIMIT; in band 7 every region of the die is revoked, and a start fails (R412). -/
def State.readSensor (s : State) (d : DieId) (t : Byte) : State :=
  let x := s.die d
  let b := nextBand x.band t.toNat
  let s := s.setDie d { x with temp := t, band := b }
  let s := if 6 ≤ b && x.band < b then s.throttle b else s
  if b = 7 then ((coresOf d).foldl (fun s l => s.modCore l Core.revoke) s).bootFail 0x02 else s

/-! ### Ages -/

/-- Whether a row group takes its class action at a boundary (R214, R217). -/
def Row.due (r : Row) (band limit : Nat) : Bool := r.st == .valid && (decide (limit ≤ r.age) || (band == 7 && decide (r.cls < 6)))

/-- A boundary at one slice (R211): the ages rise, then every due row group takes its action in ascending index. -/
def Core.ageTick (c : Core) (now band : Nat) (limit : Nat → Nat) : Core :=
  let older (r : Row) : Row := if r.st = .valid then { r with age := min 255 (r.age + 1) } else r
  let rows := c.ember.rows.map older
  let c := { c with ember := { c.ember with rows, bound := some now, acted := [], was := (c.expiry, c.csr.xovf) } }
  (rows.filter fun r => r.due band (limit r.cls)).foldl (fun c r => c.classAction now r) c

/-- Every slice of a die. -/
def State.ageDie (s : State) (d : DieId) : State :=
  (coresOf d).foldl (fun s l => s.modCore l fun c => c.ageTick s.now (s.die d).band (s.limit d)) s

/-- AGE_TICK_BOUNDARY (R211): the reference tick is a multiple of 25; `t0` to `t3` are the readings of the dies' sensors. -/
def execAGE_TICK_BOUNDARY (t0 t1 t2 t3 : Byte) (s : State) : Host.Outcome State Fault Refusal :=
  let s := { s with life := s.life.apply }
  let s := (((s.readSensor 0 t0).readSensor 1 t1).readSensor 2 t2).readSensor 3 t3
  .next ((((s.ageDie 0).ageDie 1).ageDie 2).ageDie 3)

end Sys2Proof.Machine
end

