-- ==== Sys2Proof/Machine/Hub.lean ====
section
/-! DEFINITION. The hub's acceptance of job cards: the checks of R322, address spaces (R240) and dependence arms (R329). -/

namespace Sys2Proof.Machine

/-! ### What a card asks for -/

/-- Bytes of the spawn spill queue, rounded up to 4 KiB (R325). -/
def Card.queueBytes (k : Card) : Nat := ceilDiv (512 * k.spqn) 4096 * 4096

/-- The first byte of task part `p` of the spill area, and of the save area (R324, R325). -/
def Card.spillPart (k : Card) (p : Nat) : Nat := k.spill + k.queueBytes + p * (k.spillP * 4096)
def saveBytes : Nat := 275898368
def Card.savePart (k : Card) (p : Nat) : Nat := if k.save = 0 then 0 else k.save + p * saveBytes

/-- The part of a task (R323). -/
def Card.partOf (k : Card) (index : Nat) (l : CoreId) : Nat := if k.gang then index else l.val

/-- Lease ranges as base, end and rights (R356). -/
def Card.leases (k : Card) : List (Nat × Nat × Nat) :=
  (List.range (min k.nlease 16)).map fun i => match k.lease i with | (b, len, r) => (b, b + len, r)

/-- The image of `lvl`j for index `t` (R28, R187). -/
def Card.lvlImage (k : Card) (t j : Nat) : Word :=
  if !k.gang then (if j = 0 then BitVec.ofNat 64 (t + 2 ^ 32 * k.argCount) else BitVec.ofNat 64 (2 ^ 32))
  else if j < k.nlvl then BitVec.ofNat 64 (t / k.prod j % k.extent j + 2 ^ 32 * k.extent j)
  else BitVec.ofNat 64 (2 ^ 32)

/-- The root of an address space: a level-1 table is aligned to its 512 bytes (R233). -/
def Card.root (k : Card) : Nat := k.choice.root.toNat / 512 * 512

/-- What the bind record gives a task (R28, R358); the heap window is made of 64 KiB units (R232). -/
def Card.taskAt (k : Card) (index : Nat) (l : CoreId) (asid : Word) (gangid : Word) : Task :=
  { card := k.id, index, gang := k.gang, func := k.func, tag := k.tag, asid, root := k.root
    heapb := k.choice.heapb.toNat / 65536 * 65536, heapl := k.choice.heapl.toNat / 65536 * 65536, heapo := k.choice.heapo.toNat / 65536 * 65536
    lvl := Vector.ofFn fun j => k.lvlImage index j.val, nlvl := if k.gang then k.nlvl else 0, gangid, clsDef := k.classDef, leases := k.leases
    save := k.savePart (k.partOf index l), spill := k.spillPart (k.partOf index l), spillN := 0
    area := (k.spill, k.spillPart k.parts), conf := k.conf }

/-- The address space of a card as its checks walk it. -/
def Card.space (k : Card) : Task := k.taskAt 0 0 (BitVec.ofNat 64 k.choice.asidId.toNat) 0

/-- Memory as walks in the address space of a card find its page tables (R236, R240). -/
def Hub.tablesOf (h : Hub) (k : Card) (m : Mem) : Mem := (h.shown k.space).tables m

/-! ### Reasons of R322 -/

/-- Reason 0x01: a field or bit that must be zero. -/
def Card.notZero (k : Card) : Bool :=
  k.at_ 0x06 2 != 0 || k.at_ 0x0E 2 != 0 || decide (2 ^ 17 ≤ k.flags) || k.at_ 0x26 2 != 0 || k.at_ 0x2E 2 != 0 || k.at_ 0x3C 4 != 0 ||
  k.at_ 0x180 128 != 0 || (!k.gang && k.resv != 0) ||
  ((List.range 8).any fun j => if j < k.nlvl then bitsAt (k.at_ (0x40 + 8 * j) 8) 6 26 != 0 else k.at_ (0x40 + 8 * j) 8 != 0) ||
  (List.range 16).any fun i => decide (k.nlease ≤ i) && k.at_ (0x80 + 16 * i) 16 != 0

/-- Reason 0x02: the argument array and N (R19, R321). -/
def Card.badArgs (k : Card) : Bool :=
  k.argBase % 8 != 0 || k.argSize % 8 != 0 || decide (k.argSize < 8) || decide (4096 < k.argSize) ||
  (if k.gang then decide (k.gangN < 1) || decide (65536 < k.gangN) || k.argCount != k.gangN else k.argCount == 0 || k.gangN != 0)

/-- Active cores of a domain (R16). -/
def domainSize (members d : Nat) : Nat := match d with | 0 => 1 | 1 => 4 | 2 => 8 | 3 => 16 | 4 => 64 | _ => 64 * members

/-- The smallest scope that contains a domain (R27), coded as in R91. -/
def domainScope (d : Nat) : Nat := match d with | 0 => 0 | 1 => 1 | 2 => 2 | 3 => 2 | 4 => 3 | _ => 4

/-- Reason 0x03: the levels (R25 to R27). -/
def Card.badLevels (k : Card) (members : Nat) : Bool :=
  decide (8 < k.nlvl) || ((List.range k.nlvl).any fun j => decide (6 ≤ k.domain j) || decide (6 ≤ k.scope j) || k.extent j == 0) ||
  (k.gang && (
    ((List.range k.nlvl).any fun j => decide (domainSize members (k.domain j) < k.prod (j + 1)) ||
      decide (k.scope j < domainScope (k.domain j)) ||
      (decide (0 < j) && (decide (k.domain j < k.domain (j - 1)) || decide (k.scope j < k.scope (j - 1))))) ||
    (k.nlvl != 0 && k.prod k.nlvl != k.gangN)))

/-- Logical cores that have a physical core (R412). -/
def Hub.active (h : Hub) (l : CoreId) : Bool := h.map[l].isSome

/-- Members of the chorus now. -/
def Chorus.count (h : Chorus) : Nat := (h.members.filter fun m => m.st == 2 || m.st == 3).length

/-- Reason 0x04: the cores of the chorus, and those set aside for the reservation (R24). -/
def State.tooLarge (s : State) (k : Card) : Bool :=
  let h := s.hub
  let active := ((List.finRange 64).filter h.active).length + 64 * (s.chorus.count - 1)
  let kept := ((List.finRange 64).filter fun l => h.active l && h.resv[l].val != 0 && decide (h.resv[l].val ≤ k.resv)).length
  k.gang && (decide (active < k.gangN) || (k.resv != 0 && decide (kept < k.gangN)))

/-- The pages of a lease range. -/
def pagesOf (b n : Nat) : List Nat := (List.range (ceilDiv n 65536)).map fun i => b + 65536 * i

/-- A page of a range whose walk fails or that lacks a right of the range (R238). -/
def pageBad (m : Mem) (t : Task) (va rights : Nat) : Bool :=
  [needRd, needW, needX].any fun r => hasRights rights r && (walk m t va r).isNone

/-- Whether each byte of `[a, e)` lies in some lease range with the rights. -/
def covered (ls : List (Nat × Nat × Nat)) (need e : Nat) : (fuel : Nat) → Nat → Bool
  | 0, a => decide (e ≤ a)
  | n + 1, a =>
    if e ≤ a then true
    else
      let reach := (ls.filter fun l => hasRights l.2.2 need && decide (l.1 ≤ a) && decide (a < l.2.1)).foldl (fun x l => max x l.2.1) a
      if reach = a then false else covered ls need e n reach

/-- Reason 0x05: the leases (R238, R356) and the argument array. -/
def Card.badLeases (k : Card) (m : Mem) : Bool :=
  let e (i : Nat) : Nat := k.at_ (0x80 + 16 * i) 16
  let bad (i : Nat) : Bool :=
    let (b, len, r) := k.lease i
    bitsAt (e i) 0 16 != 0 || bitsAt (e i) 48 16 != 0 || decide (2 ^ 99 ≤ e i) || len == 0 || decide (2 ^ 48 < b + len) || r == 0 ||
      (pagesOf b len).any fun va => pageBad m k.space va r
  decide (16 < k.nlease) || ((List.range k.nlease).any bad) || !covered k.leases needRd (k.argBase + k.argCount * k.argSize) 17 k.argBase

/-- Whether one lease range holds `[a, e)` with the rights. -/
def Card.inLease (k : Card) (a e need : Nat) : Bool := k.leases.any fun l => decide (l.1 ≤ a) && decide (e ≤ l.2.1) && hasRights l.2.2 need

/-- Whether every page of `[a, e)` lies in HBM. -/
def Card.inHbm (k : Card) (m : Mem) (a e : Nat) : Bool :=
  (pagesOf (a / 65536 * 65536) (e - a / 65536 * 65536)).all fun va =>
    let t := k.space
    match (if t.inHeap va then some ((va + t.heapo) % 2 ^ 48) else (walk m t va 0).map (·.1)) with
    | some p => decide (p < 2 ^ 40)
    | none => false

/-- Reason 0x06: the heap window (R232). -/
def Card.badHeap (k : Card) : Bool :=
  let t := k.space
  t.heapl != 0 && (decide (2 ^ 48 < t.heapb + t.heapl) || decide (2 ^ 40 < (t.heapb + t.heapo) % 2 ^ 48 + t.heapl) ||
    !k.inLease t.heapb (t.heapb + t.heapl) (needRd + needW))

/-- Reason 0x07: the save area (R324). -/
def Card.badSave (k : Card) (m : Mem) : Bool :=
  let e := k.save + k.parts * saveBytes
  k.save != 0 && (k.save % 4096 != 0 || (k.leases.any fun l => decide (l.1 < e) && decide (k.save < l.2.1)) || !k.inHbm m k.save e)

/-- Reason 0x08: the spill area (R325). -/
def Card.badSpill (k : Card) (m : Mem) : Bool :=
  let e := k.spillPart k.parts
  k.spill % 4096 != 0 || decide (k.spillP < 16) || decide (65536 < k.spillP) || !k.inLease k.spill e (needRd + needW) || !k.inHbm m k.spill e

/-- Leased pages. -/
def Card.pages (k : Card) : List Nat := k.leases.flatMap fun l => pagesOf l.1 (l.2.1 - l.1)

/-- Reason 0x09: a leased page of a confidential card with CONF = 0 (R242). -/
def Card.openPage (k : Card) (m : Mem) : Bool := k.conf && k.pages.any fun va => match walk m k.space va 0 with | some (_, c) => !c | none => true

/-- The entries of the table of `n` bytes at `base` that memory lists: the others read 0 and lead nowhere (R233, R235). -/
def Mem.entries (m : Mem) (base n : Nat) : List Nat :=
  (dedup ((m.cells.filter fun c => base ≤ c.1 && c.1 < base + n).map fun c => (c.1 - base) / 8)).map fun i => m.readNat (base + 8 * i) 8

/-- The tables that some entries lead to. -/
def nextTables (es : List Nat) : List Nat :=
  (es.filter fun e => bitsAt e 0 2 == 1 && bitsAt e 2 14 == 0 && bitsAt e 40 24 == 0).map fun e => bitsAt e 16 32 * 65536

/-- The 64 KiB pages that hold the page table of a root (R233). -/
def Mem.tablePages (m : Mem) (root : Nat) : List Nat :=
  let second := nextTables (m.entries root 512)
  (root :: second ++ second.flatMap fun t => nextTables (m.entries t 65536)).map (· / 65536)

/-- The cells of the page table of a root (R233). -/
def Mem.tableCells (m : Mem) (root : Nat) : List Host.Cell :=
  let ps := m.tablePages root
  m.cells.filter fun c => ps.contains (c.1 / 65536)

/-- Reason 0x0B: a page of `tables` inside a lease range (R236); walks find `m`. -/
def Card.ownsTables (k : Card) (m : Mem) (tables : List Nat) : Bool :=
  let t := k.space
  let of (va : Nat) : List Nat :=
    (match walk m t va 0 with | some (p, _) => [p / 65536] | none => []) ++ if t.inHeap va then [(va + t.heapo) % 2 ^ 48 / 65536] else []
  let held := k.pages.flatMap of
  tables.any held.contains

/-- The pages of page tables, of the address space of a card and of every other, as memory holds them and as units find them (R236). -/
def State.tableWalls (s : State) (k : Card) : List Nat :=
  (k.root :: s.hub.asids.map (·.2.2) ++ s.hub.cards.map Card.root).flatMap s.mem.tablePages ++
    s.hub.tabs.flatMap fun x => ({ cells := x.2.2 } : Mem).tablePages x.2.1

/-- The reason that rejects a card, in the order of R322; the arm is made last. -/
def State.reason (s : State) (k : Card) : Option Byte :=
  let m := s.hub.tablesOf k s.mem
  let d := s.hub.dep k.dep
  if s.boot.minimal then some 0x0C
  else if k.notZero then some 0x01
  else if k.badArgs then some 0x02
  else if k.badLevels s.chorus.count then some 0x03
  else if s.tooLarge k then some 0x04
  else if k.badLeases m then some 0x05
  else if k.badHeap then some 0x06
  else if k.badSave m then some 0x07
  else if k.badSpill m then some 0x08
  else if k.openPage m then some 0x09
  else if k.depv != (k.depCnt != 0) then some 0x0A
  else if k.ownsTables m (s.tableWalls k) then some 0x0B
  else if k.depv && (d.card.isSome || decide (d.v + k.depCnt < 0)) then some 0x0A
  else none

/-! ### Acceptance -/

/-- The physical pages that a confidential card holds under its key (R242); walks find `m`. -/
def Card.sealed (k : Card) (m : Mem) : List Nat :=
  if k.conf then
    let t := k.space
    dedup (k.pages.flatMap fun va => (match walk m t va 0 with | some (p, true) => [p / 65536 * 65536] | _ => []) ++
      if t.inHeap va then [(va + t.heapo) % 2 ^ 48] else [])
  else []

/-- A 64-byte unit as HBM stores it under a key, with the tweak p[47:6] (R242). -/
def Mem.cipher (m : Mem) (key unit : Nat) : List Byte :=
  let x := Config.xtsEncrypt key unit (m.read (64 * unit) 64)
  (List.range 64).map fun i => x.getD i 0

/-- When a key comes to hold some pages, what HBM stores in them reads as deciphered by it (R242; log 14). -/
def Mem.openPages (m : Mem) (key : Nat) (ps : List Nat) : Mem :=
  let clear (m : Mem) (unit : Nat) : Mem :=
    let x := Config.xtsDecrypt key unit (m.read (64 * unit) 64)
    m.write (64 * unit) ((List.range 64).map fun i => x.getD i 0)
  { ps.foldl (fun m p => (List.range 1024).foldl (fun m i => clear m (p / 64 + i)) m) m with weak := m.weak, pois := m.pois }

/-- When a key no longer holds some pages, they are left as HBM stores them (R242, R410; log 14). -/
def Mem.leavePages (m : Mem) (key : Nat) (ps : List Nat) : Mem :=
  ps.foldl (fun m p => (List.range 1024).foldl (fun m i => m.write (p + 64 * i) (m.cipher key (p / 64 + i))) m) m

/-- The pages that a resident key holds (R242). -/
def Hub.sealed (h : Hub) (k : Card) (m : Mem) : List Nat := k.sealed (h.tablesOf k m)

/-- The key of a card that ends leaves its pages. -/
def State.leaveSealed (s : State) (k : Card) : State :=
  match k.key with
  | none => s
  | some key => { s with mem := s.mem.leavePages key (s.hub.sealed k s.mem) }

/-- A card that has ended: its record waits in its function's ring (R326, R327). -/
def State.endCard (s : State) (n : Nat) : State :=
  match s.hub.card n with
  | none => s
  | some k =>
    let h := s.hub
    let s := s.leaveSealed k
    let s := s.setHub ({ h.unpool n with spill := h.spill.filter (· != n)
                                         keys := h.keys.filter fun i => k.key != some i }.setCard { k with st := .ended, key := none, saved := [] })
    let f := s.func k.func
    s.setFunc k.func { f with held := f.held ++ [n] }

/-- Arm(card, c) of R329. -/
def State.arm (s : State) (k : Card) : State :=
  let d := s.hub.dep k.dep
  let v := d.v + k.depCnt
  if v = 0 then (s.setHub (s.hub.setDep { d with v := 0 })).enqueue k.id
  else (s.setHub (s.hub.setDep { d with v, card := some k.id })).modCard k.id fun k => { k with st := .counting }

/-- The counter that an outside event decrements. -/
def decremented : Instr → Option (BitVec 12)
  | .DEP_DECREMENT ctr => some ctr
  | _ => none

/-- The decrements that arrive in this cycle, from this package and from others, are taken: arms come after them (R329). -/
def State.takeSent (s : State) : State :=
  let due := s.inputs.takeWhile fun x => decide (x.1 ≤ s.now)
  let far := due.filterMap fun x => decremented x.2
  let s' := { s.setHub { s.hub with sent := [] } with
    inputs := (due.filter fun x => (decremented x.2).isNone) ++ s.inputs.drop due.length }
  (s.hub.sent ++ far).foldl (fun s c => s.decrement c.toNat) s'

/-- The checks of a card in the hub's list and what follows them (R322); an arm comes after the decrements of its cycle (R329). -/
def State.check (s : State) (n : Nat) : State :=
  let s := s.takeSent
  match s.hub.card n with
  | none => s
  | some k => match s.reason k with
    | some code => (s.modCard n fun k => { k with status := 1, code }).endCard n
    | none => if k.depv then s.arm k else s.enqueue n

/-- Ring entries (R405). -/
def ringSize (log : Nat) : Nat := 2 ^ log

/-- `n` bytes of a function's ring memory or of HBM (R405, R415). -/
def State.ringRead (s : State) (f : FnId) (a n : Nat) : List Byte :=
  if s.boot.minimal then (List.range n).map fun i => (s.func f).ring.getD (a + i) 0 else s.mem.read a n

/-- Write bytes of the 16 KiB of ring memory (R415). -/
def Func.putRing (x : Func) (a : Nat) (bs : List Byte) : Func :=
  let full := x.ring ++ List.replicate (16384 - x.ring.length) 0
  { x with ring := full.take a ++ bs ++ full.drop (a + bs.length) }

/-- Write bytes of a ring. -/
def State.ringWrite (s : State) (f : FnId) (a : Nat) (bs : List Byte) : State :=
  if s.boot.minimal then
    s.setFunc f ((s.func f).putRing a bs)
  else { s with mem := s.mem.write a bs }

/-- Whether the hub takes cards: once stage 7 of a start is complete (R412, R413). -/
def State.open_ (s : State) : Bool := decide (8 ≤ s.boot.stage) && !s.boot.failed

/-- Whether a submission entry waits (R326, R405). -/
def State.hasEntry (s : State) (f : FnId) : Bool :=
  let x := s.func f
  s.open_ && x.enabled && x.sqen && x.sqhead != x.sqtail

/-- JOB_CARD_ACCEPT (R322, R326, R331): the next entry of a submission ring is copied and checked, or a spawned card is checked. -/
def execJOB_CARD_ACCEPT (src : CardSource) (ch : CardChoice) (s : State) : Host.Outcome State Fault Refusal :=
  match src with
  | .ring f =>
    if !s.hasEntry f then .next s
    else
      let x := s.func f
      let head := x.sqhead.toNat % ringSize x.sqlog
      let image := BitVec.ofNat 4096 (leNat (s.ringRead f (x.sqbase.toNat + 512 * head) 512))
      let s := s.setFunc f { x with sqhead := BitVec.ofNat 12 ((head + 1) % ringSize x.sqlog) }
      let h := s.hub
      let k : Card := { id := h.nextCard, image, func := f, st := .pending, order := h.nextCard, choice := ch }
      .next ((s.setHub { h with cards := h.cards ++ [k], nextCard := h.nextCard + 1 }).check k.id)
  | .pool n => match s.hub.card n with
    | none => .next s
    | some k =>
      if k.parent.isSome && (k.st == .pending || k.st == .spilled) then
        let h := s.hub
        let k := { k with choice := ch, order := h.nextCard, st := .pending }
        .next ((s.setHub ({ h with nextCard := h.nextCard + 1 }.setCard k)).check n)
      else .next s

/-! ### Counters, the pool and ageing -/

/-- Remove the first occurrence. -/
def dropFirst {α : Type} [BEq α] : List α → α → List α
  | [], _ => []
  | x :: t, a => if x == a then t else x :: dropFirst t a

/-- DEP_DECREMENT (R329, R336): a decrement reaches its counter. -/
def execDEP_DECREMENT (ctr : BitVec 12) (s : State) : Host.Outcome State Fault Refusal :=
  .next ((s.setHub { s.hub with sent := dropFirst s.hub.sent ctr }).decrement ctr.toNat)

/-- Whether the card at the head of the spill queues may return to the pool (R30; log 121). -/
def Hub.returns (h : Hub) (n : Nat) : Bool :=
  let free := 256 - h.pool.length
  let member : Bool := match (h.card n).bind (·.parent) with
    | some (p, _) => ((h.card p).map (·.gang)).getD false
    | none => false
  h.spill.head? == some n && decide ((if member then 0 else 32) < free)

/-- SPILL_CARD_RETURN (R30): the oldest spilled card returns to the pool. -/
def execSPILL_CARD_RETURN (entry : Nat) (s : State) : Host.Outcome State Fault Refusal :=
  let h := s.hub
  .next (if h.returns entry then s.setHub { h with spill := h.spill.drop 1, pool := h.pool ++ [entry], freed := h.freed + 1 } else s)

/-- The effective priority of a card (R42). -/
def Card.level (k : Card) : Nat := if 6 ≤ k.prio then k.prio else min 6 (k.prio + k.risen)

/-- Whether a waiting card rises by a level now: for each 200,000 ticks (2 ms) that it has waited (R42). -/
def Card.rises (k : Card) (tick : Nat) : Bool :=
  k.st == .waiting && decide (k.level < 6) && decide (k.since + 200000 * (k.risen + 1) ≤ tick)

/-- PRIORITY_AGEING (R42). -/
def execPRIORITY_AGEING (card : Nat) (s : State) : Host.Outcome State Fault Refusal :=
  .next (s.modCard card fun k => if k.rises s.tick then { k with risen := k.risen + 1 } else k)

/-- RESERVATION_SET_ASIDE (R24): Salamander gives a core a reservation class, 0 for none. -/
def execRESERVATION_SET_ASIDE (c : CoreId) (cls : Fin 8) (s : State) : Host.Outcome State Fault Refusal :=
  .next (s.setHub { s.hub with resv := s.hub.resv.set c cls })

/-- Whether a task runs in an address-space ID: it is bound and has not been pre-empted. -/
def State.runsIn (s : State) (id : Nat) : Bool := (List.finRange 64).any fun l => (s.core l).task.any fun t => fld t.asid 0 12 == id

/-- The page tables of a root become what units of an ID find (R240). -/
def Hub.setTabs (h : Hub) (id root : Nat) (m : Mem) : Hub :=
  { h with tabs := (id, root, m.tableCells root) :: h.tabs.filter (·.1 != id) }

/-- The pages of a resident confidential card after a change of its page tables: those that leave it are left enciphered, those that join it are
deciphered (R242). -/
def Card.reseal (k : Card) (old new : Hub) (m : Mem) : Mem :=
  match k.key with
  | none => m
  | some key =>
    let was := old.sealed k m
    let now := new.sealed k m
    (m.leavePages key (was.filter (!now.contains ·))).openPages key (now.filter (!was.contains ·))

/-- The changes made to the page tables of an ID take effect (R236, R240). -/
def State.retable (s : State) (id : Nat) : State :=
  match s.hub.asids.find? (·.1 == id) with
  | none => s
  | some (_, _, root) =>
    let h := s.hub.setTabs id root s.mem
    { s.setHub h with mem := (s.hub.cards.filter fun k => k.choice.asidId.toNat == id).foldl (fun m k => k.reseal s.hub h m) s.mem }

/-- ASID_INVALIDATE (R236, R237, R240): every entry of an ID is invalidated in every unit of the package, predictor records included. Changed
entries take effect, which Salamander lets happen only once every task of the ID has ended or been pre-empted. -/
def execASID_INVALIDATE (id : BitVec 12) (s : State) : Host.Outcome State Fault Refusal :=
  let clear (c : Core) : Core := { c with last := c.last.filter fun x => x.2.2.2 != id.toNat }
  let s := { s with cores := s.cores.map clear }
  let s := if s.runsIn id.toNat then s else s.retable id.toNat
  .next (s.setHub { s.hub with invalid := if s.hub.invalid.contains id.toNat then s.hub.invalid else id.toNat :: s.hub.invalid })

/-! ### Completion records -/

/-- The record of a card (R327): 32 bytes. -/
def Card.record (k : Card) (phase : Bool) : List Byte :=
  leBytes 4 k.tag.toNat ++ leBytes 2 k.status ++ [k.code] ++ [if phase then 1 else 0] ++ leBytes 4 k.task.toNat ++
    leBytes 4 k.revived ++ leBytes 8 k.diag.toNat ++ leBytes 8 k.tval.toNat

/-- Whether a record waits and the completion ring takes it (R326, R405). -/
def State.recordDue (s : State) (f : FnId) : Bool :=
  let x := s.func f
  let n := ringSize x.cqlog
  !x.held.isEmpty && x.enabled && x.cqen && decide ((x.cqtail.toNat + 1) % n ≠ x.cqhead.toNat)

/-- COMPLETION_RECORD_WRITE (R326, R327): the record of the card that ended first; PHASE flips when the index wraps. -/
def execCOMPLETION_RECORD_WRITE (f : FnId) (s : State) : Host.Outcome State Fault Refusal :=
  if !s.recordDue f then .next s
  else
    let x := s.func f
    match x.held with
    | [] => .next s
    | n :: rest =>
      let tail := x.cqtail.toNat % ringSize x.cqlog
      let next := (tail + 1) % ringSize x.cqlog
      let s := match s.hub.card n with
        | none => s
        | some k => s.ringWrite f (x.cqbase.toNat + 32 * tail) (k.record x.cqphase)
      let x := s.func f
      let s := s.setFunc f { x with held := rest, cqtail := BitVec.ofNat 12 next, cqphase := if next = 0 then !x.cqphase else x.cqphase }
      .next (s.setHub { s.hub with cards := s.hub.cards.filter (·.id != n) })

end Sys2Proof.Machine
end

