-- ==== Sys2Proof/Machine/Power.lean ====
section
/-! DEFINITION. Power: the PWR instructions (R380 to R384), Bellows (R378, R379), its ramp table (R362), gating of cores (R385) and
undervolting (R386). -/

namespace Sys2Proof.Machine

/-! ### The PWR instructions -/

/-- Whether the current cycle is a Bellows boundary (R379). -/
def State.boundary (s : State) : Bool := s.clock.stamp.toNat % 4 == 0

/-- PWRQ (R381). A request made in a boundary cycle has waited at that boundary, and is granted at a later one. -/
def execPWRQ (a : BitVec 6) (s : State) : Host.Outcome State Fault Refusal :=
  smith s 4 .plain fun s c => with1 c a.toNat [] 0 fun c' x =>
    let lv := min (fld x 0 16) 256
    if lv = 0 then .ok c'.releaseRegion
    else if c.csr.grant && decide (lv ≤ c.csr.level) then
      .ok { c' with pwrRet := c'.pwrRet + (c.csr.level - lv), csr := { c'.csr with level := lv } }
    else match c.pwrReq with
      | some { granted := true, .. } => .ok { c' with pwrReq := none, csr := { c'.csr with level := lv, grant := true } }
      | some _ => .halt (.stall .power)
      | none =>
        if s.boundary then .wait ({ c with pwrReq := some { level := lv, first := some s.now } }.count 4 (ofBool (c.getE 2).asked.isNone)) .power id
        else .wait { c with pwrReq := some { level := lv } } .power id

/-- PWRL (R382). -/
def execPWRL (s : State) : Host.Outcome State Fault Refusal :=
  smith s 4 .plain fun _ c => .ok c.releaseRegion

/-- C and i of a die at the start of the current cycle (R383). -/
def Die.atStart (d : Die) (now : Nat) : Nat × Nat :=
  match d.before with
  | some (t, c, i) => if t = now then (c, i) else (d.c, d.i)
  | none => (d.c, d.i)

/-- PWRG (R383). -/
def execPWRG (d : BitVec 6) (s : State) : Host.Outcome State Fault Refusal :=
  smith s 4 .plain fun s c => with0 c [] d.toNat fun c =>
    let (ceil, i) := (s.die (dieOf s.cur)).atStart s.now
    pushed s c d.toNat (BitVec.ofNat 64 (c.csr.level + 65536 * ofBool c.csr.grant + 2 ^ 28 * i + 2 ^ 32 * ceil)) 1

/-! ### Bellows -/

/-- A request (R379): the boundary at which it first waited, its core, whether it is a PWRQ, its cost. -/
structure PwrAsk where
  first : Nat
  core  : CoreId
  pwrq  : Bool
  cost  : Nat
  deriving DecidableEq, Repr

/-- The cost of a core's PWRQ: what its region still lacks (R381). -/
def Core.pwrqCost (c : Core) (level : Nat) : Nat := level - if c.csr.grant then c.csr.level else 0

/-- The requests of a core that wait, its PWRQ before its MMA. -/
def State.asks (s : State) (l : CoreId) : List PwrAsk :=
  let c := s.core l
  let p := match c.pwrReq with
    | some { level, first, granted := false } => [{ first := first.getD s.now, core := l, pwrq := true, cost := c.pwrqCost level }]
    | _ => []
  let m := match s.mmaWaits l with
    | some (cmd, _) =>
      if c.csr.grant || (c.getE 2).grant == some s.now then []
      else [{ first := (c.getE 2).asked.getD s.now, core := l, pwrq := false, cost := cmd.cost }]
    | none => []
  p ++ m

/-- The waiting requests of a die in the order of R379. -/
def State.allAsks (s : State) (d : DieId) : List PwrAsk := sortBy (·.first) ((coresOf d).flatMap s.asks)

/-- The grant loop of R379: the requests granted, and Act after them. -/
def grantLoop (band ceil : Nat) : (act : Nat) → List PwrAsk → List PwrAsk × Nat
  | act, [] => ([], act)
  | act, r :: t =>
    if r.pwrq && decide (6 ≤ band) then grantLoop band ceil act t
    else if act + r.cost ≤ ceil then match grantLoop band ceil (act + r.cost) t with | (g, a) => (r :: g, a)
    else ([], act)

/-- An entry of the ramp table in force. -/
def Die.ramps (d : Die) (k : Nat) : Nat := (vget d.ramp k 0).toNat

/-- The step-up of R379, `dem` the cost of every waiting request. -/
def Die.stepUp (d : Die) (b dem : Nat) : Die :=
  if d.c < d.act + dem && decide (d.band ≤ 5) then
    { d with c := min (min (d.act + dem) (d.c + d.ramps d.i)) d.u, i := min (d.i + 1) 15, lastUp := b }
  else d

/-- The step-down of R379 and what follows it, `left` the cost of the requests still waiting. -/
def Die.stepDown (d : Die) (b left : Nat) (up : Bool) : Die :=
  let dem := d.act + left
  let d := if !up && decide (dem < d.c) then { d with c := max dem (d.c - d.ramps d.d), d := min (d.d + 1) 15 } else { d with d := 0 }
  let d := if 64 ≤ b - d.lastUp then { d with i := 0 } else d
  if d.band = 7 then { d with c := max d.act (d.c - d.ramps d.d) } else d

/-- A request granted: the MMA may begin its first pass in this cycle and holds its units to the end of its last pass. -/
def State.granted (s : State) (r : PwrAsk) : State :=
  let c := s.core r.core
  if r.pwrq then s.setCore r.core { c with pwrReq := c.pwrReq.map fun (q : PwrReq) => { q with granted := true } }
  else match s.mmaWaits r.core with
    | none => s
    | some (cmd, _) =>
      let d := s.die (dieOf r.core)
      let last := s.now + (cmd.passes - (c.getE 2).micro) * cmd.passLen - 1
      (s.setDie (dieOf r.core) { d with ends := d.ends ++ [(r.core, last, r.cost)] }).setCore r.core
        (c.setE 2 { c.getE 2 with grant := some s.now, asked := none })

/-- A request that waits on keeps the boundary at which it first waited; the core counts the boundary (R391). -/
def State.keepsWaiting (s : State) (rs : List PwrAsk) : State :=
  (dedup (rs.map (·.core))).foldl (fun s l => s.modCore l fun c =>
    let c := c.count 4 1
    let c := { c with pwrReq := c.pwrReq.map fun (q : PwrReq) => { q with first := some (q.first.getD s.now) } }
    if rs.any fun r => r.core == l && !r.pwrq then c.setE 2 { c.getE 2 with asked := some ((c.getE 2).asked.getD s.now) } else c) s

/-- Units released since the last boundary, taken out of Act. -/
def State.takeBack (s : State) (d : DieId) : State :=
  let x := s.die d
  let past := x.ends.filter fun e => e.2.1 < s.now
  let back := (past.map (·.2.2)).sum + ((coresOf d).map fun l => (s.core l).pwrRet).sum
  let s := (coresOf d).foldl (fun s l => s.modCore l fun c => { c with pwrRet := 0 }) s
  s.setDie d { x with act := x.act - back, ends := x.ends.filter fun e => !(e.2.1 < s.now) }

/-- BELLOWS_STEP (R379). -/
def execBELLOWS_STEP (d : DieId) (s : State) : Host.Outcome State Fault Refusal :=
  if !s.boundary then .next s
  else
    let s := s.setDie d { s.die d with before := some (s.now, (s.die d).c, (s.die d).i) }
    let s := s.takeBack d
    let x := s.die d
    let asks := s.allAsks d
    let y := x.stepUp s.now (asks.map fun (r : PwrAsk) => r.cost).sum
    let (got, act) := if y.band = 7 then ([], y.act) else grantLoop y.band y.c y.act asks
    let rest := asks.filter fun (r : PwrAsk) => !got.contains r
    let up := x.c < x.act + (asks.map fun (r : PwrAsk) => r.cost).sum && decide (x.band ≤ 5)
    let s := s.setDie d ({ y with act }.stepDown s.now (rest.map fun (r : PwrAsk) => r.cost).sum up)
    .next ((got.foldl State.granted s).keepsWaiting rest)

/-- An acceptable ramp table (R362). -/
def rampOk (t : Vector (BitVec 16) 16) : Bool :=
  t.toList.all (fun x => 16 ≤ x.toNat && x.toNat ≤ 4096) && (t.toList.zip (t.toList.drop 1)).all fun p => p.1.toNat ≤ p.2.toNat

/-- RAMP_TABLE_WRITE (R362). -/
def execRAMP_TABLE_WRITE (d : DieId) (t : Vector (BitVec 16) 16) (s : State) : Host.Outcome State Fault Refusal :=
  .next (if rampOk t then s.setDie d { s.die d with next := some t } else s)

/-- Whether an accepted ramp table takes effect now (R362): no granted units, no filler, step index 0. -/
def Die.quiet (d : Die) : Bool := d.act == 0 && d.c == 0 && d.i == 0

/-- RAMP_TABLE_APPLY (R362). -/
def execRAMP_TABLE_APPLY (d : DieId) (s : State) : Host.Outcome State Fault Refusal :=
  let x := s.die d
  .next (match x.next with
    | some t => if x.quiet then s.setDie d { x with ramp := t, next := none } else s
    | none => s)

/-- DIE_BUDGET_WRITE (R378): U lies in 256 to 4,096. -/
def execDIE_BUDGET_WRITE (d : DieId) (u : BitVec 13) (s : State) : Host.Outcome State Fault Refusal :=
  .next (if 256 ≤ u.toNat && u.toNat ≤ 4096 then s.setDie d { s.die d with u := u.toNat } else s)

/-! ### Core power gating (R385) -/

/-- The die of a physical core (R15). -/
def dieOfPhys (p : Fin 72) : DieId := Fin.ofNat 4 (p.val / 18)

def State.phys (s : State) (p : Fin 72) : Phys := s.hub.phys[p]
def State.setPhys (s : State) (p : Fin 72) (x : Phys) : State := s.setHub { s.hub with phys := s.hub.phys.set p x }

/-- The logical core that a physical core carries. -/
def State.logicalOf (s : State) (p : Fin 72) : Option CoreId := (List.finRange 64).find? fun l => s.hub.map[l] == some p

/-- CORE_GATE: a physical core that holds no bound task. -/
def execCORE_GATE (p : Fin 72) (s : State) : Host.Outcome State Fault Refusal :=
  let bound := match s.logicalOf p with | some l => (s.core l).task.isSome | none => false
  let x := s.phys p
  .next (if bound || x.gated.isSome then s else s.setPhys p { x with gated := some s.tick, wake := none })

/-- A wake request that its hold no longer keeps joins its die's arbiter: in order of the ticks at which the requests were made, then
of their cores. -/
def State.joinWakes (s : State) (p : Fin 72) : State :=
  let d := dieOfPhys p
  let x := s.die d
  let key (q : Fin 72) : Nat := (s.phys q).wake.getD 0 * 128 + q.val
  if x.wakes.contains p then s else s.setDie d { x with wakes := sortBy key (p :: x.wakes) }

/-- CORE_WAKE_REQUEST: within 20 ticks it aborts the gating; later it waits for the end of the hold. -/
def execCORE_WAKE_REQUEST (p : Fin 72) (s : State) : Host.Outcome State Fault Refusal :=
  let x := s.phys p
  .next (match x.gated with
    | none => s
    | some g =>
      if s.tick - g < 20 then s.setPhys p { x with gated := none, wake := none, awake := s.tick }
      else if x.wake.isSome then s
      else
        let s := s.setPhys p { x with wake := some s.tick }
        if 200 ≤ s.tick - g then s.joinWakes p else s)

/-- GATE_HOLD_END: the hold of 200 ticks is over. -/
def execGATE_HOLD_END (p : Fin 72) (s : State) : Host.Outcome State Fault Refusal :=
  let x := s.phys p
  .next (match x.gated, x.wake with
    | some g, some _ => if 200 ≤ s.tick - g then s.joinWakes p else s
    | _, _ => s)

/-- Whether the in-rush arbiter may start a wake: at most one in any 50 ticks. -/
def Die.mayWake (d : Die) (tick : Nat) : Bool :=
  !d.wakes.isEmpty && match d.lastWake with | none => true | some t => decide (50 ≤ tick - t)

/-- WAKE_START: the core may begin a task from here. -/
def execWAKE_START (d : DieId) (s : State) : Host.Outcome State Fault Refusal :=
  let x := s.die d
  .next (match x.wakes with
    | [] => s
    | p :: rest =>
      if x.mayWake s.tick then
        (s.setDie d { x with wakes := rest, lastWake := some s.tick }).setPhys p
          { s.phys p with gated := none, wake := none, awake := s.tick }
      else s)

/-! ### Undervolting (R386) -/

/-- VOLTAGE_ADJUST: below 4 corrected canary errors the voltage falls by 5 mV, else it rises; it stays between the floor and the guard
band, and is not lowered while undervolting is disabled. -/
def execVOLTAGE_ADJUST (d : DieId) (count : Nat) (s : State) : Host.Outcome State Fault Refusal :=
  let x := s.die d
  .next (if count < 4 then
      if x.offUntil.isNone && decide (x.volt < Config.voltageFloor) then (s.setDie d { x with volt := x.volt + 1 }).countDie d 12 else s
    else s.setDie d { x with volt := x.volt - 1 })

/-- VOLTAGE_RETURN. -/
def execVOLTAGE_RETURN (d : DieId) (s : State) : Host.Outcome State Fault Refusal :=
  let x := s.die d
  .next (match x.retAt with
    | some _ => (s.setDie d { x with volt := 0, retAt := none }).countDie d 13
    | none => s)

/-- UNDERVOLT_REENABLE. -/
def execUNDERVOLT_REENABLE (d : DieId) (s : State) : Host.Outcome State Fault Refusal :=
  let x := s.die d
  .next (match x.offUntil with
    | some t => if t ≤ s.tick then s.setDie d { x with offUntil := none } else s
    | none => s)

end Sys2Proof.Machine
end

