-- ==== Sys2Proof/Machine/Bind.lean ====
section
/-! DEFINITION. Binding and starting tasks (R21 to R28, R328, R358), chunk dealing (R21), retirement (R39, R189, R200), polls (R418), and the
completion of barriers and gangs (R258, R332, R333). -/

namespace Sys2Proof.Machine

/-! ### Which cores a card may take -/

/-- A logical core whose physical core is in use and not retired (R340, R412). -/
def Hub.usable (h : Hub) (l : CoreId) : Bool := match h.map[l] with | none => false | some p => !h.phys[p].retired

/-- R24: a core set aside is bound only to a gang whose reservation class is at least its own. -/
def Hub.mayTake (h : Hub) (k : Card) (l : CoreId) : Bool :=
  h.usable l && (h.resv[l].val == 0 || (k.gang && decide (h.resv[l].val ≤ k.resv)))

/-- The instance of a domain that holds a core (R16). -/
def instanceOf (d : Nat) (l : CoreId) : Nat :=
  match d with | 0 => l.val | 1 => l.val / 4 | 2 => l.val / 8 | 3 => l.val / 16 | _ => 0

/-- The cores that the placement of a waiting gang could use (R328, rule 2). -/
def Hub.protects (h : Hub) (g : Card) (l : CoreId) : Bool :=
  h.mayTake g l && (g.nlvl == 0 || (
    let d := g.domain (g.nlvl - 1)
    decide (5 ≤ d) || decide (g.gangN ≤ ((List.finRange 64).filter fun x => h.mayTake g x && instanceOf d x == instanceOf d l).length)))

/-! ### The order of binding -/

/-- A card that Salamander may bind now (R328, R331). -/
def Hub.waits (h : Hub) (k : Card) : Bool := k.st == .waiting && !k.held && !h.spill.contains k.id

/-- The order of R328: effective priority, then hosts in turn (R41), then acceptance. -/
def Hub.turn (h : Hub) (k : Card) : Nat :=
  let last := match h.lastFn with | none => 3 | some f => f.val
  ((7 - k.level) * 4 + (k.func.val + 3 - last) % 4) * 2 ^ 64 + k.order

def Hub.waiting (h : Hub) : List Card := sortBy h.turn (h.cards.filter h.waits)

/-- Whether two entries of a list differ everywhere. -/
def distinct {α : Type} [BEq α] : List α → Bool
  | [] => true
  | x :: t => !t.contains x && distinct t

/-- A placement of a gang (R23, R26): every task once, all of one unit of each level inside one instance of its domain. A gang that spans
packages has some of its tasks here, with a unit of a domain up to PKG here whole. -/
def Card.placed (k : Card) (cores : List (Nat × CoreId)) (spans : Bool) : Bool :=
  let idx := cores.map (·.1)
  distinct idx && idx.all (fun i => decide (i < k.gangN)) && (if spans then decide (idx.length < k.gangN) else idx.length == k.gangN) &&
  (List.range k.nlvl).all fun j => cores.all fun m => match cores.find? fun x => x.1 / k.prod (j + 1) == m.1 / k.prod (j + 1) with
    | none => true
    | some x => instanceOf (k.domain j) x.2 == instanceOf (k.domain j) m.2 &&
        (decide (5 ≤ k.domain j) || (cores.filter fun y => y.1 / k.prod (j + 1) == m.1 / k.prod (j + 1)).length == k.prod (j + 1))

/-- The address-space entry that a card uses (R240): the ID already names its space, or is bound to it with the next generation; before the
generation wraps, every entry of the ID is invalidated. -/
def Hub.asidFor (h : Hub) (k : Card) : Option (Nat × List (Nat × Nat × Nat)) :=
  let id := k.choice.asidId.toNat
  let root := k.root
  match h.asids.find? (·.1 == id) with
  | none => some (1, (id, 1, root) :: h.asids)
  | some (_, gen, r) =>
    if r = root then some (gen, h.asids)
    else if gen = 15 && !h.invalid.contains id then none
    else some ((gen + 1) % 16, (id, (gen + 1) % 16, root) :: h.asids.filter (·.1 != id))

/-- Whether a core is free for a card: it holds no task, the card may take it, and it is not kept for a gang with a reservation that has been
saved there, which no work without one displaces (R38, R43). -/
def State.mayTake (s : State) (k : Card) (l : CoreId) : Bool :=
  (s.core l).task.isNone && (s.core l).run == .idle && s.hub.mayTake k l &&
  ((k.gang && k.resv != 0) || !s.hub.cards.any fun g => g.gang && g.resv != 0 && g.saved.any (·.at_ == l))

/-- How many units of level `j - 1` of a gang fit on some cores, single cores for `j = 0` (R26): those of one unit lie inside one instance of its
domain. -/
def Card.fits (k : Card) : (j : Nat) → List CoreId → Nat
  | 0, ls => ls.length
  | j + 1, ls =>
    ((List.range 64).map fun i => k.fits j (ls.filter fun l => instanceOf (k.domain j) l == i) / k.extent j).sum

/-- Records of a batch card that no core has: those never dealt, and those that a retired core left (R21, R340). -/
def Card.toDeal (k : Card) : Nat := k.argCount - k.dealt + k.left.length

/-- Whether a waiting card can be bound now on the free cores that `kept` does not keep from it: a batch card to one of them, a gang in full (R23,
R26, R328). -/
def State.bindable (s : State) (k : Card) (kept : CoreId → Bool) : Bool :=
  let h := s.hub
  let free := (List.finRange 64).filter fun l => s.mayTake k l && !kept l
  (!k.conf || k.key.isSome || decide (h.keys.length < 16)) && (h.asidFor k).isSome &&
  if !k.gang then !free.isEmpty else if k.nlvl = 0 then decide (k.gangN ≤ free.length) else decide (0 < k.fits k.nlvl free)

/-- Whether the first waiting gang, which cannot be bound in full, keeps a core from a card of no higher priority (R328, rule 2). -/
def State.keeps (s : State) (k : Card) (l : CoreId) : Bool :=
  match s.hub.waiting.find? (·.gang) with
  | none => false
  | some g => g.id != k.id && decide (k.level ≤ g.level) && !s.bindable g (fun _ => false) && s.hub.protects g l

/-- Whether rules 1 and 2 of R328 and the turns of R41 let `k` have these cores: a card before it in the order that can be bound now comes first,
before a card that already runs one of its priority too, on cores that rule 2 leaves it; the first waiting gang, while it cannot be bound in full, keeps the cores its placement
could use from cards of no higher priority; and a running batch card leaves a core to one of its host and priority that got one longer ago. -/
def State.fair (s : State) (k : Card) (cores : List CoreId) : Bool :=
  let h := s.hub
  let runs := k.st == .running
  let before := if runs then h.waiting.filter fun j => decide (k.level ≤ j.level) else h.waiting.takeWhile (·.id != k.id)
  let peer (j : Card) : Bool := j.st == .running && !j.gang && !j.stops && decide (0 < j.toDeal) && j.func == k.func && j.level == k.level &&
    decide (j.given < k.given) && decide (j.nbound < j.argCount) && cores.any (h.mayTake j)
  before.all (fun j => !s.bindable j (s.keeps j)) && !(runs && h.cards.any peer) && !cores.any (s.keeps k)

/-- Whether Salamander may bind these cores to a card (R21 to R26, R328, R410). -/
def State.mayBind (s : State) (k : Card) (cores : List (Nat × CoreId)) (spans : Bool) : Bool :=
  let h := s.hub
  let ls := cores.map (·.2)
  let room := if k.gang then k.placed cores spans
    else decide (k.nbound + ls.length ≤ min k.argCount ((List.finRange 64).filter (h.mayTake k)).length) && decide (0 < k.toDeal)
  s.open_ && !s.boot.minimal && !ls.isEmpty && distinct ls && ls.all (s.mayTake k) && room &&
  (h.waits k || (k.st == .running && !k.gang && !k.stops)) &&
  (!k.conf || k.key.isSome || decide (h.keys.length < 16)) && (h.asidFor k).isSome && s.fair k ls

/-! ### Binding -/

/-- The launch number of a gang whose task 0 lies in this package (R28). -/
def Hub.nextGang (h : Hub) : Word := if h.gangs == 0xFFFFFFFFFFFFFFFF then 1 else h.gangs + 1

/-- A core receives a bind record. Operand SRAM is written to zero when the core last ran a task of a different card (R229). -/
def State.bindCore (s : State) (k : Card) (asid gangid : Word) (index : Nat) (l : CoreId) : State :=
  let c := s.core l
  let same := (s.hub.lastCard.find? (·.1 == l)).map (·.2) == some k.id
  let t := { k.taskAt index l asid gangid with eprio := k.level, resv := s.hub.resv[l].val, start := k.start }
  let s := s.setCore l { run := .bound, task := some (s.hub.shown t), sram := if same then c.sram else {}, pwrRet := c.pwrRet, last := c.last }
  s.setHub { s.hub with lastCard := (l, k.id) :: s.hub.lastCard.filter (·.1 != l) }

/-- BIND (R23, R26, R28, R328, R357): a waiting card, or further cores for a batch card with records left. `cores` pairs each core with its
task index, 0 for a batch card. `start`, `launch` and `span` are those of a gang that spans packages. -/
def execBIND (card : Nat) (cores : List (Nat × CoreId)) (start launch : BitVec 64) (span : List (BitVec 10)) (s : State) :
    Host.Outcome State Fault Refusal :=
  match s.hub.card card with
  | none => .next s
  | some k =>
    let spans := !span.isEmpty
    if !s.mayBind k cores spans then .next s
    else match s.hub.asidFor k with
      | none => .next s
      | some (gen, asids) =>
        let h := s.hub
        let here := cores.any (·.1 == 0)
        let waited := k.st == .waiting
        let gangid := if !k.gang then 0 else if here then h.nextGang else launch
        let key := if k.conf then k.key.orElse fun _ => some h.nextKey else none
        let k := { k with
          st := .running, nbound := k.nbound + cores.length, given := h.binds + 1, cores := if k.gang then cores else [], gangid, key
          start := if spans then start.toNat else 0, span := span.map fun (i : BitVec 10) => i.toNat }
        let fresh := k.conf && !h.keys.contains (key.getD 0)
        let kept := asids.any fun x => h.asids.contains x && x.1 == k.choice.asidId.toNat
        let h := if kept then h else h.setTabs k.choice.asidId.toNat k.root s.mem
        let h := { h with
          asids, invalid := h.invalid.filter (· != k.choice.asidId.toNat)
          gangs := if k.gang && here then h.nextGang else h.gangs, lastFn := if waited then some k.func else h.lastFn, binds := h.binds + 1
          keys := if fresh then h.keys ++ [h.nextKey] else h.keys, nextKey := h.nextKey + ofBool fresh }
        let s := s.setHub ((h.unpool k.id).setCard k)
        let s := match fresh, key with | true, some key => { s with mem := s.mem.openPages key (s.hub.sealed k s.mem) } | _, _ => s
        let asid := BitVec.ofNat 64 (k.choice.asidId.toNat + 4096 * gen)
        .next ((cores.foldl (fun s m => s.bindCore k asid gangid m.1 m.2) s).modCard card fun k => { k with risen := 0 })

/-! ### Dealing -/

/-- A core leaves its card: its region and the units of its passes go back to Bellows (R379, R384); operand SRAM keeps its contents, which a
confidential card leaves zero (R229, R410). -/
def State.freeCore (s : State) (l : CoreId) : State :=
  let s := s.releaseMma l
  let c := (s.core l).dropReq.releaseRegion
  s.setCore l { sram := if c.theTask.conf then {} else c.sram, pwrRet := c.pwrRet, last := c.last }

/-- A card whose last task has retired ends (R39). -/
def State.endIfDone (s : State) (n : Nat) : State :=
  match s.hub.card n with
  | none => s
  | some k =>
    let ended := if k.gang then k.cores.isEmpty else k.nbound == 0 && (k.toDeal == 0 || k.stops)
    if k.st == .running && ended && k.saved.isEmpty then s.endCard n else s

/-- CHUNK_REQUEST (R21, R22): a bound core without records receives the next chunk, or leaves the card when none remain; a retired core leaves it too
(R340), and the records that such a core left are dealt first (log 117). -/
def execCHUNK_REQUEST (c : CoreId) (s : State) : Host.Outcome State Fault Refusal :=
  let x := s.core c
  let t := x.theTask
  match s.hub.card t.card with
  | none => .next s
  | some k =>
    if !(x.run == .bound && !k.gang && x.records.isEmpty) then .next s
    else
      let rest := k.toDeal
      if rest = 0 || k.stops || !s.hub.usable c then
        .next (((s.freeCore c).modCard k.id fun k => { k with nbound := k.nbound - 1 }).endIfDone k.id)
      else
        let n := max 1 (ceilDiv rest (2 * k.nbound))
        let s := s.setCore c { x with records := (k.left ++ (List.range n).map (k.dealt + ·)).take n }
        .next (s.modCard k.id fun k => { k with dealt := k.dealt + (n - k.left.length), left := k.left.drop n })

/-! ### Starting -/

/-- Whether the physical core of a logical one is awake (R385). -/
def State.awake (s : State) (l : CoreId) : Bool :=
  match s.hub.map[l] with
  | none => false
  | some p => (s.phys p).gated.isNone && decide ((s.phys p).awake ≤ s.tick)

/-- Whether the saved power region of a restored core stands (R384). -/
def Core.restored? (c : Core) : Bool :=
  match c.run with
  | .restoring true => match c.pwrReq with | some q => q.granted | none => true
  | .restoring false => true
  | _ => false

/-- Whether a gang member is ready, or has already started in this cycle. -/
def Core.ready? (c : Core) : Bool := c.run == .bound || c.run == .running || c.run == .stopped || c.restored?

/-- Whether a bound or restored task starts now: its start condition holds, and every member of a gang starts in the same cycle (R23, R38,
R328, R384). -/
def State.mayStart (s : State) (l : CoreId) : Bool :=
  let c := s.core l
  (c.run == .bound || c.restored?) && s.hub.usable l && s.awake l && match s.hub.card c.theTask.card with
  | none => false
  | some k =>
    if k.gang then k.saved.isEmpty && decide (k.start ≤ s.tick) && k.cores.all fun m => s.awake m.2 && (s.core m.2).ready?
    else c.restored? || !c.records.isEmpty

/-- The state of a core at task start (R99, R101, R114, R138, R145, R186, R274, R343, R349, R332): what a task does not find at its reset value is
its argument record in `s1`, the operand SRAM of its card, and the barrier tags it is a member of. -/
def Core.startState (c : Core) (k : Card) (index now : Nat) : Core :=
  let t := { c.theTask with index, lvl := Vector.ofFn fun j => k.lvlImage index j.val }
  { run := .running, task := some t, s := (Vector.replicate 32 0).set 1 (BitVec.ofNat 64 (k.argBase + index * k.argSize))
    csr := { ev := (Vector.replicate 16 0).set 11 1 }, sram := c.sram, pwrRet := c.pwrRet, records := c.records, last := c.last, preq := c.preq, pend19 := c.pend19, ready := now, born := now
    tags := Vector.ofFn fun j => { live := k.gang && (decide (j.val < k.nlvl) || j.val == 8) } }

/-- A restored core resumes (R202, R384): its landing list is armed, `u` being the first cycle of the resumed task. -/
def Core.resume (c : Core) (now : Nat) : Core :=
  let c := match c.pwrReq with
    | some { level, granted := true, .. } => { c with pwrReq := none, csr := { c.csr with grant := true, level } }
    | _ => c
  let back := c.parked.map fun (p : Nat × Nat × Fly) => { p.2.2 with due := some (now + p.2.1) }
  { c.arm true now with run := .running, fly := c.fly ++ back, parked := [], ready := now }.count 11 1

/-- TASK_START (R18, R23, R328): the first position issues in this cycle. An odd entry raises fault 0x07 (R77), one that is no header fault 0x04
(R19). -/
def execTASK_START (c : CoreId) (s : State) : Host.Outcome State Fault Refusal :=
  let x := s.core c
  if !s.mayStart c then .next s
  else match s.hub.card x.theTask.card with
    | none => .next s
    | some k =>
      if x.restored? then .next (s.setCore c (x.resume s.now))
      else
        let index := if k.gang then x.theTask.index else x.records.headD 0
        let s := s.modCard k.id fun k => k.newTask (k.part x.theTask c)
        let y := { x.startState k index s.now with records := x.records.drop 1 }
        if k.entry % 2 = 1 then .next ((s.setCore c y).systemStop c 0x07 (BitVec.ofNat 64 k.entry))
        else match entryFetch s.mem y k.entry with
        | .ok (fl, lp) => .next (s.setCore c { y with fetch := fl, loop := lp })
        | .error _ => .next ((s.setCore c y).systemStop c 0x04 (BitVec.ofNat 64 k.entry))

/-! ### Retirement -/

/-- Whether the task of a core leaves it now: END has done its waits, the task was stopped, or its card's tasks are being ended and it stands at a
boundary (R189, R200). -/
def State.retires (s : State) (l : CoreId) : Bool :=
  let c := s.core l
  c.task.isSome && (c.run == .ending || c.run == .stopped ||
    ((s.hub.card c.theTask.card).any (·.stops) && c.vbusy.isNone))

/-- The stores of a task that leaves which are still on their way: those to operand SRAM are made, and release stores whose order is met, one after
the other (R251); its plain stores are discarded (R189; log 74). -/
def State.lastStores (s : State) (l : CoreId) : State :=
  ((s.core l).gst.filter (!·.plain)).foldl (fun s g =>
    if g.rel.isNone || (s.core l).mayRelease s.now g.prog then (s.makeStore l g).modCore l fun k => k.dropStore g.prog else s) s

/-- The streams of the link commands that a task leaves in its queue end with it, so that the streams of later commands match as R395 counts them
(log 49). -/
def State.cutLinks (s : State) (l : CoreId) : State :=
  ((s.core l).getE 5).queue.zipIdx.foldl (fun s y => s.cutStream l (if y.2 = 0 then (s.core l).getE 5 else {}) y.1) s

/-- TASK_RETIRE (R39, R189, R200): the row groups are released and the core is free for its next record, or for another card. A retired core takes no
further record: those of its chunk are dealt again (R340; log 117). -/
def execTASK_RETIRE (c : CoreId) (s : State) : Host.Outcome State Fault Refusal :=
  if !s.retires c then .next s
  else
    let x := s.core c
    let t := x.theTask
    let s := (s.lastStores c).cutLinks c
    match s.hub.card t.card with
    | none => .next (s.freeCore c)
    | some k =>
      let next := !k.gang && !k.stops && s.hub.usable c
      let sram := (s.core c).sram
      let s := s.freeCore c
      let s := if next then s.modCore c fun y => { y with run := .bound, task := some t, records := x.records, sram, last := x.last }
        else s
      let s := s.modCard k.id fun k =>
        { k with done := k.done + 1, cores := k.cores.filter (·.2 != c), nbound := if next then k.nbound else k.nbound - 1
                 left := if next || k.gang || k.stops then k.left else k.left ++ x.records
                 saved := if k.stops then [] else k.saved }
      .next (s.endIfDone k.id)

/-- CORE_POLL (R36, R418): a bound core that misses two polls in a row is unresponsive: its task ends with cause 0x1E and its physical core is
retired. -/
def execCORE_POLL (c : CoreId) (answers : Bool) (s : State) : Host.Outcome State Fault Refusal :=
  match s.hub.map[c], (s.core c).task with
  | some p, some _ =>
    let x := s.phys p
    if answers then .next (s.setPhys p { x with missed := 0 })
    else if x.missed = 0 then .next (s.setPhys p { x with missed := 1 })
    else
      let s := (s.setPhys p { x with missed := 0, retired := true }).logEntry 7 p.val 0 (s.core c).task 0
      .next (s.systemStop c 0x1E (BitVec.ofNat 64 c.val))
  | _, _ => .next s

/-! ### Barriers and the end of a gang -/

/-- Whether the release stores that a member issued before its arrival at a tag have been made. -/
def Core.arrivalDone (c : Core) (tag : Nat) : Bool :=
  let since := (vget c.tags tag {}).since
  c.gst.all (fun g => g.plain || decide (since ≤ g.prog)) && c.exposed.all (fun x => !x.rel || decide (since ≤ x.id))

/-- Whether an instance completes now (R254, R333): no member is saved, its cycle has come, and every release store that a live member issued before
its arrival has been made (log 76). Of a unit with tasks in other packages, every live member here has arrived. -/
def State.barrierDue (s : State) (k : Card) (tag unit : Nat) : Bool :=
  let done := (s.liveMembers k tag unit).all fun m => (s.core m.2).arrivalDone tag
  k.saved.isEmpty && done && if k.whole tag unit then k.bars.any fun b => b.1 == tag && b.2.1 == unit && decide (b.2.2.1 ≤ s.now)
  else s.allReached k tag unit

/-- BARRIER_COMPLETE (R254, R258, R332): the unit's quantum commit, and the completion count of the tag. Of a unit with tasks in other packages it
comes from outside (log 100). -/
def execBARRIER_COMPLETE (card : Nat) (tag : Fin 9) (unit : Nat) (s : State) : Host.Outcome State Fault Refusal :=
  match s.hub.card card with
  | none => .next s
  | some k =>
    if !s.barrierDue k tag.val unit then .next s
    else
      let s := s.quantumCommit (s.liveMembers k tag.val unit)
      let cp := k.cp tag.val unit + 1
      let s := s.modCard card fun k =>
        { k with bars := k.bars.filter fun b => !(b.1 == tag.val && b.2.1 == unit)
                 cps := (tag.val, unit, cp) :: k.cps.filter fun x => !(x.1 == tag.val && x.2.1 == unit) }
      .next (s.checkBarrier card tag.val unit)

/-- Whether every member of a gang stands at END (R258). -/
def State.gangEnds (s : State) (k : Card) : Bool :=
  k.gang && !k.cores.isEmpty && k.cores.all fun m => (s.core m.2).stall == some .gangEnd && (s.core m.2).run == .running

/-- GANG_END_COMMIT (R258): the whole gang commits in ascending task index before any member retires. Of a gang that spans packages it comes from
outside (log 100). -/
def execGANG_END_COMMIT (card : Nat) (s : State) : Host.Outcome State Fault Refusal :=
  match s.hub.card card with
  | none => .next s
  | some k =>
    if !s.gangEnds k then .next s
    else
      let ms := sortBy (·.1) k.cores
      let s := s.quantumCommit ms
      .next (ms.foldl (fun s m => s.modCore m.2 fun c => { c with run := .ending, stall := none }) s)

end Sys2Proof.Machine
end

