-- ==== Sys2Proof/Machine/Csr.lean ====
section
/-! DEFINITION. The control and status registers (R185 to R187, R269, R312, R391) and the CSR instructions (R188). -/

namespace Sys2Proof.Machine

/-- KIND of a stall (R33, R187). R33 gives none for END: its own waits read 3, and a gang member's END 5, as R258 calls it a barrier wait (log 104). -/
def Stall.kind : Stall → Nat
  | .interlock _ => 1
  | .unitBusy | .occupancy => 0
  | .feed _ => 2
  | .emberWord _ => 4
  | .barrier .. | .arrived _ | .gangEnd => 5
  | _ => 3

/-- OBJECT of a stall (R187). The code of a counter is not stated (log 105); a stall on nothing that R187 lists reads 0. -/
def Stall.object : Stall → Nat
  | .counters k | .outstanding k => (Config.counterCode k).toNat
  | .interlock n => n
  | .feed n => n
  | .emberWord a => a % 2 ^ 48
  | .barrier t _ | .arrived t => t
  | _ => 0

/-- `blkst` (R187). -/
def blkst (st : Option Stall) : Word :=
  match st with
  | none => 0
  | some k => BitVec.ofNat 64 (k.kind + 65536 * k.object)

/-- The loop state that `status.LDEP` describes (R187): in handler mode that of the interrupted task, saved in the shadow. -/
def Core.depLoop (c : Core) : Loop := if c.csr.h then c.shadow.loop else c.loop

/-- `status` (R187). -/
def Core.status (c : Core) : Word :=
  let x := c.csr
  BitVec.ofNat 64 (ofBool x.h + 2 * x.ann.toNat + 8 * x.tgt.toNat + 64 * c.depLoop.ldep.toNat +
    (if x.h then 256 * ofBool (!c.expiry.isEmpty) + 512 * ofBool c.pend18 + 1024 * ofBool c.pend19.isSome else 0) +
    2048 * ofBool x.xovf)

/-- `mxst` (R312). -/
def Core.mxst (c : Core) : Word :=
  let x := c.eng[2]
  let fblk := match x.queue with
    | [] => 0
    | cmd :: _ => (((c.fills.find? (·.prog == cmd.prog)).bind (·.ebx)).map (·.nblk)).getD 0
  BitVec.ofNat 64 ((c.tiles[0].tf + 4 * c.tiles[1].tf + 16 * c.tiles[2].tf + 64 * c.tiles[3].tf) + 256 * x.micro +
    2 ^ 24 * (fblk % 65536))

/-- `chnext` (R187). -/
def Chorus.chnext (ch : Chorus) : Word :=
  match ch.next with
  | none => 0
  | some (tick, step) => BitVec.ofNat 64 (tick % 2 ^ 56 * 256 + 128 + step)

/-- `tempband` (R187). -/
def Die.tempband (d : Die) : Word := BitVec.ofNat 64 (d.temp.toNat * 256 + d.band)

/-- The value of a CSR (R185). -/
def csrRead (s : State) (l : CoreId) (c : Core) (n : Nat) : Word :=
  let x := c.csr
  let t := c.theTask
  let nat (v : Nat) : Word := BitVec.ofNat 64 v
  if n < 0x08 then
    match n with
    | 0 => c.status | 1 => x.cause | 2 => x.tval | 3 => x.fpc | 4 => x.npc | 5 => x.nnpc | 6 => x.thandler | _ => x.tscratch
  else if n < 0x14 then
    match n with
    | 0x10 => nat x.frm.toNat
    | 0x11 => nat (x.grp.toNat + 2 * x.vmg.toNat)
    | 0x12 => nat (ofBool x.spill)
    | _ => nat (ofBool x.dbgPend + 2 * ofBool x.lchk + 4 * ofBool x.ss)
  else if n < 0x23 then vget c.loop.lc (n - 0x20) 0
  else if n < 0x27 then vget c.loop.lbs (n - 0x24) 0
  else if n < 0x2B then vget c.loop.lbe (n - 0x28) 0
  else if n = 0x40 then x.stbase
  else if n = 0x41 then s.clock.stamp
  else if n = 0x48 then nat t.heapb
  else if n = 0x49 then nat t.heapl
  else if n = 0x4A then nat t.heapo
  else if n = 0x4B then t.asid
  else if n < 0x58 then vget t.lvl (n - 0x50) 0
  else if n = 0x58 then nat t.index
  else if n = 0x59 then t.gangid
  else if n = 0x5A then nat l.val
  else if n = 0x60 then nat (x.level + 65536 * ofBool x.grant)
  else if n = 0x61 then nat s.chorus.step
  else if n = 0x62 then s.chorus.chnext
  else if n = 0x63 then (s.die (dieOf l)).tempband
  else if n = 0x70 then x.refcnt
  else if n = 0x71 then x.cycle
  else if n = 0x80 then blkst c.stall
  else if n < 0x106 then nat (((c.eng.toList[n - 0x100]?).map (·.seq.toNat)).getD 0)
  else if n < 0x10E then nat (((c.eng.toList[n - 0x108]?).map (·.iss.toNat)).getD 0)
  else if n = 0x110 then c.mxst
  else vget x.evWas (n - 0x120) 0

/-- Task access of a CSR (R185). -/
inductive CsrAccess where
  | rw | r | h
  deriving DecidableEq, Repr

def csrAccess (n : Nat) : CsrAccess :=
  if 0x01 ≤ n && n ≤ 0x05 then .h
  else if n ≤ 0x40 then .rw
  else .r

/-- Whether a level of the loop state is active (R118). -/
def Loop.active (lp : Loop) (j : Nat) : Bool := decide (j < lp.ldep.toNat)

/-- Whether writing `v` to a CSR breaks R118: `lbs` or `lbe` of an active level, or LDEP while a level is active. A write to `status` that leaves
LDEP as it is, and one in handler mode, where LDEP is that of the interrupted task, break nothing (log 26). -/
def Core.breaches (c : Core) (n : Nat) (v : Word) : Bool :=
  if n = 0 then !c.csr.h && c.loop.ldep != 0 && fld v 6 2 != c.loop.ldep.toNat
  else (decide (0x24 ≤ n) && decide (n ≤ 0x26) && c.loop.active (n - 0x24)) || (decide (0x28 ≤ n) && decide (n ≤ 0x2A) && c.loop.active (n - 0x28))

/-- Whether a word is a header, a transfer or RETT, which the layout rules of R85 name. -/
def laidOut (w : Nat) : Bool :=
  match decode w with
  | .instr (.BLK_IMMEDIATE ..) | .instr (.BLK_REGISTER ..) | .instr (.BEQ ..) | .instr (.BNE ..) | .instr (.BLT ..) | .instr (.BGE ..)
  | .instr (.BLTU ..) | .instr (.BGEU ..) | .instr (.C_BZ ..) | .instr (.C_BNZ ..) | .instr (.J ..) | .instr (.JAL ..) | .instr (.JALR ..)
  | .instr (.C_J ..) | .instr .RETT | .rejected _ => true
  | _ => false

/-- Whether code from `a` runs straight to `b`: every position is fetched and decodes without a fault, and no layout rule names it. -/
def straight (m : Mem) (t : Task) (lp : Loop) : (fuel a b : Nat) → Bool
  | 0, _, _ => false
  | n + 1, a, b => a == b || (decide (a < b) && match wordAt m t lp a with
    | .error _ => false
    | .ok (size, w) => wordFault w == none && !laidOut w && straight m t lp n (a + size) b)

/-- Whether no fetch, decode or layout fault can follow from a loop state: every active level lies in a block that contains n2, and runs straight,
from its start and from n2 on, to its end; what stands behind the outermost block is a header. -/
def Loop.harmless (lp : Loop) (m : Mem) (c : Core) : Bool :=
  let t := c.theTask
  let x := c.fetch.n2
  let y := x.addr.toNat + sizeAt m t lp x.addr.toNat
  let bare := { lp with base := none }
  (match x.around.getLast? with | none => true | some b => isHeader m t bare b.limit) && x.entry == .none &&
  (List.range lp.ldep.toNat).all fun j =>
    lp.begin j % 2 == 0 && decide (lp.begin j < lp.end_ j) && decide (y < lp.end_ j) &&
    (x.around.any fun b => b.start ≤ lp.begin j && lp.end_ j ≤ b.limit) &&
    straight m t bare 4096 (lp.begin j) (lp.end_ j) && straight m t bare 4096 y (lp.end_ j)

/-- Write `v` to a CSR; `a` is the source value, which W1C bits are judged on (R188). `wild` is the content left by a breach of
R118 (R8). -/
def csrWrite (c : Core) (n : Nat) (v a : Word) (wild : Nat) : Core :=
  let x := c.csr
  let lo (k : Nat) : Word := BitVec.ofNat 64 (fld v 0 k)
  let addr (j : Nat) : Word := if c.loop.active j then BitVec.ofNat 64 (wild % 2 ^ 48) else lo 48
  match n with
  | 0 =>
    let dep := if c.breaches 0 v then wild else fld v 6 2
    { c with
      csr := { x with xovf := x.xovf && fld a 11 1 == 0, ann := BitVec.ofNat 2 (fld v 1 2), tgt := BitVec.ofNat 3 (fld v 3 3) }
      loop := if x.h then c.loop else c.loop.setDep dep
      shadow := if x.h then { c.shadow with loop := c.shadow.loop.setDep dep } else c.shadow }
  | 1 => { c with csr := { x with cause := setFld x.cause 12 1 (fld v 12 1) } }
  | 2 => { c with csr := { x with tval := v } }
  | 3 => { c with csr := { x with fpc := v } }
  | 4 => { c with csr := { x with npc := v } }
  | 5 => { c with csr := { x with nnpc := v } }
  | 6 => { c with csr := { x with thandler := lo 48 } }
  | 7 => { c with csr := { x with tscratch := v } }
  | 0x10 => { c with csr := { x with frm := BitVec.ofNat 2 (fld v 0 2) } }
  | 0x11 => { c with csr := { x with grp := BitVec.ofNat 1 (fld v 0 1), vmg := BitVec.ofNat 3 (fld v 1 3) } }
  | 0x12 => { c with csr := { x with spill := fld v 0 1 == 1 } }
  | 0x13 =>
    let on := fld v 0 1 == 1
    { c with
      csr := { x with dbgPend := on, lchk := fld v 1 1 == 1, ss := fld v 2 1 == 1 }
      exposed := if on then c.exposed else c.exposed.map fun (e : Exposed) => { e with pendBit := false }
      land := if on then c.land else c.land.map fun (e : Landing) => { e with pendBit := false } }
  | 0x20 => { c with loop := { c.loop with lc := vput c.loop.lc 0 v } }
  | 0x21 => { c with loop := { c.loop with lc := vput c.loop.lc 1 v } }
  | 0x22 => { c with loop := { c.loop with lc := vput c.loop.lc 2 v } }
  | 0x24 => { c with loop := { c.loop with lbs := vput c.loop.lbs 0 (addr 0) } }
  | 0x25 => { c with loop := { c.loop with lbs := vput c.loop.lbs 1 (addr 1) } }
  | 0x26 => { c with loop := { c.loop with lbs := vput c.loop.lbs 2 (addr 2) } }
  | 0x28 => { c with loop := { c.loop with lbe := vput c.loop.lbe 0 (addr 0) } }
  | 0x29 => { c with loop := { c.loop with lbe := vput c.loop.lbe 1 (addr 1) } }
  | 0x2A => { c with loop := { c.loop with lbe := vput c.loop.lbe 2 (addr 2) } }
  | 0x40 => { c with csr := { x with stbase := v } }
  | _ => c

/-- A CSR write by a task (R118, R188): a breach raises no fault, so the unpredictable content it leaves is one that no fault can follow
from, and else the loop state stands as it was (R8; log 12). -/
def csrStore (m : Mem) (c : Core) (n : Nat) (v a : Word) (wild : Nat) : Core :=
  let w := csrWrite c n v a wild
  if c.breaches n v && !w.loop.harmless m w then { w with loop := c.loop } else w

/-- CsrOp of R188. `new` gives the value written from the old one and the source. A source that stalls or faults comes before 0x06 (log 127). -/
def csrOp (d a csr : Nat) (writes : Bool) (new : Word → Word → Word) (s : State) : Host.Outcome State Fault Refusal :=
  smith s 4 .plain fun s c => with1 c a [] d fun c' x =>
    if writes && (csrAccess csr == .r || (csrAccess csr == .h && !c.csr.h)) then .halt (.fault 0x06 (BitVec.ofNat 64 csr))
    else
      let old := csrRead s s.cur c csr
      let c' := c'.push d old (s.now + 1)
      if writes then
        .done c' (fun c => csrStore s.mem c csr (new old x) x (Config.wild s.fresh.1)) (fun s => s.fresh.2)
      else .ok c'

/-- CSRR (R188). -/
def execCSRR (d : BitVec 6) (c : BitVec 11) (s : State) : Host.Outcome State Fault Refusal :=
  csrOp d.toNat 0 c.toNat false (fun old _ => old) s

/-- CSRW (R188). -/
def execCSRW (d a : BitVec 6) (c : BitVec 11) (s : State) : Host.Outcome State Fault Refusal :=
  csrOp d.toNat a.toNat c.toNat true (fun _ x => x) s

/-- CSRS writes nothing when a names `s0` (R188). -/
def execCSRS (d a : BitVec 6) (c : BitVec 11) (s : State) : Host.Outcome State Fault Refusal :=
  csrOp d.toNat a.toNat c.toNat (a != 0) (fun old x => old ||| x) s

/-- CSRC writes nothing when a names `s0` (R188). -/
def execCSRC (d a : BitVec 6) (c : BitVec 11) (s : State) : Host.Outcome State Fault Refusal :=
  csrOp d.toNat a.toNat c.toNat (a != 0) (fun old x => old &&& ~~~x) s

end Sys2Proof.Machine
end

