-- ==== Sys2Proof/Machine/Image.lean ====
section
/-! DEFINITION. The context image of R201 in the save area: what a pre-emption writes there and what a restore finds there (R158, R194, R297, R312,
R335, R343, R349, R390, R410). Where the layout of a part is not stated, its bytes are free values (log 20). -/

namespace Sys2Proof.Machine

/-! ### The image -/

/-- First byte of the row-group records of a context with `n` run slots. -/
def rowsAt (n : Nat) : Nat := ceilDiv (0x11E000 + 8 * n) 4096 * 4096

/-- Run slots of a context (R158). -/
def Core.slots (c : Core) : Nat := (c.v.toList.map VReg.slots).sum

/-- BYTES of the header. -/
def Core.imageBytes (c : Core) : Nat := rowsAt c.slots + 4160 * c.ember.rows.length

/-- The registers of the CSR block in the Save order of R185. -/
def savedCsrs : List Nat :=
  [0x00, 0x01, 0x02, 0x03, 0x04, 0x05, 0x06, 0x07, 0x10, 0x11, 0x12, 0x13, 0x40, 0x60, 0x20, 0x21, 0x22, 0x24, 0x25, 0x26, 0x28, 0x29, 0x2A, 0x70]

/-- Doublewords as bytes. -/
def dwords (l : List Word) : List Byte := l.flatMap fun w => leBytes 8 w.toNat

/-- An entry of the landing list: the address of its 8-byte word, the word's data and mask, r, valid and the tag, 1 for resume. -/
def Landing.image (e : Landing) : List Byte :=
  let lo := e.off % 8
  leBytes 8 (emberWindow + e.off - lo) ++ leBytes 8 (leNat e.data * 256 ^ lo) ++ leBytes 1 ((2 ^ e.data.length - 1) * 2 ^ lo) ++ leBytes 1 e.r ++
    [1, if e.resume then 1 else 0] ++ List.replicate 12 0

/-- Loop state and LDEP in the order of R193: `lc`, `lbs`, `lbe`, LDEP. -/
def Loop.image (lp : Loop) : List Byte := dwords (lp.lc.toList ++ lp.lbs.toList ++ lp.lbe.toList ++ [BitVec.ofNat 64 lp.ldep.toNat])

/-- The parcels of a loop buffer. -/
def Loop.bufImage (lp : Loop) : List Byte := lp.buf.flatMap fun p => leBytes 2 p.toNat

/-- A line of the commit buffer (R201, R325). Bytes that it does not hold are free. -/
def CLine.image (l : CLine) (n : Nat) : List Byte :=
  leBytes 8 l.addr ++ leBytes 8 (maskNat l.bytes) ++ l.bytes.zipIdx.map fun x => x.1.getD (Config.contextByte n x.2)

/-- STATE of a row group, as R225 codes it. -/
def RowState.code : RowState → Nat
  | .empty => 1 | .valid => 2 | .invalid => 3

/-- Bytes per element of a tile (R297). -/
def tileWidth (tf : Nat) : Nat := if tf = 2 then 8 else 4

/-- The parts of the image whose layout is stated, each with its offset. Bytes of no part are zero. -/
def Core.imageParts (c : Core) (s : State) (l : CoreId) (n : Nat) : List (Nat × List Byte) :=
  let conf := ofBool c.theTask.conf
  [ (0x0, leBytes 4 1 ++ leBytes 4 c.slots ++ leBytes 4 c.ember.rows.length ++ leBytes 4 (ofBool c.csr.h + 2 * conf) ++ leBytes 8 c.imageBytes),
    (0x40, dwords ((List.range 32).map c.getS)),
    (0x140, dwords ((List.range 16).map fun i => (vget c.q i {}).val)),
    (0x1C0, (List.range 16).flatMap fun i => leBytes 1 (((c.parked.find? (·.1 == i)).map (·.2.1)).getD 0)),
    (0x200, dwords (savedCsrs.map (csrRead s l c))),
    (0x300, c.land.flatMap Landing.image),
    (0x400, c.loop.bufImage),
    (0x600, dwords c.shadow.queue.toList ++ (c.shadow.lat.toList.flatMap (leBytes 1)) ++ c.shadow.loop.image),
    (0x700, c.shadow.loop.bufImage),
    (0xA00, dwords ((List.range 8).map fun i => let k := c.getK i; BitVec.ofNat 64 (k.count.toNat + 2 ^ 17 * k.wid.toNat))),
    (0xA40, dwords (c.v.toList.map fun v => BitVec.ofNat 64 (v.slots + 2 ^ 32 * v.len + 2 ^ 48 * v.fmt))),
    (0x1000, c.td.toList.flatMap fun x => leBytes 32 x.toNat),
    (0x1800, dwords c.b.toList),
    (0x1880, c.tags.toList.flatMap fun t => leBytes 4 t.ph.toNat ++ leBytes 1 (ofBool t.live) ++ leBytes 1 (ofBool t.arr) ++ [0, 0]) ] ++
  ((List.range 8).map fun i => (0x2000 + 576 * i, (vget c.feeds i {}).elems.flatMap fun e => leBytes 8 e.2)) ++
  ((List.range 4).flatMap fun j =>
    let t := vget c.tiles j {}
    t.elems.map fun e => (0xA000 + 262144 * j + tileWidth t.tf * e.1, leBytes (tileWidth t.tf) e.2)) ++
  (c.wbuf.zipIdx.map fun x => (0x10A000 + 80 * x.2, x.1.image n)) ++
  [(0x11E000, (c.v.toList.flatMap fun v => slotWords v.fmt v.runs).flatMap (leBytes 8))] ++
  (c.ember.rows.zipIdx.flatMap fun (x : Row × Nat) =>
    let at_ := rowsAt c.slots + 4160 * x.2
    (at_, leBytes 4 x.1.g ++ leBytes 1 x.1.cls ++ leBytes 1 x.1.st.code) ::
      if x.1.st = .valid then
        (c.ember.mem.cells.filter fun y => 4096 * x.1.g ≤ y.1 && y.1 < 4096 * x.1.g + 4096).map fun y => (at_ + 64 + (y.1 - 4096 * x.1.g), [y.2])
      else [])

/-- The parts whose layout is not stated: engine state, the stream state of each feed, the engine queues. -/
def openParts : List (Nat × Nat) := (0xC00, 1024) :: (0x4000, 24576) :: (List.range 8).map fun i => (0x2000 + 576 * i + 512, 64)

def isOpenByte (off : Nat) : Bool := openParts.any fun p => p.1 ≤ off && off < p.1 + p.2

/-- Bytes up to the last that is not zero. -/
def trimZeros : List Byte → List Byte
  | [] => []
  | b :: t => match trimZeros t with
    | [] => if b = 0 then [] else [b]
    | r => b :: r

/-- The stated parts as a memory of their own, by offset. -/
def Core.image (c : Core) (s : State) (l : CoreId) (n : Nat) : Mem := (c.imageParts s l n).foldl (fun m p => m.write p.1 (trimZeros p.2)) {}

/-- The image with the free bytes numbered `n`. -/
def Core.fullImage (c : Core) (s : State) (l : CoreId) (n : Nat) : Mem :=
  openParts.foldl (fun m p => m.write p.1 ((List.range p.2).map fun i => Config.contextByte n (p.1 + i))) (c.image s l n)

/-! ### The save area -/

/-- The pieces of `[va, va + n)` in pages of 64 KiB: offset and length. -/
def pageSpans (va n : Nat) : List (Nat × Nat) :=
  (List.range (ceilDiv (va % 65536 + n) 65536)).map fun i =>
    let lo := max va ((va / 65536 + i) * 65536)
    let hi := min (va + n) ((va / 65536 + i + 1) * 65536)
    (lo - va, hi - lo)

/-- The HBM address of a byte of a task's areas (R324); none where its page does not translate to HBM. -/
def State.areaAddr (s : State) (t : Task) (va : Nat) : Option Nat :=
  (if t.inHeap va then some ((va + t.heapo) % 2 ^ 48) else (walk s.mem t va 0).map (·.1)).filter fun p => decide (p < 2 ^ 40)

/-- The cells of `[a, a + n)`, by offset from `a`. -/
def Mem.window (m : Mem) (a n : Nat) : List Host.Cell := (m.cells.filter fun c => a ≤ c.1 && c.1 < a + n).map fun c => (c.1 - a, c.2)

/-- `[off, off + n)` of an image written to `p`: in clear, or under the key of a confidential card in units of 64 bytes (R410). -/
def Mem.putImage (m : Mem) (p n : Nat) (img : Mem) (off : Nat) (key : Option Nat) : Mem :=
  let part : Mem := { cells := img.window off n }
  match key with
  | none => part.cells.foldl (fun m c => m.write (p + c.1) [c.2]) (m.erase p n)
  | some k =>
    (List.range (n / 64)).foldl (fun m i =>
      let x := Config.xtsEncrypt k (p / 64 + i) (part.read (64 * i) 64)
      m.write (p + 64 * i) ((List.range 64).map fun j => x.getD j 0)) (m.erase p n)

/-- The pieces of the first `n` bytes of a task's save area: address, offset and length. -/
def State.areaPieces (s : State) (t : Task) (n : Nat) : List (Nat × Nat × Nat) :=
  (pageSpans t.save n).filterMap fun x => (s.areaAddr t (t.save + x.1)).map fun p => (p, x)

/-- An image of `n` bytes written to the save area of a task. -/
def State.putImage (s : State) (t : Task) (img : Mem) (n : Nat) (key : Option Nat) : State :=
  { s with mem := (s.areaPieces t n).foldl (fun m x => m.putImage x.1 x.2.2 img x.2.1 key) s.mem }

/-- What the save area of a task holds, by offset. -/
def State.getImage (s : State) (t : Task) (n : Nat) : Mem :=
  { cells := (s.areaPieces t n).flatMap fun x => (s.mem.window x.1 x.2.2).map fun c => (x.2.1 + c.1, c.2) }

/-- Whether a saved context's image still stands in its save area, the bytes of open layout left out; a confidential one's ciphertext, whose
digest is that of its plaintext (R410), with them. -/
def State.imageStands (s : State) (x : Saved) (key : Option Nat) : Bool :=
  let c := x.core
  let t := c.theTask
  match key with
  | none => ((s.getImage t c.imageBytes).cells.filter fun y => !isOpenByte y.1) == (c.image s x.at_ x.free).cells
  | some k => (s.putImage t (c.fullImage s x.at_ x.free) c.imageBytes (some k)).mem.cells == s.mem.cells

/-! ### A context read from the area -/

/-- `k` doublewords of an image. -/
def Mem.word (m : Mem) (off i : Nat) : Word := BitVec.ofNat 64 (m.readNat (off + 8 * i) 8)

/-- Loop state and LDEP of an image. -/
def Loop.fromImage (lp : Loop) (m : Mem) (off lc lbs lbe : Nat) (ldep : Nat) (buf : Nat) : Loop :=
  { lp with
    ldep := BitVec.ofNat 2 ldep
    lc := Vector.ofFn fun j => m.word off (lc + j.val)
    lbs := Vector.ofFn fun j => m.word off (lbs + j.val)
    lbe := Vector.ofFn fun j => m.word off (lbe + j.val)
    buf := lp.buf.zipIdx.map fun x => BitVec.ofNat 16 (m.readNat (buf + 2 * x.2) 2) }

/-- The landing list of an image; what the image does not hold of an entry is as it was saved. -/
def landFromImage (old : List Landing) (m : Mem) : List Landing :=
  (List.range 8).filterMap fun i =>
    let at_ := 0x300 + 32 * i
    let mask := m.readNat (at_ + 16) 1
    let lo := ((List.range 8).find? fun j => bitsAt mask j 1 == 1).getD 0
    let n := ((List.range 8).filter fun j => bitsAt mask j 1 == 1).length
    if m.readNat (at_ + 18) 1 = 0 then none
    else some { old.getD i { off := 0, data := [], r := 0, resume := false } with
      off := m.readNat at_ 8 % 2 ^ 28 + lo, data := m.read (at_ + 8 + lo) n, r := m.readNat (at_ + 17) 1, resume := m.readNat (at_ + 19) 1 != 0 }

/-- The vector registers of an image (R136, R139, R140); the marks of R416 are as they were saved. -/
def vregsFromImage (old : Vector VReg 32) (m : Mem) : Vector VReg 32 :=
  Vector.ofFn fun i =>
    let d (j : Nat) : Nat := m.readNat (0xA40 + 8 * j) 8
    let at_ := 0x11E000 + 8 * ((List.range i.val).map fun j => bitsAt (d j) 0 14).sum
    let fmt := bitsAt (d i.val) 48 4
    { vget old i.val {} with fmt, runs := imageRuns fmt ((List.range (bitsAt (d i.val) 0 14)).map fun k => m.readNat (at_ + 8 * k) 8) }

/-- A tile of an image: its elements that are not zero. -/
def Tile.fromImage (t : Tile) (m : Mem) (j : Nat) : Tile :=
  let w := tileWidth t.tf
  let at_ := 0xA000 + 262144 * j
  let idx := dedup ((m.window at_ 262144).map fun c => c.1 / w)
  { t with elems := idx.map fun i => (i, m.readNat (at_ + w * i) w) }

/-- The rows of an image with the Ember array that holds their data. -/
def emberFromImage (m : Mem) (slots nrow : Nat) (old : Slice) : Slice :=
  let at_ (i : Nat) : Nat := rowsAt slots + 4160 * i
  let g (i : Nat) : Nat := m.readNat (at_ i) 4 % 65536
  let st (i : Nat) : RowState := match m.readNat (at_ i + 5) 1 with | 2 => .valid | 3 => .invalid | _ => .empty
  let rows := (List.range nrow).foldl (fun rs i => rowPut rs { (old.row (g i)).getD { g := g i } with g := g i, st := st i, cls := m.readNat (at_ i + 4) 1 % 8 }) []
  let cells := sortBy (·.1) ((List.range nrow).flatMap fun i =>
    if st i = .valid then (m.window (at_ i + 64) 4096).map fun c => (4096 * g i + c.1, c.2) else [])
  { old with rows, mem := cells.foldl (fun y c => y.write c.1 [c.2]) {} }

/-- A context as an image that has been changed gives it: every part of stated layout; the rest as it was saved (log 20). -/
def Core.fromImage (c : Core) (m : Mem) : Core :=
  let w (i : Nat) : Word := m.word 0x200 i
  let st := w 0
  let q (i : Nat) : Word := m.word 0x140 i
  let sh := c.shadow
  { c with
    s := Vector.ofFn fun i => if i.val = 0 then 0 else m.word 0x40 i.val
    q := Vector.ofFn fun i => { vget c.q i.val {} with val := q i.val }
    parked := c.parked.map fun p => (p.1, m.readNat (0x1C0 + p.1) 1, { p.2.2 with val := q p.1 })
    csr := { c.csr with
      h := fld st 0 1 == 1, ann := BitVec.ofNat 2 (fld st 1 2), tgt := BitVec.ofNat 3 (fld st 3 3), xovf := fld st 11 1 == 1
      cause := w 1, tval := w 2, fpc := w 3, npc := w 4, nnpc := w 5, thandler := BitVec.ofNat 64 (fld (w 6) 0 48), tscratch := w 7
      frm := BitVec.ofNat 2 (fld (w 8) 0 2), grp := BitVec.ofNat 1 (fld (w 9) 0 1), vmg := BitVec.ofNat 3 (fld (w 9) 1 3), spill := fld (w 10) 0 1 == 1
      dbgPend := fld (w 11) 0 1 == 1, lchk := fld (w 11) 1 1 == 1, ss := fld (w 11) 2 1 == 1, stbase := w 12
      level := fld (w 13) 0 16, grant := fld (w 13) 16 1 == 1, refcnt := w 23 }
    loop := c.loop.fromImage m 0x200 14 17 20 (fld st 6 2) 0x400
    land := landFromImage c.land m
    shadow := { sh with
      queue := Vector.ofFn fun i => m.word 0x600 i.val
      lat := Vector.ofFn fun i => m.readNat (0x680 + i.val) 1
      loop := sh.loop.fromImage m 0x690 0 3 6 (fld (m.word 0x690 9) 0 2) 0x700 }
    k := Vector.ofFn fun i => { count := BitVec.ofNat 17 (m.readNat (0xA00 + 8 * i.val) 8), wid := BitVec.ofNat 2 (bitsAt (m.readNat (0xA00 + 8 * i.val) 8) 17 2) }
    v := vregsFromImage c.v m
    td := Vector.ofFn fun i => BitVec.ofNat 256 (m.readNat (0x1000 + 32 * i.val) 32)
    b := Vector.ofFn fun i => m.word 0x1800 i.val
    tags := Vector.ofFn fun i =>
      let at_ := 0x1880 + 8 * i.val
      { vget c.tags i.val {} with ph := BitVec.ofNat 32 (m.readNat at_ 4), live := m.readNat (at_ + 4) 1 != 0, arr := m.readNat (at_ + 5) 1 != 0 }
    feeds := Vector.ofFn fun i =>
      let f := vget c.feeds i.val {}
      { f with elems := f.elems.zipIdx.map fun x => (x.1.1, m.readNat (0x2000 + 576 * i.val + 8 * x.2) 8) }
    tiles := Vector.ofFn fun j => (vget c.tiles j.val {}).fromImage m j.val
    wbuf := c.wbuf.zipIdx.map fun x =>
      let at_ := 0x10A000 + 80 * x.2
      let mask := m.readNat (at_ + 8) 8
      { x.1 with
        addr := m.readNat at_ 8
        bytes := (List.range 64).map fun j => if bitsAt mask j 1 = 1 then some (m.get (at_ + 16 + j)) else none }
    ember := emberFromImage m (m.readNat 4 4) (min (m.readNat 8 4) 65536) c.ember }

end Sys2Proof.Machine
end

