-- ==== Sys2Proof/Machine/Preempt.lean ====
section
/-! DEFINITION. Pre-emption, restoration and regrowth (R36 to R38, R201, R202, R340, R341, R384, R390). -/

namespace Sys2Proof.Machine

/-! ### Stopping (R37) -/

/-- The members that a request for a core reaches: the whole gang, or the core alone (R38). -/
def State.stopSet (s : State) (l : CoreId) : List CoreId :=
  match s.hub.card (s.core l).theTask.card with
  | none => [l]
  | some k => if k.gang then k.cores.map (·.2) else [l]

/-- Whether a core holds a task that has started: a slot that is empty, or whose task is leaving, is found empty (R38). -/
def Core.started (c : Core) : Bool :=
  c.task.isSome && match c.run with
  | .idle | .bound | .ending | .stopped => false
  | _ => true

/-- Whether the physical core of a logical one responds: one that does not cannot be pre-empted (R36). -/
def State.responds (s : State) (l : CoreId) : Bool := match s.hub.map[l] with | none => true | some p => !(s.phys p).deaf

/-- A request is answered when every core it reaches responds and the card has a save area (R36, R324). -/
def State.maySave (s : State) (l : CoreId) : Bool :=
  (s.core l).started && (s.stopSet l).all s.responds && match s.hub.card (s.core l).theTask.card with
  | none => false
  | some k => k.save != 0 && !k.stops

/-- A stall that neither trap nor stop may end (R33, R34, R37). -/
def Stall.holds : Stall → Bool
  | .unitBusy | .template | .occupancy | .endWait => true
  | _ => false

/-- Whether Smith stands at an instruction boundary where it may stop or take an asynchronous trap (R34, R37, R191). -/
def Core.atBoundary (c : Core) (now : Nat) : Bool :=
  c.run == .running && c.vbusy.isNone && decide (c.ready ≤ now) && !(c.stall.any Stall.holds)

/-- Whether an engine stands inside a micro-step that has begun to take effect (R37, R268): a pass, MZERO, a row partly written
(log 79). -/
def State.midStep (s : State) (l : CoreId) (e : EngId) : Bool :=
  let x := (s.core l).getE e
  match x.queue with
  | [] => false
  | cmd :: _ => x.active && match cmd.kind with
    | .mma .. => x.sub == 1
    | .mzero .. => x.laid && x.sub == 0
    | .rowsm | .rownm _ | .rowln _ | .rowmx => x.midRow cmd
    | _ => false

/-- At the end of a cycle the engines that were to stop and whose micro-step is over have stopped (R37, R268). -/
def State.settleStops (s : State) (l : CoreId) : State :=
  let done (e : EngId) : Bool := ((s.core l).getE e).halts && !s.midStep l e
  if (s.core l).run != .preempting then s else s.modCore l fun c => { c with
    eng := Vector.ofFn fun e => if done e then { (c.getE e).rewound with stop := true, halts := false } else c.getE e
    fills := if done 2 && !(c.getE 2).frozen then [] else c.fills }

/-- Smith and the engines stop at the boundary before cycle `now` (R37, R202); `mid` are the engines inside a micro-step, which end it first.
Open exposed stores enter the landing list, and the slots pending are noted with their remaining latency; the power region goes back to
Bellows (R384). -/
def Core.stopAt (c : Core) (mid : EngId → Bool) (now : Nat) : Core :=
  let c := c.rewind.parkStores true now
  let c := { c.releaseRegion with stood := if c.csr.grant then some c.csr.level else none }
  let pend := (List.range 16).filterMap fun i => (c.pendingAt i).map fun f => (i, c.leftOf f now, f)
  { c with
    run := .preempting, ready := now, parked := pend.filter fun p => p.2.1 != 0
    eng := Vector.ofFn fun e =>
      let x := c.getE e
      if x.frozen then { x with stop := true } else if mid e then { x with halts := true } else { x.rewound with stop := true }
    fills := if (c.getE 2).frozen then c.fills else if mid 2 then c.fills.filter fun f => some f.prog == (c.getE 2).queue.head?.map (·.prog) else []
    samples := 0 }

/-- Whether a stopped core may be saved: its queue has landed and every other result too (R104, R198), no read of it is out, and its stores to operand SRAM are made. -/
def Core.stoppedStill (c : Core) : Bool :=
  c.run == .preempting && c.landedAll && c.fly.isEmpty && c.reads.isEmpty && c.vbusy.isNone && c.gst.all (fun g => decide (g.addr < 2 ^ 48)) &&
  c.eng.toList.all (·.stop)

/-- Whether every member has stopped, or has been saved already (R38). -/
def State.allStill (s : State) (l : CoreId) : Bool :=
  (s.stopSet l).all fun m => (s.core m).stoppedStill || (s.core m).task.isNone

/-! ### Saving (R201, R390) -/

/-- The context of a stopped core: the write-hold registers have drained, rewrites in progress are dropped, the rows as
restored hold no single-bit error (R204), RQ is 0, and AGE too where the row is valid (log 128), landed slots that were parked pend again, and the
counters that restart are 0. -/
def Core.context (c : Core) : Core :=
  let ember := (List.range 32).foldl Slice.drain c.ember
  let parked := c.parked.map fun p => (p.1, p.2.1, { p.2.2 with val := (vget c.q p.1 {}).val, ld := false, mark := none })
  { c with
    ember := { ember with
      mem := { ember.mem with weak := [] }, queue := [], waits := [], acted := [], was := ([], false), rows := ember.rows.map fun (r : Row) => { r with age := if r.st = .invalid then r.age else 0, rq := false } }
    parked, fly := [], sram := {}, preq := false, pwrReq := none, pwrRet := 0, wait := none
    q := parked.foldl (fun (q : Vector Slot 16) p => vput q p.1 { vget q p.1 {} with pend := some p.2.2.id }) c.q
    eng := c.eng.map fun (x : Eng) => { x with stop := false }
    stood := none
    csr := { c.csr with grant := c.stood.isSome, level := c.stood.getD 0, cycle := 0, ev := Vector.replicate 16 0, evWas := Vector.replicate 16 0 } }

/-- The key of a card's context (R410). -/
def State.keyOf (s : State) (card : Nat) : Option Nat := (s.hub.card card).bind (·.key)

/-- A core that has stopped is saved into its card and freed, its image written to its save area (R37, R201). A gang member keeps its place. -/
def State.saveCore (s : State) (l : CoreId) : State :=
  let c := (s.core l).context
  let t := c.theTask
  let (n, s) := s.fresh
  let s := s.putImage t (c.fullImage s l n) c.imageBytes (s.keyOf t.card)
  let s := s.modCard t.card fun k =>
    { k with saved := k.saved ++ [{ task := t.index, at_ := l, core := c, free := n }], nbound := k.nbound - 1 }
  s.freeCore l

/-! ### Restoring (R201, R202, R341, R384) -/

/-- A restored core: valid row groups are rewritten and start at age 0 (R212), operand SRAM is not restored (R229; log 13), zero when another card
has run on the core, and a region that stood is requested again (R384). -/
def Core.restore (c now : Core) (seed : Option Nat) : Core :=
  let c := { c with sram := { seed }, pwrRet := now.pwrRet, last := now.last }
  if c.csr.grant then
    { c with run := .restoring true, pwrReq := some { level := c.csr.level }, csr := { c.csr with grant := false, level := 0 } }
  else { c with run := .restoring false }

/-- The context that a save area gives back (R201), and whether it is the one saved: a confidential image that has changed is refused (R410). -/
def State.contextOf (s : State) (x : Saved) (key : Option Nat) : Core × Bool :=
  if s.imageStands x key then (x.core, true)
  else if key.isSome then (x.core, false)
  else (x.core.fromImage (s.getImage x.core.theTask x.core.imageBytes), true)

/-- The engines of the cores, and of the contexts saved from them, whose commands may be bound to a feed of core `k` (R274). -/
def State.binders (s : State) (k : CoreId) : List (CoreId × EngId × Eng) :=
  (List.range 4).flatMap fun d =>
    let l := neighbour k d
    (s.core l :: s.hub.cards.flatMap fun x => (x.saved.filter (·.at_ == l)).map (·.core)).flatMap fun c =>
      (List.finRange 6).map fun e => (l, e, c.getE e)

/-- PB of a restored core's feeds, and the streams that wait for them, as its own and its neighbours' queues now give them (R275, R390). -/
def State.rebind (s : State) (k : CoreId) : State :=
  let bs := s.binders k
  s.modCore k fun c => { c with feeds := Vector.ofFn fun n =>
    let f := c.feeds[n]
    let mine (cmd : Cmd) : Bool := cmd.feed == some (k, n.val)
    let heads := (bs.filter fun b => b.2.2.head.isSome && b.2.2.queue.head?.any mine).map fun b => (b.1, b.2.1)
    { f with
      pb := (bs.map fun b => (b.2.2.queue.filter mine).length).sum, soon := []
      order := f.order.filter heads.contains ++ sortBy (fun x => streamKey k x.1 x.2) (heads.filter fun x => !f.order.contains x) } }

/-- The context of a saved task goes back onto a free core, and its restore word rises by 1 (R341). One that is refused ends its task as system with
cause 0x1A (R410). -/
def State.restoreCore (s : State) (l : CoreId) (card task : Nat) : State :=
  match s.hub.card card with
  | none => s
  | some k => match k.saved.find? fun x => x.task == task && x.at_ == l with
    | none => s
    | some x =>
      let x := { x with core := { x.core with task := x.core.task.map s.hub.shown } }
      let (back, ok) := s.contextOf x k.key
      let (n, s) := s.fresh
      let t := x.core.theTask
      let part := k.part t l
      let s := s.modCard card fun k =>
        { k.revive part with saved := k.saved.filter fun y => !(y.task == task && y.at_ == l), nbound := k.nbound + 1 }
      let same := (s.hub.lastCard.find? (·.1 == l)).map (·.2) == some card
      let s := (s.setCore l (back.restore (s.core l) (if same then some n else none))).rebind l
      let s := s.setHub { s.hub with lastCard := (l, card) :: s.hub.lastCard.filter (·.1 != l) }
      let s := s.writeRestores l t
      if ok then s else s.systemStop l 0x1A (BitVec.ofNat 64 (Config.poisonedEntry card n))

/-- Whether a saved task of a card may be restored onto its core: what binds it binds here too (R24, R38, R43). -/
def State.mayRestore (s : State) (k : Card) (l : CoreId) : Bool := s.mayTake k l

/-- CONTEXT_RESTORE: a task goes back to its own logical core (R18); a gang goes back whole or not at all, a request for one member being one for
the gang (R38). -/
def execCONTEXT_RESTORE (c : CoreId) (card task : Nat) (s : State) : Host.Outcome State Fault Refusal :=
  match s.hub.card card with
  | none => .next s
  | some k =>
    if k.gang then
      if (k.saved.any fun x => x.task == task && x.at_ == c) && k.saved.length == k.cores.length && k.saved.all fun x => s.mayRestore k x.at_ then
        .next (k.saved.foldl (fun s x => s.restoreCore x.at_ card x.task) s)
      else .next s
    else .next (if s.mayRestore k c then s.restoreCore c card task else s)

/-! ### Regrowth (R36, R340) -/

/-- A free spare of a die: a physical core in use for no logical one and not retired. -/
def Hub.spare (h : Hub) (d : DieId) : Option (Fin 72) :=
  (List.finRange 72).find? fun p => dieOfPhys p == d && !h.phys[p].retired && !h.map.toList.contains (some p)

/-- The physical core of a logical one is retired and a spare of the same die takes its place, whose operand SRAM holds nothing of a card (R229). -/
def State.remap (s : State) (l : CoreId) : State :=
  match s.hub.map[l], s.hub.spare (dieOf l) with
  | some p, some q =>
    let s := (s.setPhys p { s.phys p with retired := true }).modCore l fun c => { c with sram := if c.task.isNone then {} else c.sram }
    s.setHub { s.hub with lastCard := s.hub.lastCard.filter (·.1 != l), map := s.hub.map.set l (some q), regrow := s.hub.regrow.filter (· != l) }
  | _, _ => s

/-- Once every member that stopped for a regrowth is saved, the core is mapped to its spare and every saved member is restored. -/
def State.regrown (s : State) (l : CoreId) (card : Nat) : State :=
  match s.hub.card card with
  | none => s
  | some k =>
    let mine := k.saved.filter fun x => k.gang || x.at_ == l
    if mine.isEmpty || !(mine.all fun x => (s.core x.at_).task.isNone) || (k.gang && mine.length != k.cores.length) then s
    else
      let s := (mine.filter fun x => s.hub.regrow.contains x.at_).foldl (fun s x => s.remap x.at_) s
      if mine.all fun x => s.mayRestore k x.at_ then mine.foldl (fun s x => s.restoreCore x.at_ card x.task) s else s

/-- PREEMPT_REQUEST (R37, R38). Salamander's request becomes pending; at the next boundary Smith and the engines stop; once every member has
stopped, the context is saved, and a regrowth that asked for the stop goes on. A service of the hub in progress ends first (log 112). -/
def execPREEMPT_REQUEST (c : CoreId) (s : State) : Host.Outcome State Fault Refusal :=
  let x := s.core c
  if x.run == .preempting then
    if !s.allStill c then .next s
    else
      let card := x.theTask.card
      let members := s.stopSet c
      let s := s.saveCore c
      .next (if members.any s.hub.regrow.contains then s.regrown c card else s)
  else if x.preq then
    if x.atBoundary s.now && s.clock.phase == .issue then .next (s.setCore c (x.stopAt (s.midStep c) s.now)) else .next s
  else if s.maySave c then
    .next ((s.stopSet c).foldl (fun s m => s.modCore m fun y => if y.started then { y with preq := true } else y) s)
  else .next s

/-- Whether Salamander applies regrowth to a core of itself: its physical core is reported as failing (R418), a spare is free, and its task, if it has
one, can be pre-empted (R340). -/
def State.regrows (s : State) (l : CoreId) : Bool :=
  match s.hub.map[l] with
  | none => false
  | some p => (s.phys p).failing && !(s.phys p).retired && (s.hub.spare (dieOf l)).isSome && s.responds l && !s.hub.regrow.contains l &&
    ((s.core l).task.isNone || s.maySave l)

/-- REGROWTH (R36, R340): a core without a task moves to its spare at once; a task with a save area is stopped first. Without a free spare,
or with SAVE = 0, the task stays. -/
def execREGROWTH (c : CoreId) (s : State) : Host.Outcome State Fault Refusal :=
  if s.hub.map[c].isNone || (s.hub.spare (dieOf c)).isNone || !s.responds c then .next s
  else if (s.core c).task.isNone then .next (s.remap c)
  else if s.maySave c then execPREEMPT_REQUEST c (s.setHub { s.hub with regrow := c :: s.hub.regrow.filter (· != c) })
  else .next s

end Sys2Proof.Machine
end

