-- ==== Sys2Proof/Machine/Deadlock.lean ====
section
/-! DEFINITION. The deadlock detector (R44, R339) and the handler's wait on frozen commands (R192). -/

namespace Sys2Proof.Machine

/-- An edge of the wait-for relation: from a node to a node, what it is about, and a number that its "while" condition holds still. Nodes 0
to 63 are the tasks of the logical cores; a card is 64 + its number. -/
abbrev Edge := Nat × Nat × Nat × Nat

def cardNode (n : Nat) : Nat := 64 + n

/-- What an edge is about: the kind of its row in R339, a tag, feed or counter, and the card of the waiting node. -/
def about (kind obj card : Nat) : Nat := kind + 8 * (obj + 4096 * card)

/-- The other members of a gang that hold the wait of `l` in BAR or BARW on a tag. -/
def State.barrierEdges (s : State) (l : CoreId) (k : Card) (tag : Nat) : List Edge :=
  let unit := k.unitOf tag (s.core l).theTask.index
  let ph (m : CoreId) : BitVec 32 := (vget (s.core m).tags tag {}).ph
  let arrivals := ((k.members tag unit).map fun m => (ph m.2).toNat).sum
  ((s.liveMembers k tag unit).filter fun m => !reached (ph m.2) (ph l)).map fun m =>
    (l.val, m.2.val, about 0 tag k.id, arrivals)

/-- The other tasks that own a command bound to a feed of `l`. -/
def State.feedEdges (s : State) (l : CoreId) (card f : Nat) : List Edge :=
  let owns (m : CoreId) : Bool := (s.core m).eng.toList.any fun x => x.queue.any fun c => c.feed == some (l, f)
  ((List.finRange 64).filter fun m => m != l && owns m).map fun m =>
    (l.val, m.val, about 1 f card, (vget (s.core l).feeds f {}).count)

/-- The spawned cards of a card that hold an entry and wait on a counter. -/
def Hub.spawnEdges (h : Hub) (l : CoreId) (card : Nat) : List Edge :=
  (h.cards.filter fun x => (x.parent.map (·.1)) == some card && x.st == .counting && (h.pool.contains x.id || h.spill.contains x.id)).map
    fun x => (l.val, cardNode x.id, about 2 0 card, h.freed)

/-- The bound tasks of the card that armed a card waiting on a counter. -/
def State.counterEdges (s : State) (x : Card) : List Edge :=
  match x.parent with
  | some (p, _) =>
    if x.st == .counting then
      ((List.finRange 64).filter fun m => ((s.core m).task.map (·.card)) == some p).map fun m =>
        (cardNode x.id, m.val, about 3 x.dep x.id, ((s.hub.dep x.dep).v + 2147483648).toNat)
    else []
  | none => []

/-- The members of a gang not at END, for one that is. -/
def State.endEdges (s : State) (l : CoreId) (k : Card) : List Edge :=
  let at_ (m : CoreId) : Bool := (s.core m).stall == some .gangEnd
  let n := (k.cores.filter fun m => at_ m.2).length
  (k.cores.filter fun m => !at_ m.2).map fun m => (l.val, m.2.val, about 4 0 k.id, n)

/-- The edges from one task (R339). -/
def State.taskEdges (s : State) (l : CoreId) : List Edge :=
  let c := s.core l
  match c.task.bind fun t => s.hub.card t.card with
  | none => []
  | some k => match c.stall with
    | some (.barrier tag false) | some (.arrived tag) => s.barrierEdges l k tag
    | some (.feed f) => s.feedEdges l k.id f
    | some .spawn => s.hub.spawnEdges l k.id
    | some .gangEnd => s.endEdges l k
    | _ => []

/-- The cycle in which the task of a node started, 0 for a card: another task on the same core ends every wait of the one before. -/
def State.nodeAge (s : State) (n : Nat) : Nat := if h : n < 64 then (s.core ⟨n, h⟩).born else 0

/-- The wait-for relation of the package; the progress number of an edge tells its tasks from others that ran on their cores. -/
def State.edges (s : State) : List Edge :=
  ((List.finRange 64).flatMap s.taskEdges ++ s.hub.cards.flatMap s.counterEdges).map fun e =>
    (e.1, e.2.1, e.2.2.1, e.2.2.2 + 2 ^ 64 * (s.nodeAge e.1 + 2 ^ 64 * s.nodeAge e.2.1))

/-- The nodes that a set reaches in at most `fuel` steps. -/
def reachFrom (es : List Edge) : (fuel : Nat) → List Nat → List Nat
  | 0, seen => seen
  | fuel + 1, seen =>
    let new := (es.filter fun e => seen.contains e.1 && !seen.contains e.2.1).map (·.2.1)
    if new.isEmpty then seen else reachFrom es fuel (dedup (seen ++ new))

/-- Whether a node lies on a cycle. -/
def onCycle (es : List Edge) (n : Nat) : Bool :=
  (reachFrom es es.length ((es.filter fun e => e.1 == n).map (·.2.1))).contains n

/-! ### Waits of the handler that cannot end (R192) -/

/-- What stands at pc, where it is an instruction. -/
def State.instrAt (s : State) (l : CoreId) : Option Instr :=
  match fateAt s.mem (s.core l) with
  | .instr i => some i
  | _ => none

/-- Engines of the CP and TL counters (R270). -/
def cpEngines : List EngId := [0, 1, 5]
def tlEngines : List EngId := [2, 3, 4]

/-- Whether a counter meets its bound, or every command it counts is frozen or queued behind a frozen one. -/
def Core.stuckCount (c : Core) (es : List EngId) (bound n : Nat) : Bool :=
  meets bound n || es.all fun e => (c.getE e).queue.isEmpty || (c.getE e).frozen

/-- Whether a WAIT waits on such commands alone: no counter of loads or stores is short, and none that is short counts another command. -/
def Core.stuckWait (c : Core) (ld st cp tl : Nat) : Bool :=
  (match c.unmet ld st cp tl with | some k => decide (2 ≤ k) | none => false) &&
  c.stuckCount cpEngines cp c.cp && c.stuckCount tlEngines tl c.tl

/-- Whether every command of a class in `mask` that a FENCE waits for is frozen or queued behind a frozen one, and there is one. -/
def Core.stuckFence (c : Core) (now : Nat) (mask : Nat → Bool) : Bool :=
  let waits (x : Eng) : Bool := x.queue.zipIdx.any fun y => mask y.1.cls && !y.1.silent && !x.lastDone now y.2
  c.eng.toList.any waits && c.eng.toList.all fun x => !waits x || x.frozen

/-- Whether a stalled WAIT, SEQW or FENCE of the handler waits only on such commands. -/
def State.frozenWait (s : State) (l : CoreId) : Bool :=
  let c := s.core l
  let reg (a : BitVec 6) : Word := match c.source a.toNat with | .ok (x, _) => x | .error _ => 0
  c.csr.h && c.run == .running && c.stall.isSome && match s.instrAt l with
  | some (.WAIT ld st cp tl) => c.stuckWait ld.toNat st.toNat cp.toNat tl.toNat
  | some (.C_WAIT cp tl) => c.stuckWait 63 63 (if cp.toNat = 31 then 63 else cp.toNat) tl.toNat
  | some (.SEQW a _) => match c.eng.toList[fld (reg a) 0 3]? with
    | none => false
    | some x => x.frozen
  | some (.FENCE a) => c.stuckFence s.now (fenceMask (reg a))
  | _ => false

/-- A handler's wait on frozen commands has stood through another sample: at the second the task is stopped as system. -/
def State.sampleWait (s : State) (l : CoreId) : State :=
  let c := s.core l
  if !s.frozenWait l then s.setCore l { c with samples := 0 }
  else if c.samples = 0 then s.setCore l { c with samples := 1 }
  else (s.setCore l c.rewind).systemStop l 0x18 0

/-! ### The sample -/

/-- DEADLOCK_SAMPLE (R44): the tasks on a cycle of edges that stood in the last sample too take cause 0x18. -/
def execDEADLOCK_SAMPLE (s : State) : Host.Outcome State Fault Refusal :=
  if s.clock.stamp.toNat % 4096 != 0 then .next s
  else
    let es := s.edges
    let both := es.filter s.hub.sample.contains
    let caught := (List.finRange 64).filter fun l => onCycle both l.val
    let s := caught.foldl (fun s l => s.modCore l fun c => { c with pend18 := true }) s
    let s := s.setHub { s.hub with sample := es }
    .next ((List.finRange 64).foldl State.sampleWait s)

end Sys2Proof.Machine
end

