-- ==== Sys2Proof/Machine/HostPort.lean ====
section
/-! DEFINITION. What hosts do through PCIe: ring registers (R405, R415), templates and BAR 2 (R404, R241, R242), attestation (R409), `startclr`
(R413), and the BAR 0 image that a host reads. -/

namespace Sys2Proof.Machine

/-- Whether a function takes a request: it is enabled and IDE is established on it (R404, R411). -/
def Func.takes (x : Func) : Bool := x.enabled && x.ide

/-- Change a function that takes the request. -/
def State.onFunc (s : State) (f : FnId) (g : Func → Func) : State :=
  let x := s.func f
  if x.takes then s.setFunc f (g x) else s

/-! ### Ring registers (R405, R415) -/

/-- LOG2N as it is stored: 4 to 12, held at 4 in minimal mode. -/
def logOf (minimal : Bool) (v : Word) : Nat :=
  let n := fld v 0 4
  if minimal || n < 4 || 12 < n then 4 else n

/-- BASE as it is stored, and whether it was refused: in minimal mode a ring of `bytes` bytes must end inside the 16 KiB. -/
def baseOf (minimal : Bool) (bytes : Nat) (v : Word) : BitVec 40 × Bool :=
  let b := fld v 12 28 * 4096
  if minimal && decide (16384 < b + bytes) then (0, true) else (BitVec.ofNat 40 b, false)

/-- SQ_CTL_WRITE: LOG2N is ignored while EN = 1. -/
def execSQ_CTL_WRITE (f : FnId) (v : Word) (s : State) : Host.Outcome State Fault Refusal :=
  .next (s.onFunc f fun x => { x with sqen := fld v 4 1 == 1, sqlog := if x.sqen then x.sqlog else logOf s.boot.minimal v })

/-- CQ_CTL_WRITE: an ignored LOG2N sets CQ. -/
def execCQ_CTL_WRITE (f : FnId) (v : Word) (s : State) : Host.Outcome State Fault Refusal :=
  .next (s.onFunc f fun x =>
    let n := logOf s.boot.minimal v
    { x with cqen := fld v 4 1 == 1, cqien := fld v 5 1 == 1, cqlog := if x.cqen then x.cqlog else n, errCq := x.errCq || (x.cqen && n != x.cqlog) })

/-- SQ_DOORBELL: TAIL advances over free entries only; another doorbell is ignored and sets SQ. -/
def execSQ_DOORBELL (f : FnId) (v : Word) (s : State) : Host.Outcome State Fault Refusal :=
  .next (s.onFunc f fun x =>
    let n := ringSize x.sqlog
    let t := fld v 0 12
    let used := (x.sqtail.toNat + n - x.sqhead.toNat % n) % n
    let step := (t + n - x.sqtail.toNat % n) % n
    if n ≤ t || n ≤ used + step then { x with errSq := true } else { x with sqtail := BitVec.ofNat 12 t })

/-- CQ_HEAD_WRITE: a head outside the ring is ignored and sets CQ. -/
def execCQ_HEAD_WRITE (f : FnId) (v : Word) (s : State) : Host.Outcome State Fault Refusal :=
  .next (s.onFunc f fun x =>
    if ringSize x.cqlog ≤ fld v 0 12 then { x with errCq := true } else { x with cqhead := BitVec.ofNat 12 (fld v 0 12) })

/-- A submission ring takes 8 KiB and a completion ring 512 bytes in minimal mode (R415). -/
def writeBase (cq minimal : Bool) (v : Word) (x : Func) : Func :=
  if cq then
    if x.cqen then { x with errCq := true }
    else match baseOf minimal 512 v with | (b, bad) => { x with cqbase := b, errCq := x.errCq || bad }
  else if x.sqen then x
  else match baseOf minimal 8192 v with | (b, bad) => { x with sqbase := b, errSq := x.errSq || bad }

/-- REGISTER_WRITE (R405, R409, R414, R417): BASE is ignored while EN = 1, `ringerr` is W1C, read-only registers ignore writes; hub ring
memory takes them in minimal mode only (R404, R415). -/
def execREGISTER_WRITE (f : FnId) (r : HostReg) (v : Word) (s : State) : Host.Outcome State Fault Refusal :=
  .next (s.onFunc f fun x => match r with
    | .sqbase => writeBase false s.boot.minimal v x
    | .cqbase => writeBase true s.boot.minimal v x
    | .ringerr => { x with errSq := x.errSq && fld v 0 1 == 0, errCq := x.errCq && fld v 1 1 == 0 }
    | .attnonce i => { x with nonce := x.nonce.set i v }
    | .ring i => if s.boot.minimal then x.putRing (8 * i.val) (leBytes 8 v.toNat) else x
    | .sqhead | .cqtail | .bootwhy | .elogtail => x)

/-- STARTCLR_WRITE (R413, R414). -/
def execSTARTCLR_WRITE (f : FnId) (v : Word) (s : State) : Host.Outcome State Fault Refusal :=
  .next (if (s.func f).takes && fld v 0 8 == 0xA5 then { s with boot := { s.boot with counter := 0 } } else s)

/-- IDE_ESTABLISH (R411). -/
def execIDE_ESTABLISH (f : FnId) (s : State) : Host.Outcome State Fault Refusal :=
  let x := s.func f
  .next (if x.enabled then s.setFunc f { x with ide := true } else s)

/-! ### Templates (R404) -/

/-- Whether a function may write a template, or read it. -/
def mayTouch (v : Vector Word 72) (f : FnId) : Bool := fld (vget v 65 0) 34 1 == 0 || fld (vget v 65 0) 32 2 == f.val

/-- What a doubleword of a template stores (R360): OWNER's bits from 36 on and the reserved bytes after it are zero (R6). -/
def templateWord (dword : Nat) (v : Word) : Word :=
  if dword < 65 then v else if dword = 65 then BitVec.ofNat 64 (fld v 0 36) else 0

/-- HOST_TEMPLATE_WRITE: a write that the owner rule refuses is discarded and logged; in minimal mode every one is discarded (R415). -/
def execHOST_TEMPLATE_WRITE (f : FnId) (n : Fin 1024) (dword : Fin 72) (v : Word) (s : State) : Host.Outcome State Fault Refusal :=
  let t := s.hub.template n.val
  .next (if !(s.func f).takes || s.boot.minimal then s
    else if mayTouch t f then s.setHub (s.hub.setTemplate n.val (vput t dword.val (templateWord dword.val v)))
    else s.logEntry 6 255 8 none 0)

/-! ### BAR 2 (R241, R242, R404) -/

/-- The card whose resident key holds the page of a physical address (R242). Its save area is no such page: what stands there is ciphertext
already (R410), and a host's write lands, to be found by the digest when the context is restored. -/
def State.keyHolder (s : State) (p : Nat) : Option Card :=
  s.hub.cards.find? fun k => k.conf && k.key.isSome && (s.hub.sealed k s.mem).contains (p / 65536 * 65536)

/-- Whether the external debug port and the scan access of every die refuse a request: while a confidential context is resident (R410). No row of the
opcode table makes such a request. -/
def Hub.portsRefuse (h : Hub) : Bool := !h.keys.isEmpty

/-- The byte that a host finds at a physical address: ciphertext where a resident key holds it. -/
def State.hostByte (s : State) (p : Nat) : Byte :=
  match s.keyHolder p with
  | some k => (s.mem.cipher (k.key.getD 0) (p / 64)).getD (p % 64) 0
  | none => s.mem.get p

/-- HOST_HBM_READ: 8 bytes. A corrected word is logged (R416); what a poisoned one reads as is a free value. -/
def execHOST_HBM_READ (f : FnId) (addr : Nat) (s : State) : Host.Outcome State Fault Refusal :=
  if 2 ^ 40 < addr + 8 then .fault .beyondBar2
  else if !(s.func f).takes then .next s
  else if s.boot.minimal then .next (s.setFunc f { s.func f with answer := 0 })
  else
    let v := leNat ((List.range 8).map fun i => s.hostByte (addr + i))
    let s := (List.range (s.mem.weakIn addr 8)).foldl (fun s _ => s.logEntry 1 255 2 none addr) s
    if (s.mem.poisonIn addr 8).isNone then .next (s.setFunc f { s.func f with answer := BitVec.ofNat 64 v })
    else
      let s := s.logEntry 2 255 2 none addr
      let (k, s) := s.fresh
      .next (s.setFunc f { s.func f with answer := BitVec.ofNat 64 (Config.wild k) })

/-- HOST_HBM_WRITE: 8 bytes; a page table changes for walks at the next invalidation (R236); a write to what a resident key holds is discarded and logged, and minimal mode discards every write. -/
def execHOST_HBM_WRITE (f : FnId) (addr : Nat) (v : Word) (s : State) : Host.Outcome State Fault Refusal :=
  if 2 ^ 40 < addr + 8 then .fault .beyondBar2
  else if !(s.func f).takes || s.boot.minimal then .next s
  else match (s.keyHolder addr).orElse fun _ => s.keyHolder (addr + 7) with
    | some k => .next (s.logEntry 6 255 2 (some { k.space with conf := false }) addr)
    | none => .next { s with mem := s.mem.write addr (leBytes 8 v.toNat) }

/-! ### Attestation (R409) -/

/-- `bootwhy` (R414). -/
def Boot.why (b : Boot) : Word :=
  BitVec.ofNat 64 (b.reason.toNat * 2 ^ 24 + b.failSt.toNat * 2 ^ 20 + b.counter.toNat * 2 ^ 16 + ofBool b.minimal)

/-- ATTESTATION_GO: a GO while a report is being built is ignored. -/
def execATTESTATION_GO (f : FnId) (v : Word) (s : State) : Host.Outcome State Fault Refusal :=
  let x := s.func f
  .next (if x.takes && fld v 0 1 == 1 && s.boot.signing.isNone then
      { s with boot := { s.boot with done := false, signing := some (x.nonce.toList.flatMap fun w => leBytes 8 w.toNat) } }
    else s)

/-- Active logical cores (R366). -/
def Hub.activeCores (h : Hub) : Nat := ((List.finRange 64).filter h.usable).length

/-- What a report says before its signature, 384 bytes. -/
def State.reportBody (s : State) (nonce : List Byte) : List Byte :=
  leBytes 4 1 ++ leBytes 4 Config.siliconRevision.toNat ++ leBytes 8 Config.deviceSerial.toNat ++ nonce ++
  (s.boot.meas.toList.flatMap fun m => leBytes 32 m.toNat) ++ leBytes 2 s.hub.activeCores ++ leBytes 2 s.hub.keys.length ++
  leBytes 4 s.boot.why.toNat ++ leBytes 8 s.clock.tick.toNat ++ List.replicate 64 0

/-- ATTESTATION_DONE: the report stands and DONE is set. -/
def execATTESTATION_DONE (s : State) : Host.Outcome State Fault Refusal :=
  match s.boot.signing with
  | none => .next s
  | some nonce =>
    let body := s.reportBody nonce
    .next { s with boot := { s.boot with signing := none, done := true, report := body ++ Config.deviceSign body } }

/-! ### What BAR 0 reads as -/

/-- A 32-byte entry of the error log (R417). -/
def LogEntry.image (e : LogEntry) : List Byte :=
  leBytes 8 e.tick ++ leBytes 1 e.kind ++ leBytes 1 e.phys ++ leBytes 2 e.unit ++ leBytes 4 e.tag.toNat ++ leBytes 8 e.addr ++ leBytes 8 0

/-- The bytes of the error log: slot `elogtail` − 1 holds the newest entry. -/
def Hub.logByte (h : Hub) (off : Nat) : Byte :=
  let back := (h.logTail.toNat + 511 - off / 32) % 256
  match h.errlog[back]? with
  | none => 0
  | some e => e.image.getD (off % 32) 0

/-! ### The capability list -/

/-- An entry without its header: identifier and body. -/
abbrev Cap := Nat × List Byte

/-- Bytes in whole doublewords. -/
def padded (b : List Byte) : List Byte := b ++ List.replicate ((8 - b.length % 8) % 8) 0

/-- An entry at offset `off`: its header (R365) and its body. -/
def capBytes (off : Nat) (last : Bool) (e : Cap) : List Byte :=
  let body := padded e.2
  let len := 8 + body.length
  leBytes 2 e.1 ++ leBytes 1 1 ++ leBytes 1 (len / 8) ++ leBytes 2 (if last then 0 else off + len) ++ leBytes 2 0 ++ body

/-- The chain from an offset on. -/
def capChain : (off : Nat) → List Cap → List Byte
  | _, [] => []
  | off, e :: t => capBytes off t.isEmpty e ++ capChain (off + (capBytes off t.isEmpty e).length) t

/-- FY-DN80-1T in ASCII, zero-padded to 16 bytes (R366). -/
def partNumber : List Byte := [0x46, 0x59, 0x2D, 0x44, 0x4E, 0x38, 0x30, 0x2D, 0x31, 0x54, 0, 0, 0, 0, 0, 0]

/-- The identity entry, fixed at manufacture (R366). -/
def identityCap : Cap := (0x0001, partNumber ++ leBytes 4 Config.siliconRevision.toNat ++ leBytes 8 Config.deviceSerial.toNat)

/-- The capability list as it reads: before start-up has written it, the identity entry alone (R365). -/
def Hub.capList (h : Hub) : List Byte := if h.caps.isEmpty then capChain 0 [identityCap] else h.caps

/-! ### Reads of BAR 0 -/

/-- The doubleword of R405, R409, R414 and R417 at an offset below 0x1000. -/
def State.bar0Reg (s : State) (x : Func) (off : Nat) : Nat :=
  match off with
  | 0x00 => x.sqbase.toNat
  | 0x08 => x.sqlog + 16 * ofBool x.sqen
  | 0x18 => x.sqhead.toNat
  | 0x20 => x.cqbase.toNat
  | 0x28 => x.cqlog + 16 * ofBool x.cqen + 32 * ofBool x.cqien
  | 0x30 => x.cqhead.toNat
  | 0x38 => x.cqtail.toNat
  | 0x40 => ofBool x.errSq + 2 * ofBool x.errCq
  | 0x48 => s.boot.why.toNat
  | 0x58 => s.hub.logTail.toNat
  | 0x120 => 2 * ofBool s.boot.done
  | _ => 0

/-- The doubleword that a host reads at a BAR 0 offset (R404): without IDE only below 0x2000 (R411). -/
def State.bar0 (s : State) (f : FnId) (off : Nat) : Word :=
  let x := s.func f
  let bytes (g : Nat → Byte) : Nat := leNat ((List.range 8).map fun i => g (off + i))
  BitVec.ofNat 64 <|
    if !x.enabled || (!x.ide && 0x2000 ≤ off) then 0
    else if off < 0x1000 then s.bar0Reg x off
    else if off < 0x2000 then bytes fun a => s.hub.capList.getD (a - 0x1000) 0
    else if off < 0x4000 then bytes fun a => s.hub.logByte (a - 0x2000)
    else if off < 0x4300 then bytes fun a => s.boot.report.getD (a - 0x4000) 0
    else if 0x5000 ≤ off && off < 0x5310 then bytes fun a => Config.certificate.getD (a - 0x5000) 0
    else if 0x80000 ≤ off && off < 0x84000 then (if s.boot.minimal then bytes fun a => x.ring.getD (a - 0x80000) 0 else 0)
    else if 0x100000 ≤ off && off < 0x200000 && !s.boot.minimal then
      let t := s.hub.template ((off - 0x100000) / 1024)
      if mayTouch t f then (vget t (off % 1024 / 8) 0).toNat else 0
    else 0

end Sys2Proof.Machine
end

