-- ==== Sys2Proof/Machine/Boot.lean ====
section
/-! DEFINITION. Start-up (R407, R408, R412 to R415), the capability list (R365, R366) and device reset. -/

namespace Sys2Proof.Machine

/-! ### What the capability list says -/

/-- Free spares of the package: physical cores in use for no logical core and not retired. -/
def Hub.spares (h : Hub) : Nat := ((List.finRange 72).filter fun p => !h.phys[p].retired && !h.map.toList.contains (some p)).length

/-- The retired physical cores as a mask. -/
def Hub.retiredMask (h : Hub) : Nat := ((List.finRange 72).map fun p => if h.phys[p].retired then 2 ^ p.val else 0).sum

/-- A mask of the elements of a vector that satisfy a test. -/
def maskOf {α : Type} {n : Nat} (v : Vector α n) (p : α → Bool) : Nat :=
  (v.toList.zipIdx.map fun x => if p x.1 then 2 ^ x.2 else 0).sum

/-- The entries of R366. -/
def State.capEntries (s : State) : List Cap :=
  [identityCap,
   (0x0002, leBytes 1 Config.lowestStep.val ++ leBytes 1 Config.highestStep.val ++ leBytes 4 Config.boardWatts.toNat),
   (0x0003, leBytes 2 s.hub.activeCores ++ leBytes 2 s.hub.spares ++ leBytes 16 s.hub.retiredMask),
   (0x0004, leBytes 4 256 ++ leBytes 4 128 ++ leBytes 2 16),
   (0x0005, leBytes 2 (maskOf s.ports (·.trained)) ++ leBytes 2 1024),
   (0x0006, leBytes 1 (maskOf s.funcs (·.enabled)) ++ leBytes 1 s.boot.bifurc.toNat),
   (0x0007, leBytes 1 1 ++ leBytes 2 16)] ++
  (if s.boot.minimal then [(0x0008, leBytes 4 s.boot.why.toNat)] else []) ++
  [(0x8000, leBytes 4 0x2000 ++ leBytes 2 256)]

/-! ### The stages (R412) -/

/-- The stage after one that has completed; minimal mode runs stages 1, 6 and 7 only (R413). -/
def Boot.nextStage (b : Boot) : Nat := if b.minimal && b.stage = 1 then 6 else b.stage + 1

/-- A measurement register extended by a digest (R408). -/
def extendMeas (m d : BitVec 256) : BitVec 256 := Config.sha256 (leBytes 32 m.toNat ++ leBytes 32 d.toNat)

/-- The good physical cores of a die. -/
def goodCores (bad : List (Fin 72)) (d : DieId) : List (Fin 72) := (List.finRange 72).filter fun p => dieOfPhys p == d && !bad.contains p

/-- Why the images of a stage are refused, if one is (R407). -/
def Boot.refusal (b : Boot) (r : StageResult) : Option Byte :=
  if r.reason == 0x11 || r.reason == 0x12 then some r.reason else if r.versions.any (· < b.minVer) then some 0x12 else none

/-- The fused minimum after Salamander's reports of accepted images of a higher version (R407). -/
def Boot.raised (b : Boot) (r : StageResult) : Nat := (r.reported.filter r.versions.contains).foldl max b.minVer

/-- Why the work of the stage in progress fails, if it does; microcode that stage 3 loads and refuses fails it with the reason that stage 1 gives
(R407; log 116). -/
def Boot.failure (b : Boot) (r : StageResult) : Option Byte :=
  match b.stage with
  | 1 => b.refusal r
  | 2 => if r.reason == 0x21 || r.reason == 0x22 then some r.reason else none
  | 3 => if r.reason == 0x31 then some r.reason else b.refusal r
  | 4 => if (List.finRange 4).any fun d => (goodCores r.badCores d).length < 8 then some 0x41 else none
  | 6 => if r.enabled == 0 then some 0x61 else none
  | _ => none

/-- The map of a die after self-test: a good core keeps its logical number; the good spares take the others in ascending order. -/
def mapDie (bad : List (Fin 72)) (d : DieId) : List (Option (Fin 72)) :=
  let own (i : Nat) : Fin 72 := Fin.ofNat 72 (18 * d.val + i)
  let spares := ([16, 17].map own).filter fun p => !bad.contains p
  ((List.range 16).foldl (fun (acc : List (Option (Fin 72)) × List (Fin 72)) i =>
    if bad.contains (own i) then (acc.1 ++ [acc.2.head?], acc.2.drop 1) else (acc.1 ++ [some (own i)], acc.2)) ([], spares)).1

/-- Stage 4 retires the failing cores and fills their logical numbers (R340). -/
def Hub.selfTest (h : Hub) (bad : List (Fin 72)) : Hub :=
  let all := (List.finRange 4).flatMap (mapDie bad)
  { h with
    phys := Vector.ofFn fun p => { h.phys[p] with retired := h.phys[p].retired || bad.contains p }
    map := Vector.ofFn fun l => (all[l.val]?).getD none }

/-- What a stage that succeeds leaves. Functions 1 and 3 exist only on a bifurcated port (R404). DEDUCED: stage 7 of a start in minimal mode
keeps the start counter, as the reading of `bootwhy` in R414's example needs (log 33). -/
def State.stageWork (s : State) (r : StageResult) : State :=
  let b := s.boot
  match b.stage with
  | 1 =>
    let m0 := extendMeas (vget b.meas 0 0) (r.digests.getD 0 0)
    let m2 := extendMeas (vget b.meas 2 0) (r.digests.getD 1 0)
    { s with boot := { b with meas := vput (vput b.meas 0 m0) 2 m2, minVer := b.raised r } }
  | 3 => { s with boot := { b with minVer := b.raised r, meas := vput b.meas 1 ((List.range 4).foldl (fun m i => extendMeas m (r.digests.getD i 0)) (vget b.meas 1 0)) } }
  | 4 => s.setHub (s.hub.selfTest r.badCores)
  | 5 => { s with ports := Vector.ofFn fun i => { s.ports[i] with trained := r.trained.getLsbD i.val } }
  | 6 =>
    let on (i : Fin 4) : Bool := r.enabled.getLsbD i.val && (i.val % 2 == 0 || r.bifurc.getLsbD (i.val / 2))
    { s with funcs := Vector.ofFn fun i => { s.funcs[i] with enabled := on i }, boot := { b with bifurc := r.bifurc } }
  | 7 =>
    let s := { s with boot := { b with counter := if b.minimal then b.counter else 0 } }
    s.setHub { s.hub with caps := capChain 0 s.capEntries }
  | _ => s

/-- BOOT_STAGE (R412): the stage in progress succeeds, or the attempt stops. -/
def execBOOT_STAGE (r : StageResult) (s : State) : Host.Outcome State Fault Refusal :=
  let b := s.boot
  if b.failed || 8 ≤ b.stage then .next s
  else match b.failure r with
    | some e => .next (s.bootFail e)
    | none =>
      let s := s.stageWork r
      .next { s with boot := { s.boot with stage := b.nextStage, began := s.tick } }

/-- Whether the stage in progress has passed its 10 s (R412). -/
def State.stageLate (s : State) : Bool := !s.boot.failed && decide (s.boot.stage < 8) && decide (s.boot.began + 1000000000 < s.tick)

/-- BOOT_STAGE_TIMEOUT (R412). -/
def execBOOT_STAGE_TIMEOUT (s : State) : Host.Outcome State Fault Refusal :=
  .next (if s.stageLate then s.bootFail 0x01 else s)

/-- STANDBY_POWER_LOSS (R413). -/
def execSTANDBY_POWER_LOSS (s : State) : Host.Outcome State Fault Refusal := .next { s with boot := { s.boot with counter := 0 } }

/-- What device reset leaves of memory: that of the hosts. -/
def Mem.hostOnly (m : Mem) : Mem :=
  { m with cells := m.cells.filter fun c => decide (2 ^ 46 ≤ c.1), weak := m.weak.filter fun w => decide (2 ^ 46 ≤ 8 * w)
           pois := m.pois.filter fun w => decide (2 ^ 46 ≤ 8 * w) }

/-- The state after device reset (R413): the always-on domain and the fused version stay; an attempt begins. -/
def State.deviceReset (s : State) (t0 t1 t2 t3 : Byte) : State :=
  let b := s.boot
  { State.reset with
    inputs := s.inputs, upsets := s.upsets, mem := s.mem.hostOnly
    clock := { now := s.clock.now, free := s.clock.free }
    dies := #v[Die.reset t0, Die.reset t1, Die.reset t2, Die.reset t3]
    boot := { counter := BitVec.ofNat 4 (min 15 (b.counter.toNat + 1)), reason := b.reason, failSt := b.failSt
              minimal := decide (3 ≤ b.counter.toNat), minVer := b.minVer } }

/-- DEVICE_RESET (R413). -/
def execDEVICE_RESET (t0 t1 t2 t3 : Byte) (s : State) : Host.Outcome State Fault Refusal := .next (s.deviceReset t0 t1 t2 t3)

end Sys2Proof.Machine
end

