-- ==== Sys2Proof/Machine/Branch.lean ====
section
/-! DEFINITION. Block headers (R84, R115), branches (R110, R125), jumps (R126) and their 16-bit forms (R90). -/

namespace Sys2Proof.Machine

/-- The address `A + 2 × off` (R78), as a number; outside 48 bits it cannot be fetched. -/
def relTarget (c : Core) (off : Int) : Nat := (c.fetch.pc.addr + BitVec.ofInt 64 (2 * off)).toNat

/-- A header at pc: its entry was made when it became n3, so it only takes its cycle (R115). -/
def header (s : State) : Host.Outcome State Fault Refusal := smith s 4 .header fun _ c => .ok c

/-- BLK with an immediate count. -/
def execBLK_IMMEDIATE (_l : BitVec 10) (_r : BitVec 12) (s : State) : Host.Outcome State Fault Refusal := header s

/-- BLK with its count in a register. -/
def execBLK_REGISTER (_l : BitVec 10) (_r : BitVec 6) (s : State) : Host.Outcome State Fault Refusal := header s

/-- Annul both delay slots (R110). -/
def Core.annulSlots (c : Core) : Core :=
  { c with fetch := { c.fetch with n1 := { c.fetch.n1 with ann := true }, n2 := { c.fetch.n2 with ann := true } } }

/-- A branch (R110, R125). -/
def branch (size a b nul : Nat) (off : Int) (cond : Word → Word → Bool) (s : State) :
    Host.Outcome State Fault Refusal :=
  smith s size .transfer fun _ c => with2 c a b [] 0 fun c' x y =>
    if cond x y then .jump (if nul = 2 then c'.annulSlots else c') (relTarget c off)
    else .ok (if nul = 1 then c'.annulSlots else c')

/-- BEQ (R125). -/
def execBEQ (a b : BitVec 6) (n : BitVec 2) (o : BitVec 11) (s : State) : Host.Outcome State Fault Refusal :=
  branch 4 a.toNat b.toNat n.toNat o.toInt (fun x y => x == y) s

/-- BNE (R125). -/
def execBNE (a b : BitVec 6) (n : BitVec 2) (o : BitVec 11) (s : State) : Host.Outcome State Fault Refusal :=
  branch 4 a.toNat b.toNat n.toNat o.toInt (fun x y => x != y) s

/-- BLT (R125). -/
def execBLT (a b : BitVec 6) (n : BitVec 2) (o : BitVec 11) (s : State) : Host.Outcome State Fault Refusal :=
  branch 4 a.toNat b.toNat n.toNat o.toInt (fun x y => x.slt y) s

/-- BGE (R125). -/
def execBGE (a b : BitVec 6) (n : BitVec 2) (o : BitVec 11) (s : State) : Host.Outcome State Fault Refusal :=
  branch 4 a.toNat b.toNat n.toNat o.toInt (fun x y => y.sle x) s

/-- BLTU (R125). -/
def execBLTU (a b : BitVec 6) (n : BitVec 2) (o : BitVec 11) (s : State) : Host.Outcome State Fault Refusal :=
  branch 4 a.toNat b.toNat n.toNat o.toInt (fun x y => x.ult y) s

/-- BGEU (R125). -/
def execBGEU (a b : BitVec 6) (n : BitVec 2) (o : BitVec 11) (s : State) : Host.Outcome State Fault Refusal :=
  branch 4 a.toNat b.toNat n.toNat o.toInt (fun x y => y.ule x) s

/-- C.BZ: BEQ a, s0 (R90). -/
def execC_BZ (a : BitVec 5) (o : BitVec 6) (s : State) : Host.Outcome State Fault Refusal :=
  branch 2 a.toNat 0 0 o.toInt (fun x y => x == y) s

/-- C.BNZ: BNE a, s0 (R90). -/
def execC_BNZ (a : BitVec 5) (o : BitVec 6) (s : State) : Host.Outcome State Fault Refusal :=
  branch 2 a.toNat 0 0 o.toInt (fun x y => x != y) s

/-- A jump without a link (R126). -/
def jump (size : Nat) (off : Int) (s : State) : Host.Outcome State Fault Refusal :=
  smith s size .transfer fun _ c => .jump c (relTarget c off)

/-- J (R126). -/
def execJ (o : BitVec 19) (s : State) : Host.Outcome State Fault Refusal := jump 4 o.toInt s

/-- C.J: J (R90). -/
def execC_J (o : BitVec 11) (s : State) : Host.Outcome State Fault Refusal := jump 2 o.toInt s

/-- The link: the address that follows the second slot, without any loop action (R126). -/
def linkOf (s : State) (c : Core) : Word :=
  let a := c.fetch.n2.addr
  a + BitVec.ofNat 64 (sizeAt s.mem c.theTask c.loop a.toNat)

/-- JAL (R126). -/
def execJAL (d : BitVec 6) (o : BitVec 19) (s : State) : Host.Outcome State Fault Refusal :=
  smith s 4 .transfer fun s c => with0 c [] d.toNat fun c' =>
    .jump (c'.push d.toNat (linkOf s c) (s.now + 1)) (relTarget c o.toInt)

/-- JALR: fault 0x09 for a target beyond 48 bits, then 0x07 for an odd one (R126). -/
def execJALR (d a : BitVec 6) (i : BitVec 13) (s : State) : Host.Outcome State Fault Refusal :=
  smith s 4 .transfer fun s c => with1 c a.toNat [] d.toNat fun c' x =>
    let t := x + i.signExtend 64
    if fld t 48 16 != 0 then .halt (.fault 0x09 t)
    else if t.toNat % 2 = 1 then .halt (.fault 0x07 t)
    else .jump (c'.push d.toNat (linkOf s c) (s.now + 1)) t.toNat

end Sys2Proof.Machine
end

