-- ==== Sys2Proof/Machine/Fp.lean ====
section
/-! DEFINITION. Scalar floating point (R132 to R135). `f` is the format code of R45: 0 FP64, 1 FP32, 2 BF16, 3 FP16. -/

namespace Sys2Proof.Machine

/-- The rounding mode in force (R61). -/
def Core.rm (c : Core) : Rm := rmOf c.csr.frm.toNat

/-- The encoding of format `f` in the low bits of a source (R132). -/
def encIn (f : Nat) (x : Word) : Nat := x.toNat % 2 ^ bitsOf f

/-- A two-source floating-point instruction of latency `l` (R132). -/
def fp2 (f l d a b : Nat) (op : Rm → Nat → Nat → Nat) (s : State) : Host.Outcome State Fault Refusal :=
  smith s 4 .plain fun s c => with2 c a b [] d fun c' x y =>
    pushed s c' d (BitVec.ofNat 64 (op c.rm (encIn f x) (encIn f y))) l

/-- A one-source floating-point instruction of latency `l` (R132). -/
def fp1 (f l d a : Nat) (op : Rm → Nat → Nat) (s : State) : Host.Outcome State Fault Refusal :=
  smith s 4 .plain fun s c => with1 c a [] d fun c' x => pushed s c' d (BitVec.ofNat 64 (op c.rm (encIn f x))) l

/-- The unit that FDIV and FSQRT share accepts an instruction once its previous one has landed (R106). -/
def Core.fdivBusy (c : Core) : Bool := c.fly.any (·.busy == 2)

/-- FADD, FSUB, FMUL and FDIV of encodings (R133). -/
def fadd (f : Nat) (rm : Rm) (x y : Nat) : Nat := roundV f ((fltVal f x).add rm (fltVal f y)) rm
def fsub (f : Nat) (rm : Rm) (x y : Nat) : Nat := roundV f ((fltVal f x).add rm (fltVal f y).neg) rm
def fmul (f : Nat) (rm : Rm) (x y : Nat) : Nat := roundV f ((fltVal f x).mul (fltVal f y)) rm
def fdiv (f : Nat) (rm : Rm) (x y : Nat) : Nat := divV f rm (fltVal f x) (fltVal f y)
/-- FSQRT of an encoding (R133). -/
def fsqrt (f : Nat) (rm : Rm) (x : Nat) : Nat := sqrtV f rm (fltVal f x)
/-- C + A × B rounded once (R132, R133). -/
def ffma (f : Nat) (rm : Rm) (x y z : Nat) : Nat :=
  roundV f (((fltVal f x).mul (fltVal f y)).add rm (fltVal f z)) rm
/-- The comparisons of R133. -/
def fcmpeq (f x y : Nat) : Nat := ofBool ((fltVal f x).eq (fltVal f y))
def fcmplt (f x y : Nat) : Nat := ofBool ((fltVal f x).lt (fltVal f y))
def fcmple (f x y : Nat) : Nat := ofBool ((fltVal f x).le (fltVal f y))

/-- FDIV (R106, R132). -/
def fpDiv (f l d a b : Nat) (s : State) : Host.Outcome State Fault Refusal :=
  smith s 4 .plain fun s c => with2 c a b [] d fun c' x y =>
    if c.fdivBusy then .halt (.stall .unitBusy)
    else .ok (c'.pushFly { id := 0, dst := d, val := BitVec.ofNat 64 (fdiv f c.rm (encIn f x) (encIn f y)),
                           due := some (s.now + l), busy := 2 })

/-- FSQRT (R106, R132). -/
def fpSqrt (f l d a : Nat) (s : State) : Host.Outcome State Fault Refusal :=
  smith s 4 .plain fun s c => with1 c a [] d fun c' x =>
    if c.fdivBusy then .halt (.stall .unitBusy)
    else .ok (c'.pushFly { id := 0, dst := d, val := BitVec.ofNat 64 (fsqrt f c.rm (encIn f x)),
                           due := some (s.now + l), busy := 2 })

/-- FMA reads its d register after a and b (R133). -/
def fpFma (f d a b : Nat) (s : State) : Host.Outcome State Fault Refusal :=
  smith s 4 .plain fun s c => with2 c a b [d] d fun c' x y =>
    pushed s c' d (BitVec.ofNat 64 (ffma f c.rm (encIn f x) (encIn f y) (encIn f (c.getS d)))) 4

/-- A conversion from an INT64 source (R135). -/
def fromLong (f : Nat) (rm : Rm) (x : Word) : Nat := roundV f (Val.ofInt x.toInt) rm

/-- A conversion to INT64 (R135). -/
def toLong (f : Nat) (rm : Rm) (x : Nat) : Nat :=
  wrapTo 64 (toIntClamp (-9223372036854775808) 9223372036854775807 (fltVal f x) rm)

/-- FADD.S (R132). -/
def execFADD_S (d a b : BitVec 6) (s : State) : Host.Outcome State Fault Refusal :=
  fp2 1 4 d.toNat a.toNat b.toNat (fadd 1) s

/-- FSUB.S (R132). -/
def execFSUB_S (d a b : BitVec 6) (s : State) : Host.Outcome State Fault Refusal :=
  fp2 1 4 d.toNat a.toNat b.toNat (fsub 1) s

/-- FMUL.S (R132). -/
def execFMUL_S (d a b : BitVec 6) (s : State) : Host.Outcome State Fault Refusal :=
  fp2 1 4 d.toNat a.toNat b.toNat (fmul 1) s

/-- FDIV.S (R132). -/
def execFDIV_S (d a b : BitVec 6) (s : State) : Host.Outcome State Fault Refusal :=
  fpDiv 1 12 d.toNat a.toNat b.toNat s

/-- FSQRT.S (R132). -/
def execFSQRT_S (d a : BitVec 6) (s : State) : Host.Outcome State Fault Refusal :=
  fpSqrt 1 12 d.toNat a.toNat s

/-- FMIN.S (R133). -/
def execFMIN_S (d a b : BitVec 6) (s : State) : Host.Outcome State Fault Refusal :=
  fp2 1 2 d.toNat a.toNat b.toNat (fun _ x y => minEnc 1 x y) s

/-- FMAX.S (R133). -/
def execFMAX_S (d a b : BitVec 6) (s : State) : Host.Outcome State Fault Refusal :=
  fp2 1 2 d.toNat a.toNat b.toNat (fun _ x y => maxEnc 1 x y) s

/-- FCMPEQ.S (R133). -/
def execFCMPEQ_S (d a b : BitVec 6) (s : State) : Host.Outcome State Fault Refusal :=
  fp2 1 2 d.toNat a.toNat b.toNat (fun _ x y => fcmpeq 1 x y) s

/-- FCMPLT.S (R133). -/
def execFCMPLT_S (d a b : BitVec 6) (s : State) : Host.Outcome State Fault Refusal :=
  fp2 1 2 d.toNat a.toNat b.toNat (fun _ x y => fcmplt 1 x y) s

/-- FCMPLE.S (R133). -/
def execFCMPLE_S (d a b : BitVec 6) (s : State) : Host.Outcome State Fault Refusal :=
  fp2 1 2 d.toNat a.toNat b.toNat (fun _ x y => fcmple 1 x y) s

/-- FCLASS.S (R134). -/
def execFCLASS_S (d a : BitVec 6) (s : State) : Host.Outcome State Fault Refusal :=
  fp1 1 2 d.toNat a.toNat (fun _ x => fclass 1 x) s

/-- FMA.S (R132, R133). -/
def execFMA_S (d a b : BitVec 6) (s : State) : Host.Outcome State Fault Refusal :=
  fpFma 1 d.toNat a.toNat b.toNat s

/-- FADD.D (R132). -/
def execFADD_D (d a b : BitVec 6) (s : State) : Host.Outcome State Fault Refusal :=
  fp2 0 4 d.toNat a.toNat b.toNat (fadd 0) s

/-- FSUB.D (R132). -/
def execFSUB_D (d a b : BitVec 6) (s : State) : Host.Outcome State Fault Refusal :=
  fp2 0 4 d.toNat a.toNat b.toNat (fsub 0) s

/-- FMUL.D (R132). -/
def execFMUL_D (d a b : BitVec 6) (s : State) : Host.Outcome State Fault Refusal :=
  fp2 0 4 d.toNat a.toNat b.toNat (fmul 0) s

/-- FDIV.D (R132). -/
def execFDIV_D (d a b : BitVec 6) (s : State) : Host.Outcome State Fault Refusal :=
  fpDiv 0 22 d.toNat a.toNat b.toNat s

/-- FSQRT.D (R132). -/
def execFSQRT_D (d a : BitVec 6) (s : State) : Host.Outcome State Fault Refusal :=
  fpSqrt 0 22 d.toNat a.toNat s

/-- FMIN.D (R133). -/
def execFMIN_D (d a b : BitVec 6) (s : State) : Host.Outcome State Fault Refusal :=
  fp2 0 2 d.toNat a.toNat b.toNat (fun _ x y => minEnc 0 x y) s

/-- FMAX.D (R133). -/
def execFMAX_D (d a b : BitVec 6) (s : State) : Host.Outcome State Fault Refusal :=
  fp2 0 2 d.toNat a.toNat b.toNat (fun _ x y => maxEnc 0 x y) s

/-- FCMPEQ.D (R133). -/
def execFCMPEQ_D (d a b : BitVec 6) (s : State) : Host.Outcome State Fault Refusal :=
  fp2 0 2 d.toNat a.toNat b.toNat (fun _ x y => fcmpeq 0 x y) s

/-- FCMPLT.D (R133). -/
def execFCMPLT_D (d a b : BitVec 6) (s : State) : Host.Outcome State Fault Refusal :=
  fp2 0 2 d.toNat a.toNat b.toNat (fun _ x y => fcmplt 0 x y) s

/-- FCMPLE.D (R133). -/
def execFCMPLE_D (d a b : BitVec 6) (s : State) : Host.Outcome State Fault Refusal :=
  fp2 0 2 d.toNat a.toNat b.toNat (fun _ x y => fcmple 0 x y) s

/-- FCLASS.D (R134). -/
def execFCLASS_D (d a : BitVec 6) (s : State) : Host.Outcome State Fault Refusal :=
  fp1 0 2 d.toNat a.toNat (fun _ x => fclass 0 x) s

/-- FMA.D (R132, R133). -/
def execFMA_D (d a b : BitVec 6) (s : State) : Host.Outcome State Fault Refusal :=
  fpFma 0 d.toNat a.toNat b.toNat s

/-- FCVT.S.D (R135). -/
def execFCVT_S_D (d a : BitVec 6) (s : State) : Host.Outcome State Fault Refusal :=
  fp1 0 3 d.toNat a.toNat (fun rm x => convert 0 1 x rm) s

/-- FCVT.D.S (R135). -/
def execFCVT_D_S (d a : BitVec 6) (s : State) : Host.Outcome State Fault Refusal :=
  fp1 1 3 d.toNat a.toNat (fun rm x => convert 1 0 x rm) s

/-- FCVT.S.BF (R135). -/
def execFCVT_S_BF (d a : BitVec 6) (s : State) : Host.Outcome State Fault Refusal :=
  fp1 2 3 d.toNat a.toNat (fun rm x => convert 2 1 x rm) s

/-- FCVT.BF.S (R135). -/
def execFCVT_BF_S (d a : BitVec 6) (s : State) : Host.Outcome State Fault Refusal :=
  fp1 1 3 d.toNat a.toNat (fun rm x => convert 1 2 x rm) s

/-- FCVT.S.H (R135). -/
def execFCVT_S_H (d a : BitVec 6) (s : State) : Host.Outcome State Fault Refusal :=
  fp1 3 3 d.toNat a.toNat (fun rm x => convert 3 1 x rm) s

/-- FCVT.H.S (R135). -/
def execFCVT_H_S (d a : BitVec 6) (s : State) : Host.Outcome State Fault Refusal :=
  fp1 1 3 d.toNat a.toNat (fun rm x => convert 1 3 x rm) s

/-- FCVT.S.L (R135). -/
def execFCVT_S_L (d a : BitVec 6) (s : State) : Host.Outcome State Fault Refusal :=
  fp1 0 3 d.toNat a.toNat (fun rm x => fromLong 1 rm (BitVec.ofNat 64 x)) s

/-- FCVT.D.L (R135). -/
def execFCVT_D_L (d a : BitVec 6) (s : State) : Host.Outcome State Fault Refusal :=
  fp1 0 3 d.toNat a.toNat (fun rm x => fromLong 0 rm (BitVec.ofNat 64 x)) s

/-- FCVT.L.S (R135). -/
def execFCVT_L_S (d a : BitVec 6) (s : State) : Host.Outcome State Fault Refusal :=
  fp1 1 3 d.toNat a.toNat (fun rm x => toLong 1 rm x) s

/-- FCVT.L.D (R135). -/
def execFCVT_L_D (d a : BitVec 6) (s : State) : Host.Outcome State Fault Refusal :=
  fp1 0 3 d.toNat a.toNat (fun rm x => toLong 0 rm x) s

end Sys2Proof.Machine
end

