-- ==== Sys2Proof/Machine/Pred.lean ====
section
/-! DEFINITION. Predicate instructions, major PRED (R183, R184). -/

namespace Sys2Proof.Machine

/-- PSET (R183). -/
def execPSET (k : BitVec 3) (a : BitVec 6) (w : BitVec 2) (s : State) : Host.Outcome State Fault Refusal :=
  smith s 4 .plain fun _ c => with1 c a.toNat [] 0 fun c x =>
    .ok (c.setK k.toNat { count := BitVec.ofNat 17 (min x.toNat 131071), wid := w })

/-- Leading elements that are 1 (R184). -/
def leading : Runs → Nat
  | [] => 0
  | (c, x) :: t => if x = 0 && c != 0 then 0 else c + leading t

/-- PCNT (R184): it pushes its count and writes the predicate; it reads its whole source. -/
def execPCNT (k : BitVec 3) (a : BitVec 6) (s : State) : Host.Outcome State Fault Refusal :=
  vector [] 0 (fun c =>
    let v := c.getV a.toNat
    if v.fmt != 15 then .error (0x0E, a.toNat)
    else
      let n := leading v.runs
      .ok { push := some (0, BitVec.ofNat 64 n), pred := some (k.toNat, { count := BitVec.ofNat 17 n, wid := 0 }),
            occ := occupancy v.slots, reads := [c.allSlots a.toNat] }) s

/-- PMIN (R183). -/
def execPMIN (k i j : BitVec 3) (s : State) : Host.Outcome State Fault Refusal :=
  smith s 4 .plain fun _ c =>
    let x := c.getK i.toNat
    let y := c.getK j.toNat
    .ok (c.setK k.toNat (if y.bytes < x.bytes then y else x))

/-- PGET (R183). -/
def execPGET (d : BitVec 6) (i : BitVec 3) (s : State) : Host.Outcome State Fault Refusal :=
  smith s 4 .plain fun s c => with0 c [] d.toNat fun c =>
    let x := c.getK i.toNat
    pushed s c d.toNat (BitVec.ofNat 64 (x.count.toNat + 2 ^ 17 * x.wid.toNat)) 1

/-- PALL (R183). -/
def execPALL (k : BitVec 3) (s : State) : Host.Outcome State Fault Refusal :=
  smith s 4 .plain fun _ c => .ok (c.setK k.toNat { count := 131071, wid := 3 })

end Sys2Proof.Machine
end

