-- ==== Sys2Proof/Machine/Prefixes.lean ====
section
/-! DEFINITION. The prefixes C.CLS and STAMP (R91, R92). -/

namespace Sys2Proof.Machine

/-- The loads, which refuse a release (R92). -/
def isLoad : Instr → Bool
  | .LD_B .. | .LD_BU .. | .LD_H .. | .LD_HU .. | .LD_W .. | .LD_WU .. | .LD_D .. | .C_LDD .. | .VLD .. | .VLDS .. | .VLDFF .. => true
  | _ => false

/-- The stores, which refuse an acquire (R92). -/
def isStore : Instr → Bool
  | .ST_B .. | .ST_H .. | .ST_W .. | .ST_D .. | .C_STD .. | .VST .. | .VSTS .. => true
  | _ => false

def isWaitv : Instr → Bool
  | .WAITV .. => true
  | _ => false

/-- The commands of majors COPY, SWG, ROW, MMA, MTILE and LINK (R264). -/
def isCommand : Instr → Bool
  | .COPY .. | .COPYX .. | .COPYM .. | .COPYF .. | .COPYT .. | .COPYO .. | .EXPORT .. | .SACC .. | .SACCR .. | .ROWSM .. | .ROWNM ..
  | .ROWLN .. | .ROWMX .. | .MMA .. | .MZERO .. | .MSTORE .. | .MLOAD .. | .LXFER .. | .LRECV .. | .LRED .. | .LTOPK .. => true
  | _ => false

/-- The instructions that take C.CLS (R91). -/
def takesCls (i : Instr) : Bool := isLoad i || isStore i || isWaitv i || isCommand i

/-- The instructions that take STAMP (R91). -/
def takesStamp : Instr → Bool
  | .MMA .. | .MZERO .. | .MSTORE .. | .MLOAD .. | .LXFER .. | .LRECV .. | .LRED .. => true
  | _ => false

/-- The instruction that a unit of positions ends in, none while only prefixes are in view. -/
def mainOf (l : List (Pos × Nat × Nat)) : Option Instr :=
  match l.getLast? with
  | none => none
  | some (_, size, w) => if prefixShape size w then none else match decode (normal w) with
    | .instr i => some i
    | .rejected _ => none

/-- Whether an instruction refuses a prefix (R91, R92): a release refuses loads and WAITV, an acquire refuses stores. -/
def refuses (pre i : Instr) : Bool :=
  match pre with
  | .C_CLS _ a r _ => !takesCls i || (r == 1 && (isLoad i || isWaitv i)) || (a == 1 && isStore i)
  | .STAMP _ => !takesStamp i
  | _ => false

/-- The misuses of R92 by place: the last delay slot, the last parcel of a body. -/
def Pos.badPrefix (p : Pos) (size : Nat) : Bool :=
  (p.slot == 2 && !p.tgt) || match p.ctx with
    | [] => false
    | b :: _ => p.addr.toNat + size == b.limit

/-- Prefix misuse in a unit (R92; R93, order 5): the address of the first prefix that is misused (log 106). `cls` and `stamp` say which prefixes have
come before. -/
def misuse (main : Option Instr) : (cls stamp : Bool) → List (Pos × Nat × Nat) → Option Word
  | _, _, [] => none
  | cls, stamp, (p, size, w) :: t =>
    if !prefixShape size w then none
    else
      let again := if size = 2 then cls else stamp
      let bad := match decode w, main with | .instr i, some m => refuses i m | _, _ => false
      if again || p.badPrefix size || bad then some p.addr
      else misuse main (cls || size = 2) (stamp || size = 4) t

/-- The prefix of the unit at pc that is misused. -/
def Core.misused (c : Core) (m : Mem) (x : Pfx) : Option Word :=
  match unitWords m c.theTask c.loop [c.fetch.pc, c.fetch.n1, c.fetch.n2] with
  | .error _ => none
  | .ok l => misuse (mainOf l) x.cls.isSome x.stamp.isSome l

/-- A prefix (R91, R92): it takes no issue cycle of its own (R105). The misuses of the whole unit come before its layout faults (R93). -/
def prefixed (size : Nat) (take : Pfx → Pfx) (s : State) : Host.Outcome State Fault Refusal :=
  let c := s.core s.cur
  if c.run = .running then
    let x : Pfx := c.pfx.getD { first := c.fetch, loop := c.loop }
    match c.misused s.mem x with
    | some a => .next (s.setCore s.cur (c.raise 0x03 a none false s.now))
    | none =>
      if c.fetch.layout size .plain then .next (s.setCore s.cur (c.raise 0x05 c.fetch.pc.addr none false s.now))
      else match nextFetch s.mem c c.fetch none with
        | .error h => .next (s.halted h)
        | .ok (fl, lp) =>
          let s := s.setCore s.cur ({ c with fetch := fl, loop := lp, pfx := some (take x), stall := none }.count 11 1)
          .next { s with clock := { s.clock with turn := s.cur.val } }
  else .next s

/-- C.CLS (R91). -/
def execC_CLS (c : BitVec 4) (a r : BitVec 1) (sc : BitVec 3) (s : State) : Host.Outcome State Fault Refusal :=
  prefixed 2 (fun x => { x with cls := some (c.toNat, a == 1, r == 1, sc.toNat) }) s

/-- STAMP (R91, R313). -/
def execSTAMP (n : BitVec 24) (s : State) : Host.Outcome State Fault Refusal :=
  prefixed 4 (fun x => { x with stamp := some n.toNat }) s

end Sys2Proof.Machine
end

