-- ==== Sys2Proof/Machine/VArith.lean ====
section
/-! DEFINITION. Elementwise arithmetic, major VARITH (R162 to R165). -/

namespace Sys2Proof.Machine

/-- Sources `va` and `vb` of one accepted format (R163), a third source or an old destination of one format in itself (R150, R438), then the
elementwise frame. -/
def varith (d a b k g : Nat) (ok : Nat → Bool) (third : Option Nat) (old : Option Nat) (out : Nat → Nat)
    (op : Nat → Rm → List Nat → Nat) (s : State) : Host.Outcome State Fault Refusal :=
  vector [] 0 (fun c => do
    checkGroups g [d, a, b]
    let f := (c.getV a).fmt
    checkFmt c a g ok
    match (group b g).find? fun r => (c.getV r).fmt != f with
    | some r => .error (0x0E, r)
    | none => .ok ()
    match third with
    | some t => match (group t g).find? fun r => (c.getV r).fmt != 15 with
      | some r => .error (0x0E, r)
      | none => .ok ()
    | none => .ok ()
    match old with
    | some t => checkFmt c t g fun _ => true
    | none => .ok ()
    let extra := (third.map fun t => [t]).getD [] ++ (old.map fun t => [t]).getD []
    elementwise c d g k (a :: b :: extra) old (out f) (op f (rmOf c.csr.frm.toNat))) s

/-- An operation on the exact values of two encodings, narrowed once (R162). -/
def arith2 (fv : Rm → Val → Val → Val) (fi : Int → Int → Int) (f : Nat) (m : Rm) : List Nat → Nat
  | [x, y] => if isFlt f then roundV f (fv m (fltVal f x) (fltVal f y)) m else narrowInt f (fi (intOf f x) (intOf f y))
  | _ => 0

/-- a × b + c narrowed once (R164). -/
def arithFma (f : Nat) (m : Rm) : List Nat → Nat
  | [x, y, z] =>
    if isFlt f then roundV f (Val.add m ((fltVal f x).mul (fltVal f y)) (fltVal f z)) m
    else narrowInt f (intOf f x * intOf f y + intOf f z)
  | _ => 0

/-- The smaller or the larger (R163); an integer result is clamped (R162). -/
def arithPick (ff : Nat → Nat → Nat → Nat) (fi : Int → Int → Int) (f : Nat) (_ : Rm) : List Nat → Nat
  | [x, y] => if isFlt f then ff f x y else narrowInt f (fi (intOf f x) (intOf f y))
  | _ => 0

/-- A bitwise operation on encodings; BOOL encodings are 0 and 1 (R163). -/
def arithBits (op : Nat → Nat → Nat) (_ : Nat) (_ : Rm) : List Nat → Nat
  | [x, y] => op x y
  | _ => 0

/-- A shift by Clamp(b, 0, w), narrowed (R163). -/
def arithShift (op : Int → Nat → Int) (f : Nat) (_ : Rm) : List Nat → Nat
  | [x, y] => narrowInt f (op (intOf f x) (clampInt 0 (bitsOf f) (intOf f y)).toNat)
  | _ => 0

/-- A comparison of values, giving BOOL (R163). -/
def arithCmp (op : Val → Val → Bool) (f : Nat) (_ : Rm) : List Nat → Nat
  | [x, y] => ofBool (op (valOf f x) (valOf f y))
  | _ => 0

/-- VADD (R163). -/
def execVADD (d a b : BitVec 5) (k g : BitVec 3) (s : State) : Host.Outcome State Fault Refusal :=
  varith d.toNat a.toNat b.toNat k.toNat g.toNat isNum none none id (arith2 (fun m => Val.add m) (· + ·)) s

/-- VSUB (R163). -/
def execVSUB (d a b : BitVec 5) (k g : BitVec 3) (s : State) : Host.Outcome State Fault Refusal :=
  varith d.toNat a.toNat b.toNat k.toNat g.toNat isNum none none id
    (arith2 (fun m x y => Val.add m x y.neg) (· - ·)) s

/-- VMUL (R163). -/
def execVMUL (d a b : BitVec 5) (k g : BitVec 3) (s : State) : Host.Outcome State Fault Refusal :=
  varith d.toNat a.toNat b.toNat k.toNat g.toNat isNum none none id (arith2 (fun _ => Val.mul) (· * ·)) s

/-- VFMA: the third operand is the old vd (R164). -/
def execVFMA (d a b : BitVec 5) (k g : BitVec 3) (s : State) : Host.Outcome State Fault Refusal :=
  varith d.toNat a.toNat b.toNat k.toNat g.toNat isNum none (some d.toNat) id arithFma s

/-- VMIN (R163). -/
def execVMIN (d a b : BitVec 5) (k g : BitVec 3) (s : State) : Host.Outcome State Fault Refusal :=
  varith d.toNat a.toNat b.toNat k.toNat g.toNat isNum none none id (arithPick minEnc min) s

/-- VMAX (R163). -/
def execVMAX (d a b : BitVec 5) (k g : BitVec 3) (s : State) : Host.Outcome State Fault Refusal :=
  varith d.toNat a.toNat b.toNat k.toNat g.toNat isNum none none id (arithPick maxEnc max) s

/-- VAND (R163). -/
def execVAND (d a b : BitVec 5) (k g : BitVec 3) (s : State) : Host.Outcome State Fault Refusal :=
  varith d.toNat a.toNat b.toNat k.toNat g.toNat isLog none none id (arithBits (· &&& ·)) s

/-- VOR (R163). -/
def execVOR (d a b : BitVec 5) (k g : BitVec 3) (s : State) : Host.Outcome State Fault Refusal :=
  varith d.toNat a.toNat b.toNat k.toNat g.toNat isLog none none id (arithBits (· ||| ·)) s

/-- VXOR (R163). -/
def execVXOR (d a b : BitVec 5) (k g : BitVec 3) (s : State) : Host.Outcome State Fault Refusal :=
  varith d.toNat a.toNat b.toNat k.toNat g.toNat isLog none none id (arithBits (· ^^^ ·)) s

/-- VSHL (R163). -/
def execVSHL (d a b : BitVec 5) (k g : BitVec 3) (s : State) : Host.Outcome State Fault Refusal :=
  varith d.toNat a.toNat b.toNat k.toNat g.toNat isInts none none id (arithShift fun x n => x * (2 ^ n : Nat)) s

/-- VSHR: Floor(a / 2^s) (R163). -/
def execVSHR (d a b : BitVec 5) (k g : BitVec 3) (s : State) : Host.Outcome State Fault Refusal :=
  varith d.toNat a.toNat b.toNat k.toNat g.toNat isInts none none id (arithShift fun x n => x / (2 ^ n : Nat)) s

/-- VCMPEQ (R163). -/
def execVCMPEQ (d a b : BitVec 5) (k g : BitVec 3) (s : State) : Host.Outcome State Fault Refusal :=
  varith d.toNat a.toNat b.toNat k.toNat g.toNat isVecFmt none none (fun _ => 15) (arithCmp Val.eq) s

/-- VCMPNE (R163). -/
def execVCMPNE (d a b : BitVec 5) (k g : BitVec 3) (s : State) : Host.Outcome State Fault Refusal :=
  varith d.toNat a.toNat b.toNat k.toNat g.toNat isVecFmt none none (fun _ => 15) (arithCmp fun x y => !x.eq y) s

/-- VCMPLT (R163). -/
def execVCMPLT (d a b : BitVec 5) (k g : BitVec 3) (s : State) : Host.Outcome State Fault Refusal :=
  varith d.toNat a.toNat b.toNat k.toNat g.toNat isNum none none (fun _ => 15) (arithCmp Val.lt) s

/-- VCMPLE (R163). -/
def execVCMPLE (d a b : BitVec 5) (k g : BitVec 3) (s : State) : Host.Outcome State Fault Refusal :=
  varith d.toNat a.toNat b.toNat k.toNat g.toNat isNum none none (fun _ => 15) (arithCmp Val.le) s

/-- a if the condition holds, else b (R165); encodings pass unchanged. -/
def arithSel (_ : Nat) (_ : Rm) : List Nat → Nat
  | [x, y, c] => if c != 0 then x else y
  | _ => 0

/-- VSEL: the condition is `v0:g` (R165). -/
def execVSEL (d a b : BitVec 5) (k g : BitVec 3) (s : State) : Host.Outcome State Fault Refusal :=
  varith d.toNat a.toNat b.toNat k.toNat g.toNat isVecFmt (some 0) none id arithSel s

end Sys2Proof.Machine
end

