-- ==== Sys2Proof/Machine/VRed.lean ====
section
/-! DEFINITION. Reductions and vector structure, major VRED (R170 to R175). -/

namespace Sys2Proof.Machine

/-- The covered runs of each part with the part's first index in the group (R153). -/
def Core.span (c : Core) (a g k : Nat) : List (Nat × Runs) :=
  let lens := (group a g).map fun r => (c.getV r).len
  let acts := c.active k (widthOf (c.getV a).fmt) lens
  (List.range g).map fun j => ((lens.take j).sum, takeRuns (acts.getD j 0) (c.getV (a + j)).runs)

/-- A reduction (R171): `fold` works on the format, the rounding mode and the covered runs. -/
def vfold (d a k g : Nat) (ok : Nat → Bool) (fold : Nat → Rm → List (Nat × Runs) → Word) (s : State) :
    Host.Outcome State Fault Refusal :=
  vector [] d (fun c => do
    checkGroups g [a]
    checkFmt c a g ok
    let f := (c.getV a).fmt
    let sp := c.span a g k
    return { push := some (d, fold f (rmOf c.csr.frm.toNat) sp), occ := occupancy (sp.map fun x => slotsOf f x.2).sum,
             reads := sp.zipIdx.map fun x => (a + x.2, 0, slotsOf f x.1.2) }) s

/-- The covered runs of a group in order. -/
def spanRuns (sp : List (Nat × Runs)) : Runs := (sp.map (·.2)).flatten

/-- The exact sum rounded once (R171). -/
def foldSum (f : Nat) (m : Rm) (sp : List (Nat × Runs)) : Word :=
  let rs := spanRuns sp
  if rs.isEmpty then 0
  else if isFlt f then
    let out := if f = 0 then 0 else 1
    BitVec.ofNat 64 (roundV out ((rs.foldl (fun (acc : Sum) x => acc.add (fltVal f x.2) x.1) {}).val (m == .rdn)) m)
  else BitVec.ofInt 64 (rs.map fun x => intOf f x.2 * (x.1 : Int)).sum

/-- The largest or the smallest element, as ScalarOf gives it (R171). -/
def foldPick (ff : Nat → Nat → Nat → Nat) (less : Int → Int → Bool) (f : Nat) (_ : Rm) (sp : List (Nat × Runs)) : Word :=
  match spanRuns sp with
  | [] => 0
  | (_, x) :: t =>
    let pick (p q : Nat) : Nat := if isFlt f then ff f p q else if less (intOf f q) (intOf f p) then q else p
    scalarOf f (t.foldl (fun acc y => pick acc y.2) (pick x x))

/-- The number of elements that are not zero (R171). -/
def foldCount (f : Nat) (_ : Rm) (sp : List (Nat × Runs)) : Word :=
  BitVec.ofNat 64 ((spanRuns sp).map fun x => if (valOf f x.2).isZero then 0 else x.1).sum

/-- The index of the first element of a run list that is not zero. -/
def firstIn (f : Nat) : Nat → Runs → Option Nat
  | _, [] => none
  | off, (c, x) :: t => if c = 0 || (valOf f x).isZero then firstIn f (off + c) t else some off

/-- The index of the first element that is not zero, all ones when there is none (R171). -/
def foldFirst (f : Nat) (_ : Rm) (sp : List (Nat × Runs)) : Word :=
  match sp.findSome? fun x => firstIn f x.1 x.2 with
  | some i => BitVec.ofNat 64 i
  | none => BitVec.ofInt 64 (-1)

/-- VRSUM (R171). -/
def execVRSUM (d a : BitVec 5) (k g : BitVec 3) (s : State) : Host.Outcome State Fault Refusal :=
  vfold d.toNat a.toNat k.toNat g.toNat isVecFmt foldSum s

/-- VRMAX (R171). -/
def execVRMAX (d a : BitVec 5) (k g : BitVec 3) (s : State) : Host.Outcome State Fault Refusal :=
  vfold d.toNat a.toNat k.toNat g.toNat isNum (foldPick maxEnc fun x y => decide (y < x)) s

/-- VRMIN (R171). -/
def execVRMIN (d a : BitVec 5) (k g : BitVec 3) (s : State) : Host.Outcome State Fault Refusal :=
  vfold d.toNat a.toNat k.toNat g.toNat isNum (foldPick minEnc fun x y => decide (x < y)) s

/-- VRCNT (R171). -/
def execVRCNT (d a : BitVec 5) (k g : BitVec 3) (s : State) : Host.Outcome State Fault Refusal :=
  vfold d.toNat a.toNat k.toNat g.toNat isVecFmt foldCount s

/-- VRFIRST (R171). -/
def execVRFIRST (d a : BitVec 5) (k g : BitVec 3) (s : State) : Host.Outcome State Fault Refusal :=
  vfold d.toNat a.toNat k.toNat g.toNat isVecFmt foldFirst s

/-- A sum over the parts of a group, which reads no run (R172). -/
def vsum (d a g : Nat) (f : VReg → Nat) (s : State) : Host.Outcome State Fault Refusal :=
  vector [] d (fun c => do
    checkGroups g [a]
    match (group a g).find? fun r => (c.getV r).fmt != (c.getV a).fmt with
    | some r => .error (0x0E, r)
    | none => return { push := some (d, BitVec.ofNat 64 ((group a g).map fun r => f (c.getV r)).sum) }) s

/-- VLEN (R172). -/
def execVLEN (d a : BitVec 5) (g : BitVec 3) (s : State) : Host.Outcome State Fault Refusal :=
  vsum d.toNat a.toNat g.toNat VReg.len s

/-- VRUNS (R172). -/
def execVRUNS (d a : BitVec 5) (g : BitVec 3) (s : State) : Host.Outcome State Fault Refusal :=
  vsum d.toNat a.toNat g.toNat VReg.slots s

/-- The element that VSPLAT and VINS form from a scalar (R173). -/
def splatElem (f : Nat) (x : Word) : Nat := if f = 15 then ofBool (x != 0) else x.toNat % 2 ^ bitsOf f

/-- A vector built from a length and format word, with R148's tail (R173). -/
def vbuild (d a b k : Nat) (ok : Nat → Bool) (runs : (fmt m : Nat) → Word → Runs) (s : State) :
    Host.Outcome State Fault Refusal :=
  vector [a, b] 0 (fun c => do
    let w := c.getS b
    let f := fld w 16 4
    let l := fld w 0 16
    if !ok f then .error (0x0E, d)
    else
      let m := (c.active k (widthOf f) [l]).headD 0
      checkOld c f [d] [l] [m]
      return VOut.of [(d, c.withTail d f (runs f m (c.getS a)) l m)] []) s

/-- VSPLAT (R173). -/
def execVSPLAT (d a b : BitVec 5) (k : BitVec 3) (s : State) : Host.Outcome State Fault Refusal :=
  vbuild d.toNat a.toNat b.toNat k.toNat isVecFmt (fun f m x => if m = 0 then [] else [(m, splatElem f x)]) s

/-- VIOTA (R173). -/
def execVIOTA (d a b : BitVec 5) (k : BitVec 3) (s : State) : Host.Outcome State Fault Refusal :=
  vbuild d.toNat a.toNat b.toNat k.toNat isInts
    (fun f m x => (List.range m).map fun (e : Nat) => (1, narrowInt f (x.toInt + (e : Int)))) s

/-- One destination register that takes a run list (R174, R175). -/
def vone (regs : List Nat) (d : Nat) (f : Core → VCheck (VReg × List Slots)) (s : State) : Host.Outcome State Fault Refusal :=
  vector regs 0 (fun c => do
    let (v, reads) ← f c
    return VOut.of [(d, v)] reads) s

/-- VSLICE (R174). -/
def execVSLICE (d a b : BitVec 5) (s : State) : Host.Outcome State Fault Refusal :=
  vone [b.toNat] d.toNat (fun c =>
    let v := c.getV a.toNat
    let off := fld (c.getS b.toNat) 0 16
    let n := fld (c.getS b.toNat) 16 16
    if v.len < off + n then .error (0x0E, a.toNat)
    else .ok ({ fmt := v.fmt, runs := takeRuns n (dropRuns off v.runs) },
      if n = 0 then [] else [(a.toNat, v.slots - slotsOf v.fmt (dropRuns off v.runs), slotsOf v.fmt (takeRuns (off + n) v.runs))])) s

/-- VCAT (R174). -/
def execVCAT (d a b : BitVec 5) (s : State) : Host.Outcome State Fault Refusal :=
  vone [] d.toNat (fun c =>
    let v := c.getV a.toNat
    let w := c.getV b.toNat
    if v.fmt != w.fmt then .error (0x0E, b.toNat)
    else if 65535 < v.len + w.len then .error (0x0E, d.toNat)
    else .ok ({ fmt := v.fmt, runs := v.runs ++ w.runs }, [c.allSlots a.toNat, c.allSlots b.toNat])) s

/-- VSETLEN (R174). -/
def execVSETLEN (d a b : BitVec 5) (s : State) : Host.Outcome State Fault Refusal :=
  vone [b.toNat] d.toNat (fun c =>
    let v := c.getV a.toNat
    let n := (c.getS b.toNat).toNat
    if 65535 < n then .error (0x0E, d.toNat)
    else if n ≤ v.len then .ok ({ fmt := v.fmt, runs := takeRuns n v.runs }, [c.prefixSlots a.toNat n])
    else .ok ({ fmt := v.fmt, runs := v.runs ++ [(n - v.len, 0)] }, [c.allSlots a.toNat])) s

/-- VEXTR (R175): no predicate, so every slot holds an active element (R156). -/
def execVEXTR (d a b : BitVec 5) (s : State) : Host.Outcome State Fault Refusal :=
  vector [b.toNat] d.toNat (fun c =>
    let v := c.getV a.toNat
    match elemAt v.runs (c.getS b.toNat).toNat with
    | none => .error (0x0E, a.toNat)
    | some e => .ok { push := some (d.toNat, scalarOf v.fmt e), occ := occupancy v.slots, reads := [c.allSlots a.toNat] }) s

/-- VINS (R175). -/
def execVINS (d a b : BitVec 5) (s : State) : Host.Outcome State Fault Refusal :=
  vone [a.toNat, b.toNat] d.toNat (fun c =>
    let v := c.getV d.toNat
    let i := (c.getS b.toNat).toNat
    if v.len < i then .error (0x0E, d.toNat)
    else if 65535 < v.len + 1 then .error (0x0E, d.toNat)
    else .ok ({ fmt := v.fmt, runs := takeRuns i v.runs ++ [(1, splatElem v.fmt (c.getS a.toNat))] ++ dropRuns i v.runs },
      [c.allSlots d.toNat])) s

end Sys2Proof.Machine
end

