-- ==== Sys2Proof/Machine/VUnary.lean ====
section
/-! DEFINITION. Elementwise instructions of one source, major VUNARY (R166 to R169). -/

namespace Sys2Proof.Machine

/-- INT8, INT16, INT32 and FLT. -/
def isSigned (f : Nat) : Bool := isFlt f || f == 6 || f == 12 || f == 13
/-- FP32, BF16, FP16. -/
def isSpecial (f : Nat) : Bool := f == 1 || f == 2 || f == 3
/-- FP64, FP32, BF16, FP16. -/
def isWide (f : Nat) : Bool := decide (f < 4)

/-- A one-source elementwise instruction (R166); `out` gives the result format, none when it is not a vector format. -/
def vunary (d a k g : Nat) (ok : Nat → Bool) (out : Nat → Option Nat) (op : Nat → Rm → Nat → Nat) (s : State) :
    Host.Outcome State Fault Refusal :=
  vector [] 0 (fun c => do
    checkGroups g [d, a]
    let f := (c.getV a).fmt
    checkFmt c a g ok
    match out f with
    | none => .error (0x0E, d)
    | some o => elementwise c d g k [a] none o fun xs => op f (rmOf c.csr.frm.toNat) (xs.headD 0)) s

/-- A sign operation (R166): exact on floats, a NaN giving the produced NaN; clamped on integers. -/
def signOp (fv : Bool → Bool) (fi : Int → Int) (f : Nat) (_ : Rm) (x : Nat) : Nat :=
  if isFlt f then
    if fltVal f x = .nan then nanEnc f
    else withSign f (fv (bitsAt x (bitsOf f - 1) 1 == 1)) (x % 2 ^ (bitsOf f - 1))
  else narrowInt f (fi (intOf f x))

/-- VNEG (R166). -/
def execVNEG (d a : BitVec 5) (k g : BitVec 3) (s : State) : Host.Outcome State Fault Refusal :=
  vunary d.toNat a.toNat k.toNat g.toNat isSigned some (signOp (fun n => !n) (fun i => -i)) s

/-- VABS (R166). -/
def execVABS (d a : BitVec 5) (k g : BitVec 3) (s : State) : Host.Outcome State Fault Refusal :=
  vunary d.toNat a.toNat k.toNat g.toNat isSigned some (signOp (fun _ => false) (fun i => i.natAbs)) s

/-- VEXP2 (R72). -/
def execVEXP2 (d a : BitVec 5) (k g : BitVec 3) (s : State) : Host.Outcome State Fault Refusal :=
  vunary d.toNat a.toNat k.toNat g.toNat isSpecial some (fun f _ x => vexp2 f x) s

/-- VLOG2 (R73). -/
def execVLOG2 (d a : BitVec 5) (k g : BitVec 3) (s : State) : Host.Outcome State Fault Refusal :=
  vunary d.toNat a.toNat k.toNat g.toNat isSpecial some (fun f _ x => vlog2 f x) s

/-- VRCP (R74). -/
def execVRCP (d a : BitVec 5) (k g : BitVec 3) (s : State) : Host.Outcome State Fault Refusal :=
  vunary d.toNat a.toNat k.toNat g.toNat isSpecial some (fun f _ x => vrcp f x) s

/-- VRSQ (R74). -/
def execVRSQ (d a : BitVec 5) (k g : BitVec 3) (s : State) : Host.Outcome State Fault Refusal :=
  vunary d.toNat a.toNat k.toNat g.toNat isSpecial some (fun f _ x => vrsq f x) s

/-- VSQRT (R166). -/
def execVSQRT (d a : BitVec 5) (k g : BitVec 3) (s : State) : Host.Outcome State Fault Refusal :=
  vunary d.toNat a.toNat k.toNat g.toNat isWide some (fun f m x => sqrtV f m (fltVal f x)) s

/-- VTANH (R75). -/
def execVTANH (d a : BitVec 5) (k g : BitVec 3) (s : State) : Host.Outcome State Fault Refusal :=
  vunary d.toNat a.toNat k.toNat g.toNat isSpecial some (fun f _ x => vtanh f x) s

/-- VSIGM (R75). -/
def execVSIGM (d a : BitVec 5) (k g : BitVec 3) (s : State) : Host.Outcome State Fault Refusal :=
  vunary d.toNat a.toNat k.toNat g.toNat isSpecial some (fun f _ x => vsigm f x) s

/-- VFLOOR (R166). -/
def execVFLOOR (d a : BitVec 5) (k g : BitVec 3) (s : State) : Host.Outcome State Fault Refusal :=
  vunary d.toNat a.toNat k.toNat g.toNat isFlt some (fun f _ x => floorEnc f x) s

/-- VCVT to the format whose code is `f` (R167). -/
def execVCVT (d a f : BitVec 5) (k g : BitVec 3) (s : State) : Host.Outcome State Fault Refusal :=
  vunary d.toNat a.toNat k.toNat g.toNat isVecFmt (fun _ => if isVecFmt f.toNat then some f.toNat else none)
    (fun src m x => convert src f.toNat x m) s

/-- VMOV (R166). -/
def execVMOV (d a : BitVec 5) (k g : BitVec 3) (s : State) : Host.Outcome State Fault Refusal :=
  vunary d.toNat a.toNat k.toNat g.toNat isVecFmt some (fun _ _ x => x) s

/-- VNOT (R166); for BOOL 1 − a. -/
def execVNOT (d a : BitVec 5) (k g : BitVec 3) (s : State) : Host.Outcome State Fault Refusal :=
  vunary d.toNat a.toNat k.toNat g.toNat isLog some
    (fun f _ x => if f = 15 then 1 - x else 2 ^ bitsOf f - 1 - x % 2 ^ bitsOf f) s

/-- An instruction on the active prefix of each part as a whole, with R148's tail (R168, R169). -/
def vprefix (d a k g : Nat) (ok : Nat → Bool) (op : Nat → Rm → Runs → Runs) (s : State) :
    Host.Outcome State Fault Refusal :=
  vector [] 0 (fun c => do
    checkGroups g [d, a]
    let f := (c.getV a).fmt
    checkFmt c a g ok
    let lens := (group a g).map fun r => (c.getV r).len
    let acts := c.active k (widthOf f) lens
    checkOld c f (group d g) lens acts
    let parts := (List.range g).map fun j =>
      let l := lens.getD j 0
      let m := acts.getD j 0
      (d + j, c.withTail (d + j) f (op f (rmOf c.csr.frm.toNat) (takeRuns m (c.getV (a + j)).runs)) l m)
    return VOut.of parts ((List.range g).map fun j => c.prefixSlots (a + j) (acts.getD j 0))) s

/-- VCOAL (R168). -/
def execVCOAL (d a : BitVec 5) (k g : BitVec 3) (s : State) : Host.Outcome State Fault Refusal :=
  vprefix d.toNat a.toNat k.toNat g.toNat isVecFmt (fun _ _ r => coalesce r) s

/-- acc + x narrowed in format `f` (R169). -/
def scanStep (f : Nat) (m : Rm) (acc x : Nat) : Nat :=
  if isFlt f then roundV f (Val.add m (fltVal f acc) (fltVal f x)) m else narrowInt f (intOf f acc + intOf f x)

/-- `n` single elements of one run. -/
def scanRun (f : Nat) (m : Rm) (x : Nat) : (n acc : Nat) → Runs × Nat
  | 0, acc => ([], acc)
  | n + 1, acc =>
    let acc := scanStep f m acc x
    let (r, last) := scanRun f m x n acc
    ((1, acc) :: r, last)

/-- The inclusive prefix of a run list (R169). -/
def scan (f : Nat) (m : Rm) : Runs → Nat → Runs
  | [], _ => []
  | (c, x) :: t, acc =>
    if (valOf f x).isZero then
      let acc := scanStep f m acc x
      (c, acc) :: scan f m t acc
    else
      let (r, last) := scanRun f m x c acc
      r ++ scan f m t last

/-- VSCAN (R169). -/
def execVSCAN (d a : BitVec 5) (k g : BitVec 3) (s : State) : Host.Outcome State Fault Refusal :=
  vprefix d.toNat a.toNat k.toNat g.toNat (fun f => isInts f || isWide f) (fun f m r => scan f m r 0) s

end Sys2Proof.Machine
end

