-- ==== Sys2Proof/Machine/Dispatch.lean ====
section
/-! DEFINITION. One arm for each constructor: a direct call of its meaning, or a rejection by name. -/

namespace Sys2Proof.Machine

def exec (i : Instr) (s : State) : Host.Outcome State Fault Refusal :=
  match i with
  | .BLK_IMMEDIATE l r => Sys2Proof.Machine.execBLK_IMMEDIATE l r s
  | .BLK_REGISTER l v_s => Sys2Proof.Machine.execBLK_REGISTER l v_s s
  | .END => Sys2Proof.Machine.execEND s
  | .YIELD => Sys2Proof.Machine.execYIELD s
  | .TRAP d a b => Sys2Proof.Machine.execTRAP d a b s
  | .RETT => Sys2Proof.Machine.execRETT s
  | .BRK => Sys2Proof.Machine.execBRK s
  | .FENCE a => Sys2Proof.Machine.execFENCE a s
  | .SEQW a b => Sys2Proof.Machine.execSEQW a b s
  | .WAITV c a b => Sys2Proof.Machine.execWAITV c a b s
  | .NOP => Sys2Proof.Machine.execNOP s
  | .WAIT l v_s c t => Sys2Proof.Machine.execWAIT l v_s c t s
  | .CSRR d c => Sys2Proof.Machine.execCSRR d c s
  | .CSRW d a c => Sys2Proof.Machine.execCSRW d a c s
  | .CSRS d a c => Sys2Proof.Machine.execCSRS d a c s
  | .CSRC d a c => Sys2Proof.Machine.execCSRC d a c s
  | .ADD d a b => Sys2Proof.Machine.execADD d a b s
  | .SUB d a b => Sys2Proof.Machine.execSUB d a b s
  | .MUL d a b => Sys2Proof.Machine.execMUL d a b s
  | .MULH d a b => Sys2Proof.Machine.execMULH d a b s
  | .MULHU d a b => Sys2Proof.Machine.execMULHU d a b s
  | .DIV d a b => Sys2Proof.Machine.execDIV d a b s
  | .DIVU d a b => Sys2Proof.Machine.execDIVU d a b s
  | .REM d a b => Sys2Proof.Machine.execREM d a b s
  | .REMU d a b => Sys2Proof.Machine.execREMU d a b s
  | .AND d a b => Sys2Proof.Machine.execAND d a b s
  | .OR d a b => Sys2Proof.Machine.execOR d a b s
  | .XOR d a b => Sys2Proof.Machine.execXOR d a b s
  | .SHL d a b => Sys2Proof.Machine.execSHL d a b s
  | .SHR d a b => Sys2Proof.Machine.execSHR d a b s
  | .SHRA d a b => Sys2Proof.Machine.execSHRA d a b s
  | .MIN d a b => Sys2Proof.Machine.execMIN d a b s
  | .MAX d a b => Sys2Proof.Machine.execMAX d a b s
  | .MINU d a b => Sys2Proof.Machine.execMINU d a b s
  | .MAXU d a b => Sys2Proof.Machine.execMAXU d a b s
  | .CLZ d a => Sys2Proof.Machine.execCLZ d a s
  | .CTZ d a => Sys2Proof.Machine.execCTZ d a s
  | .POPC d a => Sys2Proof.Machine.execPOPC d a s
  | .CMPEQ d a b => Sys2Proof.Machine.execCMPEQ d a b s
  | .CMPNE d a b => Sys2Proof.Machine.execCMPNE d a b s
  | .CMPLT d a b => Sys2Proof.Machine.execCMPLT d a b s
  | .CMPLTU d a b => Sys2Proof.Machine.execCMPLTU d a b s
  | .CMPGE d a b => Sys2Proof.Machine.execCMPGE d a b s
  | .CMPGEU d a b => Sys2Proof.Machine.execCMPGEU d a b s
  | .SEL d a b => Sys2Proof.Machine.execSEL d a b s
  | .ADDW d a b => Sys2Proof.Machine.execADDW d a b s
  | .SUBW d a b => Sys2Proof.Machine.execSUBW d a b s
  | .SH1ADD d a b => Sys2Proof.Machine.execSH1ADD d a b s
  | .SH2ADD d a b => Sys2Proof.Machine.execSH2ADD d a b s
  | .SH3ADD d a b => Sys2Proof.Machine.execSH3ADD d a b s
  | .BFX d a b => Sys2Proof.Machine.execBFX d a b s
  | .BFI d a b => Sys2Proof.Machine.execBFI d a b s
  | .ADDI d a v_i => Sys2Proof.Machine.execADDI d a v_i s
  | .ANDI d a v_i => Sys2Proof.Machine.execANDI d a v_i s
  | .ORI d a v_i => Sys2Proof.Machine.execORI d a v_i s
  | .XORI d a v_i => Sys2Proof.Machine.execXORI d a v_i s
  | .SHLI d a v_s => Sys2Proof.Machine.execSHLI d a v_s s
  | .SHRI d a v_s => Sys2Proof.Machine.execSHRI d a v_s s
  | .SHRAI d a v_s => Sys2Proof.Machine.execSHRAI d a v_s s
  | .CMPLTI d a v_i => Sys2Proof.Machine.execCMPLTI d a v_i s
  | .CMPEQI d a v_i => Sys2Proof.Machine.execCMPEQI d a v_i s
  | .LI d v_i => Sys2Proof.Machine.execLI d v_i s
  | .LUI d v_i => Sys2Proof.Machine.execLUI d v_i s
  | .BEQ a b n o => Sys2Proof.Machine.execBEQ a b n o s
  | .BNE a b n o => Sys2Proof.Machine.execBNE a b n o s
  | .BLT a b n o => Sys2Proof.Machine.execBLT a b n o s
  | .BGE a b n o => Sys2Proof.Machine.execBGE a b n o s
  | .BLTU a b n o => Sys2Proof.Machine.execBLTU a b n o s
  | .BGEU a b n o => Sys2Proof.Machine.execBGEU a b n o s
  | .J o => Sys2Proof.Machine.execJ o s
  | .JAL d o => Sys2Proof.Machine.execJAL d o s
  | .JALR d a v_i => Sys2Proof.Machine.execJALR d a v_i s
  | .LD_B t a c v_i => Sys2Proof.Machine.execLD_B t a c v_i s
  | .LD_BU t a c v_i => Sys2Proof.Machine.execLD_BU t a c v_i s
  | .LD_H t a c v_i => Sys2Proof.Machine.execLD_H t a c v_i s
  | .LD_HU t a c v_i => Sys2Proof.Machine.execLD_HU t a c v_i s
  | .LD_W t a c v_i => Sys2Proof.Machine.execLD_W t a c v_i s
  | .LD_WU t a c v_i => Sys2Proof.Machine.execLD_WU t a c v_i s
  | .LD_D t a c v_i => Sys2Proof.Machine.execLD_D t a c v_i s
  | .ST_B t a c v_i => Sys2Proof.Machine.execST_B t a c v_i s
  | .ST_H t a c v_i => Sys2Proof.Machine.execST_H t a c v_i s
  | .ST_W t a c v_i => Sys2Proof.Machine.execST_W t a c v_i s
  | .ST_D t a c v_i => Sys2Proof.Machine.execST_D t a c v_i s
  | .FADD_S d a b => Sys2Proof.Machine.execFADD_S d a b s
  | .FSUB_S d a b => Sys2Proof.Machine.execFSUB_S d a b s
  | .FMUL_S d a b => Sys2Proof.Machine.execFMUL_S d a b s
  | .FDIV_S d a b => Sys2Proof.Machine.execFDIV_S d a b s
  | .FSQRT_S d a => Sys2Proof.Machine.execFSQRT_S d a s
  | .FMIN_S d a b => Sys2Proof.Machine.execFMIN_S d a b s
  | .FMAX_S d a b => Sys2Proof.Machine.execFMAX_S d a b s
  | .FCMPEQ_S d a b => Sys2Proof.Machine.execFCMPEQ_S d a b s
  | .FCMPLT_S d a b => Sys2Proof.Machine.execFCMPLT_S d a b s
  | .FCMPLE_S d a b => Sys2Proof.Machine.execFCMPLE_S d a b s
  | .FCLASS_S d a => Sys2Proof.Machine.execFCLASS_S d a s
  | .FMA_S d a b => Sys2Proof.Machine.execFMA_S d a b s
  | .FADD_D d a b => Sys2Proof.Machine.execFADD_D d a b s
  | .FSUB_D d a b => Sys2Proof.Machine.execFSUB_D d a b s
  | .FMUL_D d a b => Sys2Proof.Machine.execFMUL_D d a b s
  | .FDIV_D d a b => Sys2Proof.Machine.execFDIV_D d a b s
  | .FSQRT_D d a => Sys2Proof.Machine.execFSQRT_D d a s
  | .FMIN_D d a b => Sys2Proof.Machine.execFMIN_D d a b s
  | .FMAX_D d a b => Sys2Proof.Machine.execFMAX_D d a b s
  | .FCMPEQ_D d a b => Sys2Proof.Machine.execFCMPEQ_D d a b s
  | .FCMPLT_D d a b => Sys2Proof.Machine.execFCMPLT_D d a b s
  | .FCMPLE_D d a b => Sys2Proof.Machine.execFCMPLE_D d a b s
  | .FCLASS_D d a => Sys2Proof.Machine.execFCLASS_D d a s
  | .FMA_D d a b => Sys2Proof.Machine.execFMA_D d a b s
  | .FCVT_S_D d a => Sys2Proof.Machine.execFCVT_S_D d a s
  | .FCVT_D_S d a => Sys2Proof.Machine.execFCVT_D_S d a s
  | .FCVT_S_L d a => Sys2Proof.Machine.execFCVT_S_L d a s
  | .FCVT_D_L d a => Sys2Proof.Machine.execFCVT_D_L d a s
  | .FCVT_L_S d a => Sys2Proof.Machine.execFCVT_L_S d a s
  | .FCVT_L_D d a => Sys2Proof.Machine.execFCVT_L_D d a s
  | .FCVT_S_BF d a => Sys2Proof.Machine.execFCVT_S_BF d a s
  | .FCVT_BF_S d a => Sys2Proof.Machine.execFCVT_BF_S d a s
  | .FCVT_S_H d a => Sys2Proof.Machine.execFCVT_S_H d a s
  | .FCVT_H_S d a => Sys2Proof.Machine.execFCVT_H_S d a s
  | .VADD d a b k g => Sys2Proof.Machine.execVADD d a b k g s
  | .VSUB d a b k g => Sys2Proof.Machine.execVSUB d a b k g s
  | .VMUL d a b k g => Sys2Proof.Machine.execVMUL d a b k g s
  | .VFMA d a b k g => Sys2Proof.Machine.execVFMA d a b k g s
  | .VMIN d a b k g => Sys2Proof.Machine.execVMIN d a b k g s
  | .VMAX d a b k g => Sys2Proof.Machine.execVMAX d a b k g s
  | .VAND d a b k g => Sys2Proof.Machine.execVAND d a b k g s
  | .VOR d a b k g => Sys2Proof.Machine.execVOR d a b k g s
  | .VXOR d a b k g => Sys2Proof.Machine.execVXOR d a b k g s
  | .VSHL d a b k g => Sys2Proof.Machine.execVSHL d a b k g s
  | .VSHR d a b k g => Sys2Proof.Machine.execVSHR d a b k g s
  | .VCMPEQ d a b k g => Sys2Proof.Machine.execVCMPEQ d a b k g s
  | .VCMPNE d a b k g => Sys2Proof.Machine.execVCMPNE d a b k g s
  | .VCMPLT d a b k g => Sys2Proof.Machine.execVCMPLT d a b k g s
  | .VCMPLE d a b k g => Sys2Proof.Machine.execVCMPLE d a b k g s
  | .VSEL d a b k g => Sys2Proof.Machine.execVSEL d a b k g s
  | .VNEG d a k g => Sys2Proof.Machine.execVNEG d a k g s
  | .VABS d a k g => Sys2Proof.Machine.execVABS d a k g s
  | .VEXP2 d a k g => Sys2Proof.Machine.execVEXP2 d a k g s
  | .VLOG2 d a k g => Sys2Proof.Machine.execVLOG2 d a k g s
  | .VRCP d a k g => Sys2Proof.Machine.execVRCP d a k g s
  | .VRSQ d a k g => Sys2Proof.Machine.execVRSQ d a k g s
  | .VSQRT d a k g => Sys2Proof.Machine.execVSQRT d a k g s
  | .VTANH d a k g => Sys2Proof.Machine.execVTANH d a k g s
  | .VSIGM d a k g => Sys2Proof.Machine.execVSIGM d a k g s
  | .VFLOOR d a k g => Sys2Proof.Machine.execVFLOOR d a k g s
  | .VCVT d a f k g => Sys2Proof.Machine.execVCVT d a f k g s
  | .VCOAL d a k g => Sys2Proof.Machine.execVCOAL d a k g s
  | .VMOV d a k g => Sys2Proof.Machine.execVMOV d a k g s
  | .VSCAN d a k g => Sys2Proof.Machine.execVSCAN d a k g s
  | .VNOT d a k g => Sys2Proof.Machine.execVNOT d a k g s
  | .VRSUM d a k g => Sys2Proof.Machine.execVRSUM d a k g s
  | .VRMAX d a k g => Sys2Proof.Machine.execVRMAX d a k g s
  | .VRMIN d a k g => Sys2Proof.Machine.execVRMIN d a k g s
  | .VRCNT d a k g => Sys2Proof.Machine.execVRCNT d a k g s
  | .VRFIRST d a k g => Sys2Proof.Machine.execVRFIRST d a k g s
  | .VLEN d a g => Sys2Proof.Machine.execVLEN d a g s
  | .VRUNS d a g => Sys2Proof.Machine.execVRUNS d a g s
  | .VSPLAT d a b k => Sys2Proof.Machine.execVSPLAT d a b k s
  | .VIOTA d a b k => Sys2Proof.Machine.execVIOTA d a b k s
  | .VSLICE d a b => Sys2Proof.Machine.execVSLICE d a b s
  | .VCAT d a b => Sys2Proof.Machine.execVCAT d a b s
  | .VSETLEN d a b => Sys2Proof.Machine.execVSETLEN d a b s
  | .VEXTR d a b => Sys2Proof.Machine.execVEXTR d a b s
  | .VINS d a b => Sys2Proof.Machine.execVINS d a b s
  | .VLD d a b m => Sys2Proof.Machine.execVLD d a b m s
  | .VLDS d a b k m => Sys2Proof.Machine.execVLDS d a b k m s
  | .VLDFF d a b k m => Sys2Proof.Machine.execVLDFF d a b k m s
  | .VST d a k m => Sys2Proof.Machine.execVST d a k m s
  | .VSTS d a b k m => Sys2Proof.Machine.execVSTS d a b k m s
  | .VPOP d b n m => Sys2Proof.Machine.execVPOP d b n m s
  | .PSET k a w => Sys2Proof.Machine.execPSET k a w s
  | .PCNT k a => Sys2Proof.Machine.execPCNT k a s
  | .PMIN k v_i j => Sys2Proof.Machine.execPMIN k v_i j s
  | .PGET d v_i => Sys2Proof.Machine.execPGET d v_i s
  | .PALL k => Sys2Proof.Machine.execPALL k s
  | .EALLOC a b => Sys2Proof.Machine.execEALLOC a b s
  | .EFREE a b => Sys2Proof.Machine.execEFREE a b s
  | .ETOUCH a b => Sys2Proof.Machine.execETOUCH a b s
  | .EAGE d a => Sys2Proof.Machine.execEAGE d a s
  | .ECLASS a b => Sys2Proof.Machine.execECLASS a b s
  | .TDSET a b => Sys2Proof.Machine.execTDSET a b s
  | .TDGET d a => Sys2Proof.Machine.execTDGET d a s
  | .TDCOPY a b => Sys2Proof.Machine.execTDCOPY a b s
  | .TDCLR a => Sys2Proof.Machine.execTDCLR a s
  | .BSET a b => Sys2Proof.Machine.execBSET a b s
  | .BGET d a => Sys2Proof.Machine.execBGET d a s
  | .COPY x y z t => Sys2Proof.Machine.execCOPY x y z t s
  | .COPYX x y z t f v_s => Sys2Proof.Machine.execCOPYX x y z t f v_s s
  | .COPYM x y z t l => Sys2Proof.Machine.execCOPYM x y z t l s
  | .COPYF x p n z t => Sys2Proof.Machine.execCOPYF x p n z t s
  | .COPYT x y z t => Sys2Proof.Machine.execCOPYT x y z t s
  | .COPYO x y z t => Sys2Proof.Machine.execCOPYO x y z t s
  | .EXPORT y z t => Sys2Proof.Machine.execEXPORT y z t s
  | .SACC y z o => Sys2Proof.Machine.execSACC y z o s
  | .SACCR f y z o => Sys2Proof.Machine.execSACCR f y z o s
  | .ROWSM y z => Sys2Proof.Machine.execROWSM y z s
  | .ROWNM x y z e => Sys2Proof.Machine.execROWNM x y z e s
  | .ROWLN x y z e => Sys2Proof.Machine.execROWLN x y z e s
  | .ROWMX y z => Sys2Proof.Machine.execROWMX y z s
  | .MMA t a b m n c v_s => Sys2Proof.Machine.execMMA t a b m n c v_s s
  | .MZERO t f => Sys2Proof.Machine.execMZERO t f s
  | .MSTORE t y => Sys2Proof.Machine.execMSTORE t y s
  | .MLOAD t z f => Sys2Proof.Machine.execMLOAD t z f s
  | .BAR a => Sys2Proof.Machine.execBAR a s
  | .BARA a => Sys2Proof.Machine.execBARA a s
  | .BARW a => Sys2Proof.Machine.execBARW a s
  | .BARX a => Sys2Proof.Machine.execBARX a s
  | .DEPDEC a => Sys2Proof.Machine.execDEPDEC a s
  | .SPAWN a => Sys2Proof.Machine.execSPAWN a s
  | .SPATCH a b => Sys2Proof.Machine.execSPATCH a b s
  | .PWRQ a => Sys2Proof.Machine.execPWRQ a s
  | .PWRL => Sys2Proof.Machine.execPWRL s
  | .PWRG d => Sys2Proof.Machine.execPWRG d s
  | .LXFER b z p => Sys2Proof.Machine.execLXFER b z p s
  | .LRECV b y p => Sys2Proof.Machine.execLRECV b y p s
  | .LRED b y z p => Sys2Proof.Machine.execLRED b y z p s
  | .LTOPK b y z p => Sys2Proof.Machine.execLTOPK b y z p s
  | .STAMP n => Sys2Proof.Machine.execSTAMP n s
  | .C_CLS c a r v_s => Sys2Proof.Machine.execC_CLS c a r v_s s
  | .C_ADDI d v_i => Sys2Proof.Machine.execC_ADDI d v_i s
  | .C_ADD d a => Sys2Proof.Machine.execC_ADD d a s
  | .C_MV d a => Sys2Proof.Machine.execC_MV d a s
  | .C_LI d v_i => Sys2Proof.Machine.execC_LI d v_i s
  | .C_BZ a o => Sys2Proof.Machine.execC_BZ a o s
  | .C_BNZ a o => Sys2Proof.Machine.execC_BNZ a o s
  | .C_J o => Sys2Proof.Machine.execC_J o s
  | .C_LDD d b o => Sys2Proof.Machine.execC_LDD d b o s
  | .C_STD t b o => Sys2Proof.Machine.execC_STD t b o s
  | .C_WAIT c t => Sys2Proof.Machine.execC_WAIT c t s
  | .C_SHLI d v_s => Sys2Proof.Machine.execC_SHLI d v_s s
  | .C_SUB d a => Sys2Proof.Machine.execC_SUB d a s
  | .C_AND d a => Sys2Proof.Machine.execC_AND d a s
  | .C_NOP => Sys2Proof.Machine.execC_NOP s
  | .C_BRK => Sys2Proof.Machine.execC_BRK s
  | .ANNULLED_POSITION c => Sys2Proof.Machine.execANNULLED_POSITION c s
  | .RESULT_LANDING c id => Sys2Proof.Machine.execRESULT_LANDING c id s
  | .VECTOR_OCCUPANCY_END c => Sys2Proof.Machine.execVECTOR_OCCUPANCY_END c s
  | .ISSUE_STALL_RELEASE c => Sys2Proof.Machine.execISSUE_STALL_RELEASE c s
  | .WAIT_CONDITION_MET c => Sys2Proof.Machine.execWAIT_CONDITION_MET c s
  | .WAITV_READ c e => Sys2Proof.Machine.execWAITV_READ c e s
  | .EXPOSED_STORE_WRITE c id => Sys2Proof.Machine.execEXPOSED_STORE_WRITE c id s
  | .WRITE_HOLD_DRAIN c bank => Sys2Proof.Machine.execWRITE_HOLD_DRAIN c bank s
  | .LANDING_ENTRY_REPLAY c slot => Sys2Proof.Machine.execLANDING_ENTRY_REPLAY c slot s
  | .EMBER_READ_RETURN c id e => Sys2Proof.Machine.execEMBER_READ_RETURN c id e s
  | .STORE_ACCEPT c => Sys2Proof.Machine.execSTORE_ACCEPT c s
  | .COMMIT_LINE c => Sys2Proof.Machine.execCOMMIT_LINE c s
  | .WALK_COMPLETE c id => Sys2Proof.Machine.execWALK_COMPLETE c id s
  | .ENGINE_COMMAND_HEAD c e => Sys2Proof.Machine.execENGINE_COMMAND_HEAD c e s
  | .ENGINE_COMMAND_COMPLETE c e => Sys2Proof.Machine.execENGINE_COMMAND_COMPLETE c e s
  | .TONGS_LINE_WRITE c u => Sys2Proof.Machine.execTONGS_LINE_WRITE c u s
  | .FEED_ELEMENT_ENTRY c f => Sys2Proof.Machine.execFEED_ELEMENT_ENTRY c f s
  | .SWAGE_RMW c => Sys2Proof.Machine.execSWAGE_RMW c s
  | .TEMPER_LOAD c => Sys2Proof.Machine.execTEMPER_LOAD c s
  | .TEMPER_PHASE c => Sys2Proof.Machine.execTEMPER_PHASE c s
  | .TEMPER_ROW_WRITE c => Sys2Proof.Machine.execTEMPER_ROW_WRITE c s
  | .CRUCIBLE_FILL_START c => Sys2Proof.Machine.execCRUCIBLE_FILL_START c s
  | .CRUCIBLE_FILL_COMPLETE c => Sys2Proof.Machine.execCRUCIBLE_FILL_COMPLETE c s
  | .EBX_BLOCK_BUILD c => Sys2Proof.Machine.execEBX_BLOCK_BUILD c s
  | .EBX_BLOCK_DECODE c => Sys2Proof.Machine.execEBX_BLOCK_DECODE c s
  | .EBX_BLOCK_CHECK c => Sys2Proof.Machine.execEBX_BLOCK_CHECK c s
  | .CRUCIBLE_COPYX_SERVE c u => Sys2Proof.Machine.execCRUCIBLE_COPYX_SERVE c u s
  | .ANVIL_PASS_START c => Sys2Proof.Machine.execANVIL_PASS_START c s
  | .ANVIL_PASS_END c residue => Sys2Proof.Machine.execANVIL_PASS_END c residue s
  | .MZERO_WRITE c => Sys2Proof.Machine.execMZERO_WRITE c s
  | .MSTORE_LINE_WRITE c => Sys2Proof.Machine.execMSTORE_LINE_WRITE c s
  | .MLOAD_ROW_WRITE c => Sys2Proof.Machine.execMLOAD_ROW_WRITE c s
  | .SCHEDULE_MISS c e => Sys2Proof.Machine.execSCHEDULE_MISS c e s
  | .BELLOWS_STEP d => Sys2Proof.Machine.execBELLOWS_STEP d s
  | .LINK_FLIT_SEND c => Sys2Proof.Machine.execLINK_FLIT_SEND c s
  | .LINK_FLIT_ARRIVAL p flit auth => Sys2Proof.Machine.execLINK_FLIT_ARRIVAL p flit auth s
  | .LINK_FLIT_RECEIVE c => Sys2Proof.Machine.execLINK_FLIT_RECEIVE c s
  | .LINK_TRAIN p ok neighbour => Sys2Proof.Machine.execLINK_TRAIN p ok neighbour s
  | .TRAP_ENTRY c code tval eng single => Sys2Proof.Machine.execTRAP_ENTRY c code tval eng single s
  | .SYSTEM_SERVICE c => Sys2Proof.Machine.execSYSTEM_SERVICE c s
  | .TASK_RETIRE c => Sys2Proof.Machine.execTASK_RETIRE c s
  | .AGE_TICK_BOUNDARY t0 t1 t2 t3 => Sys2Proof.Machine.execAGE_TICK_BOUNDARY t0 t1 t2 t3 s
  | .REFRESH_REWRITE c => Sys2Proof.Machine.execREFRESH_REWRITE c s
  | .REWRITE_END c => Sys2Proof.Machine.execREWRITE_END c s
  | .CHUNK_REQUEST c => Sys2Proof.Machine.execCHUNK_REQUEST c s
  | .JOB_CARD_ACCEPT src ch => Sys2Proof.Machine.execJOB_CARD_ACCEPT src ch s
  | .DEP_DECREMENT ctr => Sys2Proof.Machine.execDEP_DECREMENT ctr s
  | .SPILL_CARD_RETURN entry => Sys2Proof.Machine.execSPILL_CARD_RETURN entry s
  | .BIND card cores start launch span => Sys2Proof.Machine.execBIND card cores start launch span s
  | .TASK_START c => Sys2Proof.Machine.execTASK_START c s
  | .PRIORITY_AGEING card => Sys2Proof.Machine.execPRIORITY_AGEING card s
  | .PREEMPT_REQUEST c => Sys2Proof.Machine.execPREEMPT_REQUEST c s
  | .CONTEXT_RESTORE c card task => Sys2Proof.Machine.execCONTEXT_RESTORE c card task s
  | .REGROWTH c => Sys2Proof.Machine.execREGROWTH c s
  | .CORE_POLL c answers => Sys2Proof.Machine.execCORE_POLL c answers s
  | .DEADLOCK_SAMPLE => Sys2Proof.Machine.execDEADLOCK_SAMPLE s
  | .BARRIER_COMPLETE card tag unit => Sys2Proof.Machine.execBARRIER_COMPLETE card tag unit s
  | .GANG_END_COMMIT card => Sys2Proof.Machine.execGANG_END_COMMIT card s
  | .COMPLETION_RECORD_WRITE f => Sys2Proof.Machine.execCOMPLETION_RECORD_WRITE f s
  | .SQ_DOORBELL f v => Sys2Proof.Machine.execSQ_DOORBELL f v s
  | .CQ_HEAD_WRITE f v => Sys2Proof.Machine.execCQ_HEAD_WRITE f v s
  | .SQ_CTL_WRITE f v => Sys2Proof.Machine.execSQ_CTL_WRITE f v s
  | .CQ_CTL_WRITE f v => Sys2Proof.Machine.execCQ_CTL_WRITE f v s
  | .HOST_TEMPLATE_WRITE f n dword v => Sys2Proof.Machine.execHOST_TEMPLATE_WRITE f n dword v s
  | .HOST_HBM_READ f addr => Sys2Proof.Machine.execHOST_HBM_READ f addr s
  | .HOST_HBM_WRITE f addr v => Sys2Proof.Machine.execHOST_HBM_WRITE f addr v s
  | .ATTESTATION_GO f v => Sys2Proof.Machine.execATTESTATION_GO f v s
  | .ATTESTATION_DONE => Sys2Proof.Machine.execATTESTATION_DONE s
  | .STARTCLR_WRITE f v => Sys2Proof.Machine.execSTARTCLR_WRITE f v s
  | .REGISTER_WRITE f r v => Sys2Proof.Machine.execREGISTER_WRITE f r v s
  | .TEMP_TABLE_WRITE band cls v => Sys2Proof.Machine.execTEMP_TABLE_WRITE band cls v s
  | .RAMP_TABLE_WRITE d t => Sys2Proof.Machine.execRAMP_TABLE_WRITE d t s
  | .RAMP_TABLE_APPLY d => Sys2Proof.Machine.execRAMP_TABLE_APPLY d s
  | .ASID_INVALIDATE id => Sys2Proof.Machine.execASID_INVALIDATE id s
  | .REFERENCE_TICK => Sys2Proof.Machine.execREFERENCE_TICK s
  | .DECISION_TICK => Sys2Proof.Machine.execDECISION_TICK s
  | .SWITCH_TICK => Sys2Proof.Machine.execSWITCH_TICK s
  | .CHORUS_JOIN m linkid dticks direct => Sys2Proof.Machine.execCHORUS_JOIN m linkid dticks direct s
  | .CHORUS_ADMIT self tick wa stampWa step members => Sys2Proof.Machine.execCHORUS_ADMIT self tick wa stampWa step members s
  | .CHORUS_LEAVE m => Sys2Proof.Machine.execCHORUS_LEAVE m s
  | .CHORUS_DECLARE m => Sys2Proof.Machine.execCHORUS_DECLARE m s
  | .CHORUS_LIMIT m wl => Sys2Proof.Machine.execCHORUS_LIMIT m wl s
  | .CHORUS_LOST m lost at_ => Sys2Proof.Machine.execCHORUS_LOST m lost at_ s
  | .DECLARE_SEND ceil demand => Sys2Proof.Machine.execDECLARE_SEND ceil demand s
  | .CORE_GATE p => Sys2Proof.Machine.execCORE_GATE p s
  | .CORE_WAKE_REQUEST p => Sys2Proof.Machine.execCORE_WAKE_REQUEST p s
  | .GATE_HOLD_END p => Sys2Proof.Machine.execGATE_HOLD_END p s
  | .WAKE_START d => Sys2Proof.Machine.execWAKE_START d s
  | .VOLTAGE_ADJUST d count => Sys2Proof.Machine.execVOLTAGE_ADJUST d count s
  | .VOLTAGE_RETURN d => Sys2Proof.Machine.execVOLTAGE_RETURN d s
  | .UNDERVOLT_REENABLE d => Sys2Proof.Machine.execUNDERVOLT_REENABLE d s
  | .DEVICE_RESET t0 t1 t2 t3 => Sys2Proof.Machine.execDEVICE_RESET t0 t1 t2 t3 s
  | .BOOT_STAGE r => Sys2Proof.Machine.execBOOT_STAGE r s
  | .BOOT_STAGE_TIMEOUT => Sys2Proof.Machine.execBOOT_STAGE_TIMEOUT s
  | .ILLEGAL_INSTRUCTION c reserved parcel => Sys2Proof.Machine.execILLEGAL_INSTRUCTION c reserved parcel s
  | .LIMIT_SEND ceil demand wl => Sys2Proof.Machine.execLIMIT_SEND ceil demand wl s
  | .JOIN_SEND p ceil demand => Sys2Proof.Machine.execJOIN_SEND p ceil demand s
  | .LEAVE_SEND => Sys2Proof.Machine.execLEAVE_SEND s
  | .CHORUS_TABLE_WRITE fieldName v => Sys2Proof.Machine.execCHORUS_TABLE_WRITE fieldName v s
  | .DIE_BUDGET_WRITE d u => Sys2Proof.Machine.execDIE_BUDGET_WRITE d u s
  | .RESERVATION_SET_ASIDE c cls => Sys2Proof.Machine.execRESERVATION_SET_ASIDE c cls s
  | .GLOBAL_READ_RETURN c e => Sys2Proof.Machine.execGLOBAL_READ_RETURN c e s
  | .IDE_ESTABLISH f => Sys2Proof.Machine.execIDE_ESTABLISH f s
  | .STANDBY_POWER_LOSS => Sys2Proof.Machine.execSTANDBY_POWER_LOSS s

end Sys2Proof.Machine
end

