-- ==== Sys2Proof/Machine/Sched.lean ====
section
/-! DEFINITION. The order of what happens in a cycle (log 1): outside events, the events of each phase, and the issue of every core. -/

namespace Sys2Proof.Machine

/-! ### Events -/

/-- The meaning of an event: that of its row of the opcode table. -/
def Event.run (e : Event) (s : State) : Host.Outcome State Fault Refusal :=
  match e with
  | .annulledPosition c => execANNULLED_POSITION c s
  | .illegalInstruction c reserved parcel => execILLEGAL_INSTRUCTION c reserved parcel s
  | .issueStallRelease c => execISSUE_STALL_RELEASE c s
  | .waitConditionMet c => execWAIT_CONDITION_MET c s
  | .trapEntry c code tval eng single => execTRAP_ENTRY c code tval eng single s
  | .taskRetire c => execTASK_RETIRE c s
  | .systemService c => execSYSTEM_SERVICE c s
  | .resultLanding c id => execRESULT_LANDING c id s
  | .vectorOccupancyEnd c => execVECTOR_OCCUPANCY_END c s
  | .emberReadReturn c id e => execEMBER_READ_RETURN c id e s
  | .waitvRead c e => execWAITV_READ c e s
  | .walkComplete c id => execWALK_COMPLETE c id s
  | .globalReadReturn c e => execGLOBAL_READ_RETURN c e s
  | .engineCommandHead c e => execENGINE_COMMAND_HEAD c e s
  | .chunkRequest c => execCHUNK_REQUEST c s
  | .taskStart c => execTASK_START c s
  | .bellowsStep d => execBELLOWS_STEP d s
  | .rampTableApply d => execRAMP_TABLE_APPLY d s
  | .ageTickBoundary t0 t1 t2 t3 => execAGE_TICK_BOUNDARY t0 t1 t2 t3 s
  | .referenceTick => execREFERENCE_TICK s
  | .decisionTick => execDECISION_TICK s
  | .switchTick => execSWITCH_TICK s
  | .deadlockSample => execDEADLOCK_SAMPLE s
  | .barrierComplete card tag unit => execBARRIER_COMPLETE card tag unit s
  | .gangEndCommit card => execGANG_END_COMMIT card s
  | .completionRecordWrite f => execCOMPLETION_RECORD_WRITE f s
  | .depDecrement ctr => execDEP_DECREMENT ctr s
  | .spillCardReturn entry => execSPILL_CARD_RETURN entry s
  | .priorityAgeing card => execPRIORITY_AGEING card s
  | .corePoll c answers => execCORE_POLL c answers s
  | .voltageAdjust d count => execVOLTAGE_ADJUST d count s
  | .voltageReturn d => execVOLTAGE_RETURN d s
  | .undervoltReenable d => execUNDERVOLT_REENABLE d s
  | .gateHoldEnd p => execGATE_HOLD_END p s
  | .wakeStart d => execWAKE_START d s
  | .bootStageTimeout => execBOOT_STAGE_TIMEOUT s
  | .declareSend ceil demand => execDECLARE_SEND ceil demand s
  | .preemptRequest c => execPREEMPT_REQUEST c s
  | .regrowth c => execREGROWTH c s
  | .temperLoad c => execTEMPER_LOAD c s
  | .crucibleFillComplete c => execCRUCIBLE_FILL_COMPLETE c s
  | .ebxBlockBuild c => execEBX_BLOCK_BUILD c s
  | .ebxBlockDecode c => execEBX_BLOCK_DECODE c s
  | .ebxBlockCheck c => execEBX_BLOCK_CHECK c s
  | .crucibleCopyxServe c u => execCRUCIBLE_COPYX_SERVE c u s
  | .anvilPassStart c => execANVIL_PASS_START c s
  | .crucibleFillStart c => execCRUCIBLE_FILL_START c s
  | .scheduleMiss c e => execSCHEDULE_MISS c e s
  | .feedElementEntry c f => execFEED_ELEMENT_ENTRY c f s
  | .refreshRewrite c => execREFRESH_REWRITE c s
  | .writeHoldDrain c bank => execWRITE_HOLD_DRAIN c bank s
  | .storeAccept c => execSTORE_ACCEPT c s
  | .commitLine c => execCOMMIT_LINE c s
  | .tongsLineWrite c u => execTONGS_LINE_WRITE c u s
  | .mstoreLineWrite c => execMSTORE_LINE_WRITE c s
  | .temperRowWrite c => execTEMPER_ROW_WRITE c s
  | .swageRmw c => execSWAGE_RMW c s
  | .mzeroWrite c => execMZERO_WRITE c s
  | .mloadRowWrite c => execMLOAD_ROW_WRITE c s
  | .anvilPassEnd c residue => execANVIL_PASS_END c residue s
  | .linkFlitSend c => execLINK_FLIT_SEND c s
  | .linkFlitReceive c => execLINK_FLIT_RECEIVE c s
  | .exposedStoreWrite c id => execEXPOSED_STORE_WRITE c id s
  | .landingEntryReplay c slot => execLANDING_ENTRY_REPLAY c slot s
  | .temperPhase c => execTEMPER_PHASE c s
  | .engineCommandComplete c e => execENGINE_COMMAND_COMPLETE c e s
  | .rewriteEnd c => execREWRITE_END c s

/-- The rows that hosts, Salamander, neighbours and the board bring about. -/
def isOutside : Instr → Bool
  | .LINK_FLIT_ARRIVAL .. | .LINK_TRAIN .. | .JOB_CARD_ACCEPT .. | .BIND .. | .CONTEXT_RESTORE ..
  | .REGROWTH .. | .SQ_DOORBELL .. | .CQ_HEAD_WRITE .. | .SQ_CTL_WRITE .. | .CQ_CTL_WRITE ..
  | .HOST_TEMPLATE_WRITE .. | .HOST_HBM_READ .. | .HOST_HBM_WRITE .. | .ATTESTATION_GO .. | .ATTESTATION_DONE
  | .STARTCLR_WRITE .. | .REGISTER_WRITE .. | .TEMP_TABLE_WRITE .. | .RAMP_TABLE_WRITE .. | .ASID_INVALIDATE ..
  | .CHORUS_JOIN .. | .CHORUS_ADMIT .. | .CHORUS_LEAVE .. | .CHORUS_DECLARE .. | .CHORUS_LIMIT ..
  | .CHORUS_LOST .. | .CORE_GATE .. | .CORE_WAKE_REQUEST .. | .DEVICE_RESET .. | .BOOT_STAGE ..
  | .LIMIT_SEND .. | .JOIN_SEND .. | .LEAVE_SEND | .CHORUS_TABLE_WRITE .. | .DIE_BUDGET_WRITE ..
  | .BARRIER_COMPLETE .. | .GANG_END_COMMIT .. | .DEP_DECREMENT ..
  | .RESERVATION_SET_ASIDE .. | .IDE_ESTABLISH .. | .STANDBY_POWER_LOSS | .PREEMPT_REQUEST .. | .DECLARE_SEND .. => true
  | _ => false

/-! ### Small helpers -/

def State.setClock (s : State) (f : Clock → Clock) : State := { s with clock := f s.clock }

/-- Take `n` numbers of free values. -/
def State.take (s : State) (n : Nat) : State := s.setClock fun k => { k with free := k.free + n }

/-- The cores that hold a task. -/
def State.bound (s : State) : List CoreId := (List.finRange 64).filter fun l => (s.core l).task.isSome

/-- Apply a change to every core that holds a task. -/
def State.eachBound (s : State) (f : State → CoreId → State) : State := s.bound.foldl f s

/-- An event under a condition. -/
def whenEv (b : Bool) (e : Event) : List Event := if b then [e] else []

/-! ### The start of a cycle -/

/-- The events of reference tick `t`. -/
def State.tickEvents (s : State) (t : Nat) : State × List Event :=
  let age := t % 25 == 0
  let poll := if t % 1000 = 0 then s.bound else []
  let volt := t % 100000 == 0
  let n := s.clock.free
  let own := s.chorus.members.find? fun m => m.idx == s.chorus.self
  let declare := decide (heartbeat ≤ t - s.chorus.lastDecl)
  let power (d : DieId) : List Event :=
    let x := s.die d
    whenEv (match x.retAt with | some r => decide (r ≤ t) | none => false) (.voltageReturn d) ++
    whenEv (match x.offUntil with | some r => decide (r ≤ t) | none => false) (.undervoltReenable d)
  let holds := (List.finRange 72).filter fun p => match (s.phys p).gated, (s.phys p).wake with
    | some g, some _ => decide (200 ≤ t - g) && !(s.die (dieOfPhys p)).wakes.contains p
    | _, _ => false
  let wakes := (List.finRange 4).filter fun d => !(s.die d).wakes.isEmpty || holds.any fun p => dieOfPhys p == d
  (s.take (4 * ofBool age + 4 * ofBool volt),
    whenEv (t % 256 == 0) .switchTick ++
    whenEv ((t + s.chorus.dticks) % 256 == 0) .decisionTick ++
    whenEv age (.ageTickBoundary (Config.sensor n) (Config.sensor (n + 1)) (Config.sensor (n + 2)) (Config.sensor (n + 3))) ++
    (poll.map fun l => .corePoll l (match s.hub.map[l] with | some p => !(s.phys p).deaf | none => true)) ++
    (if volt then (List.finRange 4).map fun d => .voltageAdjust d (Config.canary (n + 4 + d.val)) else []) ++
    (List.finRange 4).flatMap power ++ (holds.map fun p => .gateHoldEnd p) ++ (wakes.map fun d => .wakeStart d) ++
    ((s.hub.cards.filter fun k => k.rises t).map fun k => .priorityAgeing k.id) ++
    whenEv (!s.boot.failed && decide (s.boot.stage < 8) && decide (s.boot.began + 1000000000 < t)) .bootStageTimeout ++
    (match own with
      | some m => whenEv declare (.declareSend (BitVec.ofNat 5 m.ceil) (BitVec.ofNat 16 m.demand))
      | none => []))

/-- Whether a read lands in this cycle. -/
def SRead.lands (r : SRead) (now : Nat) : Bool := !r.here && match r.land with | none => false | some d => decide (d ≤ now)

/-- Whether the walk of a global load is over, and its value is fixed now. -/
def Fly.walkDue (f : Fly) (now : Nat) : Bool := match f.walk with | none => false | some d => decide (d ≤ now)

/-- The events with which a cycle begins on a core: what lands, walks that complete, the vector unit, engine heads, services. -/
def State.coreEvents (s : State) (l : CoreId) : List Event :=
  let c := s.core l
  let lands := c.reads.filter fun r => r.unit == 0 && r.lands s.now
  let found (i : Nat) : Ecc := match c.strike with
    | some (t, e) => if t = s.now ∧ i = 0 then e else .clean
    | none => .clean
  let back (x : SRead × Nat) : Event := match x.1.who with
    | .load id => .emberReadReturn l id (found x.2)
    | .tdcopy _ => .emberReadReturn l 0 (found x.2)
    | .waitv => .waitvRead l (found x.2)
  let landing (f : Fly) : Bool := (match f.due with | some d => decide (d ≤ s.now) | none => false) || lands.any fun r => r.who == .load f.id
  (lands.zipIdx.map back) ++ ((c.fly.filter fun f => f.walkDue s.now && !c.readOpen f.cls f.id).map fun f => .walkComplete l f.id) ++
    ((c.fly.filter landing).map fun f => .resultLanding l f.id) ++ whenEv (s.vecEnds l) (.vectorOccupancyEnd l) ++
    ((List.finRange 6).filter fun e => (c.getE e).headDue s.now).map (fun e => .engineCommandHead l e) ++
    ((List.finRange 6).filter fun e => (c.getE e).got.any fun x => x.waits s.now).map (fun e => .globalReadReturn l e) ++
    whenEv (match c.run with | .service _ _ _ due => decide (due ≤ s.now) | _ => false) (.systemService l)

/-- Whether a core may retire a task, ask for a chunk or start a task in this cycle. -/
def State.turnsOver (s : State) (l : CoreId) : Bool :=
  let c := s.core l
  match c.run with
  | .bound | .restoring _ => true
  | _ => s.retires l || match s.hub.card c.theTask.card with | some k => s.gangEnds k | none => false

/-- The events of the hub at the start of a cycle: barriers, ends of gangs, retirement, dealing, starts, the pool, records, decrements, ramp
tables and the deadlock detector. -/
def State.hubEvents (s : State) : List Event :=
  let cards := s.hub.cards.filter fun k => k.st == .running
  let turn := s.bound.filter s.turnsOver
  (cards.flatMap fun k => (k.bars.filter fun b => k.whole b.1 b.2.1 && s.barrierDue k b.1 b.2.1).map fun b => .barrierComplete k.id (Fin.ofNat 9 b.1) b.2.1) ++
  ((cards.filter fun k => k.span.isEmpty && s.gangEnds k).map fun k => .gangEndCommit k.id) ++ (turn.map fun l => .taskRetire l) ++ (turn.map fun l => .chunkRequest l) ++
  (turn.map fun l => .taskStart l) ++
  (match s.hub.spill with | [] => [] | n :: _ => whenEv (s.hub.returns n) (.spillCardReturn n)) ++
  ((List.finRange 4).filter s.recordDue).map (fun f => .completionRecordWrite f) ++ (s.hub.sent.map fun c => .depDecrement c) ++
  ((List.finRange 4).filter fun d => (s.die d).next.isSome && (s.die d).quiet).map (fun d => .rampTableApply d) ++
  ((List.finRange 64).filter s.regrows).map (fun l => .regrowth l) ++
  whenEv (s.clock.stamp.toNat % 4096 == 0) .deadlockSample

/-- What the start of a cycle does before its events: the counters that reads find, data of TDCOPY and the vector unit. -/
def State.openCycle (s : State) : State :=
  s.eachBound fun s l => ((s.modCore l fun c => { c with late := 0, csr := { c.csr with evWas := c.csr.ev } }).landTd l).vecGlobal l

def State.enterEdge (s : State) : State :=
  let s := s.openCycle
  let edge := decide (8 + s.chorus.step ≤ s.clock.sub)
  let (s, ticks) := if edge then s.tickEvents ((s.clock.tick + 1).toNat) else (s, [])
  let todo := whenEv edge .referenceTick ++ ticks ++ s.bound.flatMap s.coreEvents ++ s.hubEvents
  s.setClock fun k => { k with todo }

/-! ### Engines -/

/-- The start of a cycle on an engine that works. -/
def State.engineStart (s : State) (l : CoreId) (e : EngId) : State :=
  let x := (s.core l).getE e
  match x.queue with
  | [] => s
  | cmd :: _ =>
    if !x.active then s
    else match e.val with
      | 0 | 1 => s.copyStart l e cmd
      | 3 => s.temperStart l cmd
      | 4 => s.swageStart l cmd
      | 5 => s.linkStart l cmd
      | _ => s

/-- Events of the engines of a core that begin a cycle. -/
def Core.startEvents (c : Core) (l : CoreId) (now : Nat) : List Event :=
  whenEv (c.temperMayLoad now) (.temperLoad l) ++ ((c.fills.filter fun f => f.done.isNone).map fun _ => .crucibleFillComplete l) ++
  (if c.fills.any (·.ebx.isSome) then [.ebxBlockBuild l, .ebxBlockDecode l, .ebxBlockCheck l] else [])

/-- The events of the COPYXs of a core, once the fills of the cycle have begun (R305). -/
def Core.copyxEvents (c : Core) (l : CoreId) : List Event :=
  let on := (List.finRange 2).filter fun u => match (c.getE (Fin.castLE (by omega) u)).queue with | cmd :: _ => cmd.isCopyx | [] => false
  (on.map fun u => .crucibleCopyxServe l u) ++
    (if on.any fun u => (c.getE (Fin.castLE (by omega) u)).ebx.isSome then [.ebxBlockBuild l, .ebxBlockDecode l, .ebxBlockCheck l] else [])

def State.enterStart (s : State) : State :=
  let s := s.eachBound fun s l => ((List.finRange 6).foldl (fun s e => s.engineStart l e) s).fillStart l
  let todo := s.bound.flatMap fun l => (s.core l).startEvents l s.now
  s.setClock fun k => { k with todo }

/-- The feeds of a core that a stream is delivered to. -/
def Core.fedEvents (c : Core) (l : CoreId) : List Event :=
  ((List.finRange 8).filter fun f => !(c.feeds[f]).order.isEmpty).map fun f => .feedElementEntry l f

/-- Anvil's part of the start of a cycle. -/
def State.enterPass (s : State) : State :=
  let s := s.eachBound fun s l => match ((s.core l).getE 2).queue with
    | cmd :: _ => if ((s.core l).getE 2).active then s.anvilStart l cmd else s
    | [] => s
  let bellows : List Event := if s.boundary then (List.finRange 4).map fun d => .bellowsStep d else []
  let ev (l : CoreId) : List Event :=
    let c := s.core l
    whenEv (s.mmaWaits l).isSome (.anvilPassStart l) ++ whenEv (c.nextFill s.now).isSome (.crucibleFillStart l) ++
    (([2, 5] : List EngId).filter fun e => !((c.getE e).misses s.clock.stamp).isEmpty).map (fun e => .scheduleMiss l e) ++
    whenEv (!c.ember.queue.isEmpty) (.refreshRewrite l) ++ c.copyxEvents l ++ c.fedEvents l
  s.setClock fun k => { k with todo := bellows ++ s.bound.flatMap ev }

/-! ### The end of a cycle -/

def State.enterFinish (s : State) : State :=
  let accepts (l : CoreId) : List Event :=
    let c := s.core l
    List.replicate ((c.gst.filter fun g => g.due ≤ s.now).length + ofBool (c.readyVec s.now).isSome) (.storeAccept l)
  let first := s.bound.flatMap accepts
  let (t, writes) := s.banks
  let last := (t.bound.flatMap t.endings) ++ (t.bound.flatMap t.storeEndings) ++ (t.bound.filter fun l => (t.core l).lineDue t.now).map (fun l => .commitLine l)
  t.setClock fun k => { k with todo := first ++ writes ++ last }

def State.enterClose (s : State) : State :=
  let s := s.eachBound fun s l => s.modCore l fun c => { c with feeds := c.feeds.map fun (f : Feed) => f.settle s.now }
  let ev (l : CoreId) : List Event :=
    let c := s.core l
    whenEv (match (c.getE 3).queue with | cmd :: _ => (c.getE 3).active && ((c.getE 3).phaseEnd cmd s.now).isSome | [] => false) (.temperPhase l) ++
    ((List.finRange 6).filter fun e => (c.getE e).done e).map (fun e => .engineCommandComplete l e) ++
    whenEv (c.ember.rewritten s.now) (.rewriteEnd l)
  s.setClock fun k => { k with todo := s.bound.flatMap ev }

/-! ### Phases -/

/-- What a phase does when it is entered, and its events. -/
def State.enter (s : State) : State :=
  let s := s.setClock fun k => { k with fresh := false }
  match s.clock.phase with
  | .edge => s.enterEdge
  | .start => s.enterStart
  | .pass => s.enterPass
  | .issue => (s.eachBound fun s l => s.modCore l Core.countAnvil).resetFirst.setClock fun k => { k with turn := 0 }
  | .bank => s.setClock fun k => { k with todo := s.bound.flatMap fun l => (s.core l).fedEvents l }
  | .finish => s.enterFinish
  | .close => s.enterClose

/-- The phase after one. -/
def Phase.after : Phase → Phase
  | .edge => .start | .start => .pass | .pass => .issue | .issue => .bank | .bank => .finish | .finish => .close | .close => .edge

/-- The next phase, or the next cycle: the stamp counter and the cycle counters rise, and two half-cycles pass (R4, R188, R314). Decrements that have
waited for the accesses before them go out before any card of the cycle arms its counter (R329). -/
def State.advance (s : State) : State :=
  if s.clock.phase = .close then
    let s := s.eachBound fun s l => (s.modCore l fun c => { c with csr := { c.csr with cycle := c.csr.cycle + 1 } }).settleStops l
    let s := s.setClock fun k => { k with phase := .edge, fresh := true, now := k.now + 1, stamp := k.stamp + 1, sub := k.sub + 2 }
    s.eachBound fun s l => if (s.core l).decs.isEmpty then s else s.sendDecs l
  else s.setClock fun k => { k with phase := k.phase.after, fresh := true }

/-! ### Issue -/

/-- Whether Smith of a core acts in this cycle. -/
def State.acts (s : State) (l : CoreId) : Bool :=
  let c := s.core l
  match c.run with
  | .running => c.vbusy.isNone && decide (c.ready ≤ s.now)
  | .entering .. => true
  | .preempting => s.allStill l
  | _ => false

/-- The first core from `turn` on that acts. -/
def State.nextCore (s : State) : Option CoreId := (List.finRange 64).find? fun l => decide (s.clock.turn ≤ l.val) && s.acts l

/-- A stall whose end is an event of its own (R33); the others leave in the position's own execution. -/
def Stall.released : Stall → Bool
  | .barrier .. | .arrived _ | .emberWord _ | .feed _ | .tdcopy | .gangEnd => false
  | _ => true

/-- A core whose position may issue: not annulled, it has been decoded. -/
def State.issue (s : State) (l : CoreId) : Host.Outcome State Fault Refusal :=
  let c := s.core l
  match fateAt s.mem c with
  | .fault code tval => .next (s.fetchFault l code tval)
  | .illegal reserved parcel => execILLEGAL_INSTRUCTION l reserved parcel s
  | .group tval =>
    .next (s.setCore l (if c.fetch.layout 4 .plain then c.raise 0x05 c.fetch.pc.addr none false s.now else c.raise 0x0E tval none false s.now))
  | .instr i => exec i s

/-- A stalled position is executed again; when its stall has ended, that is an event, and the position issues next (R33, R271). -/
def State.reissue (s old : State) (l : CoreId) (k : Stall) : Host.Outcome State Fault Refusal :=
  let r := s.issue l
  match r with
  | .next t =>
    if k.released && (t.core l).stall.isNone then
      match k with
      | .counters _ => execWAIT_CONDITION_MET l old
      | _ => execISSUE_STALL_RELEASE l old
    else .next t
  | _ => r

/-- One turn of Smith of a core: a stop, a trap, or the position at pc. -/
def State.runCore (s : State) (l : CoreId) : Host.Outcome State Fault Refusal :=
  let c := s.core l
  let t := { s with cur := l, clock := { s.clock with turn := l.val + 1 } }
  match c.run with
  | .preempting => execPREEMPT_REQUEST l t
  | .entering code tval eng single => execTRAP_ENTRY l code tval eng single t
  | _ =>
    let free := !(c.stall.any Stall.holds)
    if free && c.preq then execPREEMPT_REQUEST l t
    else match (if free then c.pendingTrap else none) with
      | some (code, tval, eng, single) => execTRAP_ENTRY l code tval eng single t
      | none =>
        if c.fetch.pc.ann then execANNULLED_POSITION l (t.fetched l)
        else match c.stall with
          | none => (t.fetched l).issue l
          | some k => t.reissue s l k

/-! ### A step without an event -/

/-- The core that spawned the card which an outside event checks. -/
def State.spawnCore (s : State) : Instr → Option Nat
  | .JOB_CARD_ACCEPT (.pool n) _ => (s.hub.card n).bind fun k => k.parent.map (·.2)
  | _ => none

/-- Of the checks of spawned cards due in a cycle the first in ascending order of their cores (R329), by its place among the events due. -/
def State.firstSpawn (s : State) (due : List (Nat × Instr)) : Option Nat :=
  let l := due.zipIdx.filterMap fun x => (s.spawnCore x.1.2).map fun c => (c, x.2)
  ((sortBy (·.1) l).head?).map (·.2)

/-- The outside event that is taken now, with those after it (log 2). Where the first is the check of a spawned card, it is the one of the lowest core
among those due (R329). -/
def State.dueInput (s : State) : Option (Instr × List (Nat × Instr)) :=
  match s.inputs with
  | [] => none
  | (t, i) :: rest =>
    if s.clock.phase = .edge ∧ t ≤ s.now then
      if (s.spawnCore i).isNone then some (i, rest)
      else
        let at_ := (s.firstSpawn (s.inputs.takeWhile fun x => decide (x.1 ≤ s.now))).getD 0
        some ((s.inputs[at_]?.map (·.2)).getD i, s.inputs.eraseIdx at_)
    else none

/-- A decrement of another package arrives (R31, R336): it is taken with those of this package; every other event has its meaning. -/
def State.arrives (s : State) (i : Instr) : Host.Outcome State Fault Refusal :=
  match i with
  | .DEP_DECREMENT ctr => .next (s.setHub { s.hub with sent := s.hub.sent ++ [ctr] })
  | _ => if isOutside i then exec i s else .next s

/-- The soft error that strikes now, with those after it (log 10). -/
def State.dueUpset (s : State) : Option (Upset × List (Nat × Upset)) :=
  match s.upsets with
  | [] => none
  | (t, u) :: rest => if s.clock.phase = .edge ∧ t ≤ s.now then some (u, rest) else none

/-- A step with no event left in its phase. -/
def State.stepPhase (s : State) : Host.Outcome State Fault Refusal :=
  if s.clock.fresh then
    match s.dueUpset, s.dueInput with
    | some (u, rest), _ => .next ({ s with upsets := rest }.suffer u)
    | none, some (i, rest) => State.arrives { s with inputs := rest } i
    | none, none => .next s.enter
  else if s.clock.phase = .issue then
    match s.nextCore with
    | some l => s.runCore l
    | none => .next s.advance
  else .next s.advance

end Sys2Proof.Machine
end

