-- ==== Sys2Proof/Machine/Step.lean ====
section
/-! DEFINITION. One step of the package (log 1): an outside event, an event of the schedule, or one turn of one core. Between them the schedule
enters its next phase. -/

namespace Sys2Proof.Machine

/-- One step. -/
def step (s : State) : Host.Outcome State Fault Refusal :=
  match s.clock.todo with
  | e :: rest => e.run { s with clock := { s.clock with todo := rest } }
  | [] => s.stepPhase

/-! ### Placing an instruction where step fetches it -/

/-- The address at which `withFetchWord` places code, and the tables that map it to itself. -/
def codeAt : Nat := 0x40000
def rootAt : Nat := 0x10000
def tableAt : Nat := 0x20000

/-- The state in which core 0 runs a task whose code page holds an instruction of `nbits` bits `w`, followed by zeros, at pc, and issues next.
It stands for a card that a host has submitted and Salamander has bound (log 34). -/
def State.withFetchWord (s : State) (nbits w : Nat) : State :=
  let mem := ((s.mem.write rootAt (leBytes 8 (1 + tableAt))).write tableAt (leBytes 8 31)).write codeAt (leBytes 16 (w % 2 ^ nbits))
  let c := s.core 0
  let t := { c.theTask with root := rootAt, heapl := 0, leases := [(0, 2 ^ 29, 7)], view := none }
  let c := { c with
    run := .running, task := some t, loop := c.loop.setDep 0, pfx := none, stall := none, wait := none, vbusy := none, ready := s.now
    preq := false, pend18 := false, pend19 := none, stepOf := none, expiry := [], eng := c.eng.map fun (x : Eng) => { x with cause := none } }
  let fl := plainFetch mem c codeAt
  let s := { s with mem, clock := { s.clock with phase := .issue, fresh := false, todo := [], turn := 0 } }
  s.setCore 0 { c with fetch := fl.1, loop := fl.2 }

end Sys2Proof.Machine
end

