-- ==== Sys2Proof/Safety.lean ====
section
/-! DEFINITION. What the claims call a safe run, the invariant of the memories, and the terms in which claims speak of a position that completes. -/

namespace Sys2Proof.Machine

/-- A run of `n` steps is safe when it ends in no fault of the model and in no refusal. -/
def safe (n : Nat) (s : State) : Prop := ∃ t, Sys2Proof.core.run n s = .next t

/-- Every memory has its canonical form: that of the package, Ember and operand SRAM of every core, and Ember of every saved context. -/
def State.memWf (s : State) : Prop :=
  s.mem.wf = true ∧ (∀ l : CoreId, (s.core l).ember.mem.wf = true ∧ (s.core l).sram.wf = true) ∧
  ∀ k ∈ s.hub.cards, ∀ x ∈ k.saved, x.core.ember.mem.wf = true

end Sys2Proof.Machine

namespace Sys2Proof.Claims

open Sys2Proof.Machine

/-- The core whose instruction executes. -/
abbrev me (s : State) : Core := s.core s.cur

/-- That core runs, and the position at its pc, of `size` bytes, meets no layout fault (R85). -/
def runs (s : State) (size : Nat) (k : PosKind) : Bool :=
  (me s).run == .running && !((me s).fetch.layout size k || (k = .header && (me s).unentered s.mem))

/-- `n` is the fetch and loop state after a position whose own fetch state is `f`: in sequence, or with a taken transfer's target as
n3 (R109, R116, R117). -/
def leads (s : State) (f : Fetch) (target : Option Nat) (n : Fetch × Loop) : Prop :=
  (nextFetch s.mem (me s) f target).toOption = some n

/-- A position that is neither a header nor a transfer can execute and its successor can be fetched. -/
def plain (s : State) (size : Nat) (n : Fetch × Loop) : Prop := runs s size .plain = true ∧ leads s (me s).fetch none n

/-- The state after a position that completes and makes its core `c`. -/
def after (s : State) (c : Core) (n : Fetch × Loop) : State := s.setCore s.cur ((c.moved s.now n.1 n.2).stepped (me s))

/-- The values of some sources, read in order, and the core after it: a feed has popped (R80). -/
def readAll (c : Core) : List Nat → Option (List Word × Core)
  | [] => some ([], c)
  | x :: t => match c.source x with
    | .error _ => none
    | .ok (v, c') => (readAll c' t).map fun r => (v :: r.1, r.2)

/-- No interlock (R103) and no deferred fault (R131) of the sources `xs`, of the registers `beside` or of the destination `d` holds, and the
sources have the values `vs`. -/
def reads (c : Core) (xs beside : List Nat) (d : Nat) (vs : List Word) (c' : Core) : Prop :=
  c.hazard (xs ++ beside) d = none ∧ readAll c xs = some (vs, c')

end Sys2Proof.Claims
end

