-- ==== Sys2Proof/Certificates/Slice0/Obligations.lean ====
section
/-! DEFINITION. The statements for the provers, each named `Obligations.<Name>`, with the tables they range over. -/

namespace Sys2Proof.Claims

open Sys2Proof.Machine

/-! ### Scalar instructions -/

/-- What a scalar instruction is claimed to do: its size, the sources it reads in order, the registers it reads beside them, the register it
names for its result, its latency and its result. -/
structure Scalar where
  i : Instr
  size : Nat := 4
  srcs : List Nat
  beside : List Nat := []
  d : Nat
  lat : Nat
  val : Core → List Word → Word

/-- A scalar instruction pushes its result (R101), which lands after its latency (R105), and its position completes. -/
def Scalar.holds (r : Scalar) : Prop :=
  ∀ (s : State) (vs : List Word) (c : Core) (n : Fetch × Loop), plain s r.size n → reads (me s) r.srcs r.beside r.d vs c →
    exec r.i s = .next (after s (c.push r.d (r.val (me s) vs) (s.now + r.lat)) n)

/-- A scalar instruction without sources, with one, with two. -/
def none' (i : Instr) (size d : Nat) (v : Word) : Scalar := { i, size, srcs := [], d, lat := 1, val := fun _ _ => v }
def one (i : Instr) (size d a lat : Nat) (op : Word → Word) : Scalar :=
  { i, size, srcs := [a], d, lat, val := fun _ vs => op (vs.getD 0 0) }
def two (i : Instr) (size d a b lat : Nat) (op : Word → Word → Word) : Scalar :=
  { i, size, srcs := [a, b], d, lat, val := fun _ vs => op (vs.getD 0 0) (vs.getD 1 0) }

/-- Truth as a word. -/
def bit (p : Prop) [Decidable p] : Word := if p then 1 else 0

/-- The low six bits of a shift's second source. -/
def sh (y : Word) : Nat := y.toNat % 64

/-- The bits `[p + n - 1 : p]` of BFX and BFI: LEN is bits [12:6] of `y`, 0 and a field past bit 63 ending at bit 63 (R122). -/
def fieldBits (y : Word) : Nat × Nat :=
  let p := y.toNat % 64
  let n := y.toNat / 64 % 128
  (p, if n = 0 ∨ 64 < p + n then 64 - p else n)

/-- ALU instructions of two sources (R105, R120 to R122). -/
def alu2 (d a b : BitVec 6) : List Scalar :=
  let f (i : Instr) (lat : Nat) (op : Word → Word → Word) : Scalar := two i 4 d.toNat a.toNat b.toNat lat op
  [ f (.ADD d a b) 1 fun x y => BitVec.ofInt 64 (x.toInt + y.toInt),
    f (.SUB d a b) 1 fun x y => BitVec.ofInt 64 (x.toInt - y.toInt),
    f (.MUL d a b) 3 fun x y => BitVec.ofNat 64 (x.toNat * y.toNat),
    f (.MULH d a b) 3 fun x y => BitVec.ofInt 64 (x.toInt * y.toInt / 2 ^ 64),
    f (.MULHU d a b) 3 fun x y => BitVec.ofNat 64 (x.toNat * y.toNat / 2 ^ 64),
    f (.AND d a b) 1 fun x y => x &&& y,
    f (.OR d a b) 1 fun x y => x ||| y,
    f (.XOR d a b) 1 fun x y => x ^^^ y,
    f (.SHL d a b) 1 fun x y => BitVec.ofNat 64 (x.toNat * 2 ^ sh y),
    f (.SHR d a b) 1 fun x y => BitVec.ofNat 64 (x.toNat / 2 ^ sh y),
    f (.SHRA d a b) 1 fun x y => BitVec.ofInt 64 (x.toInt / 2 ^ sh y),
    f (.MIN d a b) 1 fun x y => BitVec.ofInt 64 (min x.toInt y.toInt),
    f (.MAX d a b) 1 fun x y => BitVec.ofInt 64 (max x.toInt y.toInt),
    f (.MINU d a b) 1 fun x y => BitVec.ofNat 64 (min x.toNat y.toNat),
    f (.MAXU d a b) 1 fun x y => BitVec.ofNat 64 (max x.toNat y.toNat),
    f (.CMPEQ d a b) 1 fun x y => bit (x = y),
    f (.CMPNE d a b) 1 fun x y => bit (x ≠ y),
    f (.CMPLT d a b) 1 fun x y => bit (x.toInt < y.toInt),
    f (.CMPLTU d a b) 1 fun x y => bit (x.toNat < y.toNat),
    f (.CMPGE d a b) 1 fun x y => bit (y.toInt ≤ x.toInt),
    f (.CMPGEU d a b) 1 fun x y => bit (y.toNat ≤ x.toNat),
    f (.ADDW d a b) 1 fun x y => ((x + y).truncate 32).signExtend 64,
    f (.SUBW d a b) 1 fun x y => ((x - y).truncate 32).signExtend 64,
    f (.SH1ADD d a b) 1 fun x y => 2 * x + y,
    f (.SH2ADD d a b) 1 fun x y => 4 * x + y,
    f (.SH3ADD d a b) 1 fun x y => 8 * x + y,
    f (.BFX d a b) 1 fun x y => BitVec.ofNat 64 (x.toNat / 2 ^ (fieldBits y).1 % 2 ^ (fieldBits y).2) ]

/-- The instructions that read a register beside their two sources: SEL reads q1 (R120), BFI its d (R122). -/
def alu3 (d a b : BitVec 6) : List Scalar :=
  [ { i := .SEL d a b, srcs := [a.toNat, b.toNat], beside := [32], d := d.toNat, lat := 1
      val := fun c vs => if (vget c.q 0 {}).val ≠ 0 then vs.getD 0 0 else vs.getD 1 0 },
    { i := .BFI d a b, srcs := [a.toNat, b.toNat], beside := [d.toNat], d := d.toNat, lat := 1
      val := fun c vs =>
        let (p, n) := fieldBits (vs.getD 1 0)
        let m : Word := BitVec.ofNat 64 ((2 ^ n - 1) * 2 ^ p)
        (c.getS d.toNat &&& ~~~m) ||| ((vs.getD 0 0 <<< p) &&& m) } ]

/-- ALU instructions of one source (R120). -/
def alu1 (d a : BitVec 6) : List Scalar :=
  let f (i : Instr) (op : Word → Nat) : Scalar := one i 4 d.toNat a.toNat 1 fun x => BitVec.ofNat 64 (op x)
  [ f (.CLZ d a) fun x => ((List.range 64).takeWhile fun i => !x.getLsbD (63 - i)).length,
    f (.CTZ d a) fun x => ((List.range 64).takeWhile fun i => !x.getLsbD i).length,
    f (.POPC d a) fun x => (List.range 64).countP fun i => x.getLsbD i ]

/-- The immediate forms (R123) and LI and LUI (R124). -/
def aluImm (d a k : BitVec 6) (i : BitVec 13) (j : BitVec 19) : List Scalar :=
  let f (x : Instr) (op : Word → Word) : Scalar := one x 4 d.toNat a.toNat 1 op
  let w : Word := BitVec.ofInt 64 i.toInt
  [ f (.ADDI d a i) fun x => x + w,
    f (.ANDI d a i) fun x => x &&& w,
    f (.ORI d a i) fun x => x ||| w,
    f (.XORI d a i) fun x => x ^^^ w,
    f (.SHLI d a k) fun x => BitVec.ofNat 64 (x.toNat * 2 ^ k.toNat),
    f (.SHRI d a k) fun x => BitVec.ofNat 64 (x.toNat / 2 ^ k.toNat),
    f (.SHRAI d a k) fun x => BitVec.ofInt 64 (x.toInt / 2 ^ k.toNat),
    f (.CMPLTI d a i) fun x => bit (x.toInt < i.toInt),
    f (.CMPEQI d a i) fun x => bit (x = w),
    none' (.LI d j) 4 d.toNat (BitVec.ofInt 64 j.toInt),
    none' (.LUI d j) 4 d.toNat (BitVec.ofInt 64 (j.toInt * 8192)) ]

/-- The 16-bit forms that expand to ALU instructions (R90). -/
def aluShort (d : BitVec 5) (a k : BitVec 6) : List Scalar :=
  [ one (.C_ADDI d k) 2 d.toNat d.toNat 1 fun x => x + BitVec.ofInt 64 k.toInt,
    two (.C_ADD d a) 2 d.toNat d.toNat a.toNat 1 fun x y => x + y,
    two (.C_MV d a) 2 d.toNat a.toNat 0 1 fun x _ => x,
    none' (.C_LI d k) 2 d.toNat (BitVec.ofInt 64 k.toInt),
    one (.C_SHLI d k) 2 d.toNat d.toNat 1 fun x => BitVec.ofNat 64 (x.toNat * 2 ^ k.toNat),
    two (.C_SUB d a) 2 d.toNat d.toNat a.toNat 1 fun x y => x - y,
    two (.C_AND d a) 2 d.toNat d.toNat a.toNat 1 fun x y => x &&& y ]

/-! ### Scalar floating point -/

/-- The encoding that a scalar floating-point instruction of format `f` reads from a source (R132). -/
def enc (f : Nat) (x : Word) : Nat := x.toNat % 2 ^ bitsOf f

def float2 (i : Instr) (f : Nat) (d a b : BitVec 6) (lat : Nat) (op : Rm → Nat → Nat → Nat) : Scalar :=
  { i, srcs := [a.toNat, b.toNat], d := d.toNat, lat,
    val := fun c vs => BitVec.ofNat 64 (op (rmOf c.csr.frm.toNat) (enc f (vs.getD 0 0)) (enc f (vs.getD 1 0))) }

/-- Scalar floating point of two sources (R132, R133); `f` is 1 for FP32 and 0 for FP64. The exact result is rounded once in the mode of
`frm`. -/
def floats2 (d a b : BitVec 6) : List Scalar :=
  let add (f : Nat) (rm : Rm) (x y : Nat) : Nat := roundV f ((fltVal f x).add rm (fltVal f y)) rm
  let sub (f : Nat) (rm : Rm) (x y : Nat) : Nat := roundV f ((fltVal f x).add rm (fltVal f y).neg) rm
  let mul (f : Nat) (rm : Rm) (x y : Nat) : Nat := roundV f ((fltVal f x).mul (fltVal f y)) rm
  let test (p : Val → Val → Bool) (f : Nat) (_ : Rm) (x y : Nat) : Nat := if p (fltVal f x) (fltVal f y) then 1 else 0
  [ float2 (.FADD_S d a b) 1 d a b 4 (add 1), float2 (.FADD_D d a b) 0 d a b 4 (add 0),
    float2 (.FSUB_S d a b) 1 d a b 4 (sub 1), float2 (.FSUB_D d a b) 0 d a b 4 (sub 0),
    float2 (.FMUL_S d a b) 1 d a b 4 (mul 1), float2 (.FMUL_D d a b) 0 d a b 4 (mul 0),
    float2 (.FMIN_S d a b) 1 d a b 2 (fun _ => minEnc 1), float2 (.FMIN_D d a b) 0 d a b 2 (fun _ => minEnc 0),
    float2 (.FMAX_S d a b) 1 d a b 2 (fun _ => maxEnc 1), float2 (.FMAX_D d a b) 0 d a b 2 (fun _ => maxEnc 0),
    float2 (.FCMPEQ_S d a b) 1 d a b 2 (test Val.eq 1), float2 (.FCMPEQ_D d a b) 0 d a b 2 (test Val.eq 0),
    float2 (.FCMPLT_S d a b) 1 d a b 2 (test Val.lt 1), float2 (.FCMPLT_D d a b) 0 d a b 2 (test Val.lt 0),
    float2 (.FCMPLE_S d a b) 1 d a b 2 (test Val.le 1), float2 (.FCMPLE_D d a b) 0 d a b 2 (test Val.le 0) ]

/-- FMA adds the product to its d, rounded once (R132, R133). -/
def floats3 (d a b : BitVec 6) : List Scalar :=
  let f (i : Instr) (f : Nat) : Scalar :=
    { i, srcs := [a.toNat, b.toNat], beside := [d.toNat], d := d.toNat, lat := 4
      val := fun c vs =>
        let rm := rmOf c.csr.frm.toNat
        let v (x : Word) : Val := fltVal f (enc f x)
        BitVec.ofNat 64 (roundV f (((v (vs.getD 0 0)).mul (v (vs.getD 1 0))).add rm (v (c.getS d.toNat))) rm) }
  [ f (.FMA_S d a b) 1, f (.FMA_D d a b) 0 ]

def float1 (i : Instr) (d a : BitVec 6) (lat : Nat) (op : Rm → Word → Nat) : Scalar :=
  { i, srcs := [a.toNat], d := d.toNat, lat, val := fun c vs => BitVec.ofNat 64 (op (rmOf c.csr.frm.toNat) (vs.getD 0 0)) }

/-- FCLASS (R134) and the conversions (R135): formats 0 FP64, 1 FP32, 2 BF16, 3 FP16. -/
def floats1 (d a : BitVec 6) : List Scalar :=
  let cvt (f g : Nat) (rm : Rm) (x : Word) : Nat := convert f g (enc f x) rm
  let ofLong (g : Nat) (rm : Rm) (x : Word) : Nat := roundV g (Val.ofInt x.toInt) rm
  let toLong (f : Nat) (rm : Rm) (x : Word) : Nat :=
    (BitVec.ofInt 64 (toIntClamp (-9223372036854775808) 9223372036854775807 (fltVal f (enc f x)) rm)).toNat
  [ float1 (.FCLASS_S d a) d a 2 (fun _ x => fclass 1 (enc 1 x)), float1 (.FCLASS_D d a) d a 2 (fun _ x => fclass 0 (enc 0 x)),
    float1 (.FCVT_S_D d a) d a 3 (cvt 0 1), float1 (.FCVT_D_S d a) d a 3 (cvt 1 0),
    float1 (.FCVT_S_BF d a) d a 3 (cvt 2 1), float1 (.FCVT_BF_S d a) d a 3 (cvt 1 2),
    float1 (.FCVT_S_H d a) d a 3 (cvt 3 1), float1 (.FCVT_H_S d a) d a 3 (cvt 1 3),
    float1 (.FCVT_S_L d a) d a 3 (ofLong 1), float1 (.FCVT_D_L d a) d a 3 (ofLong 0),
    float1 (.FCVT_L_S d a) d a 3 (toLong 1), float1 (.FCVT_L_D d a) d a 3 (toLong 0) ]

/-! ### Units that serve one instruction at a time -/

/-- The instructions of the integer divider (unit 1) and of the FDIV and FSQRT unit (unit 2): latency, sources and result (R105, R106, R121,
R133). -/
def divides (d a b : BitVec 6) : List (Nat × Scalar) :=
  let two' (i : Instr) (lat : Nat) (op : Rm → Word → Word → Word) : Scalar :=
    { i, srcs := [a.toNat, b.toNat], d := d.toNat, lat, val := fun c vs => op (rmOf c.csr.frm.toNat) (vs.getD 0 0) (vs.getD 1 0) }
  let least : Word := BitVec.ofNat 64 (2 ^ 63)
  [ (1, two' (.DIV d a b) 34 fun _ x y =>
      if y = 0 then -1 else if x = least ∧ y = -1 then least else BitVec.ofInt 64 (x.toInt.tdiv y.toInt)),
    (1, two' (.DIVU d a b) 34 fun _ x y => if y = 0 then -1 else BitVec.ofNat 64 (x.toNat / y.toNat)),
    (1, two' (.REM d a b) 34 fun _ x y =>
      if y = 0 then x else if x = least ∧ y = -1 then 0 else BitVec.ofInt 64 (x.toInt.tmod y.toInt)),
    (1, two' (.REMU d a b) 34 fun _ x y => if y = 0 then x else BitVec.ofNat 64 (x.toNat % y.toNat)),
    (2, two' (.FDIV_S d a b) 12 fun rm x y => BitVec.ofNat 64 (divV 1 rm (fltVal 1 (enc 1 x)) (fltVal 1 (enc 1 y)))),
    (2, two' (.FDIV_D d a b) 22 fun rm x y => BitVec.ofNat 64 (divV 0 rm (fltVal 0 (enc 0 x)) (fltVal 0 (enc 0 y)))),
    (2, float1 (.FSQRT_S d a) d a 12 fun rm x => sqrtV 1 rm (fltVal 1 (enc 1 x))),
    (2, float1 (.FSQRT_D d a) d a 22 fun rm x => sqrtV 0 rm (fltVal 0 (enc 0 x))) ]

end Sys2Proof.Claims

open Sys2Proof Sys2Proof.Machine Sys2Proof.Claims

/-- R120, R105: an ALU instruction of two sources pushes its result, at every operand. -/
def Sys2Proof.Claims.AluOfTwoSources : Prop := ∀ d a b : BitVec 6, ∀ r ∈ alu2 d a b, r.holds

/-- R120, R122: SEL chooses by q1 as it stands before its own push, and BFI inserts into its own d register. -/
def Sys2Proof.Claims.SelAndBfi : Prop := ∀ d a b : BitVec 6, ∀ r ∈ alu3 d a b, r.holds

/-- R120: CLZ, CTZ and POPC. -/
def Sys2Proof.Claims.AluOfOneSource : Prop := ∀ d a : BitVec 6, ∀ r ∈ alu1 d a, r.holds

/-- R123, R124: immediates are sign-extended. -/
def Sys2Proof.Claims.AluImmediates : Prop := ∀ (d a k : BitVec 6) (i : BitVec 13) (j : BitVec 19), ∀ r ∈ aluImm d a k i j, r.holds

/-- R90: the 16-bit forms. -/
def Sys2Proof.Claims.AluShortForms : Prop := ∀ (d : BitVec 5) (a k : BitVec 6), ∀ r ∈ aluShort d a k, r.holds

/-- R132, R133: floating point of two sources. -/
def Sys2Proof.Claims.FloatOfTwoSources : Prop := ∀ d a b : BitVec 6, ∀ r ∈ floats2 d a b, r.holds

/-- R133: FMA. -/
def Sys2Proof.Claims.FloatMultiplyAdd : Prop := ∀ d a b : BitVec 6, ∀ r ∈ floats3 d a b, r.holds

/-- R134, R135: FCLASS and the conversions. -/
def Sys2Proof.Claims.FloatOfOneSource : Prop := ∀ d a : BitVec 6, ∀ r ∈ floats1 d a, r.holds

/-- R106, R121, R133: a division or square root completes on a unit that is free, and waits on one whose last result has not landed. -/
def Obligations.DividesAndRoots : Prop :=
  ∀ d a b : BitVec 6, ∀ u ∈ divides d a b, ∀ (s : State) (vs : List Word) (c : Core) (n : Fetch × Loop),
    plain s 4 n → reads (me s) u.2.srcs [] u.2.d vs c →
    exec u.2.i s =
      if (me s).fly.any (·.busy == u.1) then .next (s.setCore s.cur ((me s).halt s.now (.stall .unitBusy)))
      else .next (after s (c.pushFly { id := 0, dst := u.2.d, val := u.2.val (me s) vs, due := some (s.now + u.2.lat), busy := u.1 }) n)

namespace Sys2Proof.Claims

open Sys2Proof.Machine

/-! ### Branches, jumps and headers -/

/-- A branch: its size, its two sources, its null field, its offset in parcels and its condition. -/
structure Branch where
  i : Instr
  size : Nat := 4
  a : Nat
  b : Nat
  nul : Nat
  off : Int
  taken : Word → Word → Bool

/-- The branches (R90, R125). -/
def branches (a b : BitVec 6) (n : BitVec 2) (o : BitVec 11) (a5 : BitVec 5) (o6 : BitVec 6) : List Branch :=
  let f (i : Instr) (taken : Word → Word → Bool) : Branch := { i, a := a.toNat, b := b.toNat, nul := n.toNat, off := o.toInt, taken }
  [ f (.BEQ a b n o) fun x y => x = y,
    f (.BNE a b n o) fun x y => x ≠ y,
    f (.BLT a b n o) fun x y => x.toInt < y.toInt,
    f (.BGE a b n o) fun x y => y.toInt ≤ x.toInt,
    f (.BLTU a b n o) fun x y => x.toNat < y.toNat,
    f (.BGEU a b n o) fun x y => y.toNat ≤ x.toNat,
    { i := .C_BZ a5 o6, size := 2, a := a5.toNat, b := 0, nul := 0, off := o6.toInt, taken := fun x y => x = y },
    { i := .C_BNZ a5 o6, size := 2, a := a5.toNat, b := 0, nul := 0, off := o6.toInt, taken := fun x y => x ≠ y } ]

/-- The fetch state that a control transfer leaves to its two delay slots: marked as slots, and annulled or not (R85, R109, R110). -/
def delaySlots (c : Core) (annul : Bool) : Fetch :=
  let mark (p : Pos) (k : Nat) : Pos := { p with slot := if p.tgt then p.slot else max p.slot k, ann := p.ann || annul }
  { c.fetch with n1 := mark c.fetch.n1 1, n2 := mark c.fetch.n2 2 }

/-- The target `A + 2 × off` (R78). -/
def target (c : Core) (off : Int) : Nat := (c.fetch.pc.addr + BitVec.ofInt 64 (2 * off)).toNat

/-- The address after the second delay slot, where JAL and JALR link (R126). -/
def linkAt (s : State) : Word :=
  let c := me s
  c.fetch.n2.addr + BitVec.ofNat 64 (sizeAt s.mem c.theTask c.loop c.fetch.n2.addr.toNat)

/-! ### Loads and stores -/

/-- A scalar load: its size, result register, address register, class field, scaled offset, bytes and extension (R127). -/
structure Load where
  i : Instr
  size : Nat := 4
  t : Nat
  a : Nat
  cls : Nat
  off : Int
  n : Nat
  sx : Bool

/-- The scalar loads (R90, R127). -/
def loads (t a : BitVec 6) (c : BitVec 4) (i : BitVec 6) (d : BitVec 5) (b o : BitVec 3) : List Load :=
  let f (x : Instr) (n : Nat) (sx : Bool) : Load := { i := x, t := t.toNat, a := a.toNat, cls := c.toNat, off := n * i.toInt, n, sx }
  [ f (.LD_B t a c i) 1 true, f (.LD_BU t a c i) 1 false, f (.LD_H t a c i) 2 true, f (.LD_HU t a c i) 2 false,
    f (.LD_W t a c i) 4 true, f (.LD_WU t a c i) 4 false, f (.LD_D t a c i) 8 false,
    { i := .C_LDD d b o, size := 2, t := d.toNat, a := 8 + b.toNat, cls := 0, off := 8 * o.toNat, n := 8, sx := false } ]

/-- The effective address of an access of `off` bytes past the value `x` of its register. -/
def eaOf (x : Word) (off : Int) : Word := x + BitVec.ofInt 64 off

/-- The class in force: a C.CLS prefix's, else the instruction's own (R91); and whether it acquires or releases, and the release's scope. -/
def clsOf (c : Core) (cls : Nat) : Nat := (c.access cls).1
def acqOf (c : Core) : Bool := (c.access 0).2.1
def relOf (c : Core) : Option Nat := if (c.access 0).2.2.1 then some (c.access 0).2.2.2 else none

/-- The producer that a load pushes. -/
def Load.fly (r : Load) (c : Core) (x : Word) : Fly :=
  { id := 0, dst := r.t, cls := clsOf c r.cls, acq := acqOf c, ea := eaOf x r.off, size := r.n, ext := if r.sx then .sx else .zx }

/-- A load of own Ember meets no check of R129 and no stall: its row group is held, its address is aligned, no byte it reads is pending
under DBG.PEND (R208), and the ordering of its class lets it begin. -/
def Load.free (r : Load) (s : State) (x : Word) : Bool :=
  let c := me s
  (eaOf x r.off).toNat % r.n == 0 && !c.classStall s.now (clsOf c r.cls) &&
  match spaceOf (eaOf x r.off).toNat with
  | .ember o => (c.ember.rowAt o).isSome && !(c.csr.dbgPend && c.pendingByte s.now o r.n)
  | .sram _ => true
  | .glob va => (match globalAt s.mem c.theTask va needRd with | .ok _ => true | .error _ => false) && decide (c.ld ≤ 16)
  | .none => false

/-- A scalar store: as a load, with the register stored (R128). -/
structure Store where
  i : Instr
  size : Nat := 4
  t : Nat
  a : Nat
  cls : Nat
  off : Int
  n : Nat

/-- The scalar stores (R90, R128). -/
def stores (t a : BitVec 6) (c : BitVec 4) (i : BitVec 6) (d : BitVec 5) (b o : BitVec 3) : List Store :=
  let f (x : Instr) (n : Nat) : Store := { i := x, t := t.toNat, a := a.toNat, cls := c.toNat, off := n * i.toInt, n }
  [ f (.ST_B t a c i) 1, f (.ST_H t a c i) 2, f (.ST_W t a c i) 4, f (.ST_D t a c i) 8,
    { i := .C_STD d b o, size := 2, t := d.toNat, a := 8 + b.toNat, cls := 0, off := 8 * o.toNat, n := 8 } ]

/-- A store meets no check of R129 and no stall of R248, R257 or R270, and no overflow (R259). -/
def Store.free (r : Store) (s : State) (x : Word) : Bool :=
  let c := me s
  let ea := (eaOf x r.off).toNat
  ea % r.n == 0 && !c.classStall s.now (clsOf c r.cls) &&
  match spaceOf ea with
  | .ember o => (c.ember.rowAt o).isSome
  | .sram _ => true
  | .glob va =>
    (match globalAt s.mem c.theTask va needW with | .ok _ => true | .error _ => false) &&
    ((relOf c).isSome || (!overflows s c ea c.nextId && !bufferFull c ea c.nextId && decide (c.st ≤ 15)))
  | .none => false

/-- The core before a store: a release closes the lines of the commit buffer before it (R256). -/
def beforeStore (s : State) (c : Core) : Core := if (relOf (me s)).isSome then c.close else c

/-- What a store leaves on its way: the exposed store of own Ember, or the store to operand SRAM or to global memory. A release takes the place
of its task's own bytes in the commit buffer; a global store is its unit's most recent translation (R237). -/
def Store.made (r : Store) (s : State) (c : Core) (x v : Word) : Core :=
  let ea := eaOf x r.off
  let rel := relOf (me s)
  let bs := (List.range r.n).map fun i => BitVec.ofNat 8 (v.toNat / 256 ^ i)
  let c := beforeStore s c
  let g : GStore := { addr := ea.toNat, data := bs.map some, cls := clsOf (me s) r.cls, prog := c.nextId, rel, due := s.now }
  match spaceOf ea.toNat with
  | .ember o =>
    { c with
      exposed := c.exposed ++ [{ id := c.nextId, t := s.now, off := o, data := bs, cls := clsOf (me s) r.cls, rel := rel.isSome,
                                 pendBit := (me s).csr.dbgPend }]
      nextId := c.nextId + 1 }
  | .sram _ => { c with gst := c.gst ++ [g], nextId := c.nextId + 1 }
  | _ =>
    let c := (if rel.isSome then c.supersede ea.toNat r.n else c).noted 0 ea.toNat
      ((globalAt s.mem (me s).theTask ea.toNat needW).toOption.getD 0)
    { c with gst := c.gst ++ [{ g with due := s.now + 1 + s.delay.1 }], nextId := c.nextId + 1 }

/-- Whether an access goes to global memory, whose time of performing is free (log 9). -/
def isGlobal (ea : Word) : Bool := match spaceOf ea.toNat with | .glob _ => true | _ => false

/-! ### Control and status registers -/

/-- A write that R185 refuses: of a read-only register, or of one of the trap registers outside the handler. -/
def csrRefuses (c : Core) (n : Nat) : Bool := csrAccess n = .r || (csrAccess n = .h && !c.csr.h)

end Sys2Proof.Claims

/-- R109, R110, R125: a branch reads its sources and either makes its target n3 or goes on in sequence; its null field annuls both delay slots
of a taken branch (2) or of one not taken (1). -/
def Sys2Proof.Claims.Branches : Prop :=
  ∀ (a b : BitVec 6) (nu : BitVec 2) (o : BitVec 11) (a5 : BitVec 5) (o6 : BitVec 6), ∀ r ∈ branches a b nu o a5 o6,
  ∀ (s : State) (x y : Word) (c : Core) (n : Fetch × Loop),
    runs s r.size .transfer = true → reads (me s) [r.a, r.b] [] 0 [x, y] c →
    leads s (delaySlots (me s) (r.nul == if r.taken x y then 2 else 1)) (if r.taken x y then some (target (me s) r.off) else none) n →
    exec r.i s = .next (after s c n)

/-- R126, R90: a jump is always taken and annuls nothing. JAL links. -/
def Sys2Proof.Claims.Jumps : Prop :=
  (∀ (o : BitVec 19) (s : State) (n : Fetch × Loop), runs s 4 .transfer = true →
    leads s (delaySlots (me s) false) (some (target (me s) o.toInt)) n → exec (.J o) s = .next (after s (me s) n)) ∧
  (∀ (o : BitVec 11) (s : State) (n : Fetch × Loop), runs s 2 .transfer = true →
    leads s (delaySlots (me s) false) (some (target (me s) o.toInt)) n → exec (.C_J o) s = .next (after s (me s) n)) ∧
  ∀ (d : BitVec 6) (o : BitVec 19) (s : State) (n : Fetch × Loop), runs s 4 .transfer = true →
    reads (me s) [] [] d.toNat [] (me s) → leads s (delaySlots (me s) false) (some (target (me s) o.toInt)) n →
    exec (.JAL d o) s = .next (after s ((me s).push d.toNat (linkAt s) (s.now + 1)) n)

/-- R126: JALR goes to the sum of its source and its immediate; a target beyond 48 bits faults with 0x09, and else an odd one with 0x07. -/
def Sys2Proof.Claims.JumpToRegister : Prop :=
  ∀ (d a : BitVec 6) (i : BitVec 13) (s : State) (x : Word) (c : Core), runs s 4 .transfer = true →
    reads (me s) [a.toNat] [] d.toNat [x] c →
    let t := x + BitVec.ofInt 64 i.toInt
    (2 ^ 48 ≤ t.toNat → exec (.JALR d a i) s = .next (s.setCore s.cur ((me s).raise 0x09 t none false s.now))) ∧
    (t.toNat < 2 ^ 48 → t.toNat % 2 = 1 → exec (.JALR d a i) s = .next (s.setCore s.cur ((me s).raise 0x07 t none false s.now))) ∧
    (t.toNat < 2 ^ 48 → t.toNat % 2 = 0 → ∀ n, leads s (delaySlots (me s) false) (some t.toNat) n →
      exec (.JALR d a i) s = .next (after s (c.push d.toNat (linkAt s) (s.now + 1)) n))

/-- R109: after a position, pc takes n1 and n1 takes n2. A taken transfer's target becomes n3, as a target; otherwise n3 follows n2 in
sequence, outside any loop and header at the address after n2. -/
def Sys2Proof.Claims.FetchAdvances : Prop :=
  ∀ (s : State) (f : Fetch) (n : Fetch × Loop),
    (∀ t, t < 2 ^ 64 → leads s f (some t) n → n.1.pc = f.n1 ∧ n.1.n1 = f.n2 ∧ n.1.n2.addr.toNat = t ∧ n.1.n2.tgt = true) ∧
    (leads s f none n → n.1.pc = f.n1 ∧ n.1.n1.addr = f.n2.addr ∧ n.1.n2.tgt = false ∧
      ((me s).loop.ldep = 0 → (∀ e, f.n2.entry ≠ .skipped e) →
        n.1.n2.addr = f.n2.addr + BitVec.ofNat 64 (sizeAt s.mem (me s).theTask (me s).loop f.n2.addr.toNat)))

/-- R115, R84, R85: a header at pc that breaks no layout rule takes its cycle and nothing else; its block entry was made when it became n3. NOP and its 16-bit form change
nothing but the fetch state (R90, R199). -/
def Sys2Proof.Claims.HeadersAndNop : Prop :=
  ∀ (l : BitVec 10) (r : BitVec 12) (t : BitVec 6) (s : State) (n : Fetch × Loop), leads s (me s).fetch none n →
    (runs s 4 .header = true → exec (.BLK_IMMEDIATE l r) s = .next (after s (me s) n) ∧ exec (.BLK_REGISTER l t) s = .next (after s (me s) n)) ∧
    (runs s 4 .plain = true → exec .NOP s = .next (after s (me s) n)) ∧
    (runs s 2 .plain = true → exec .C_NOP s = .next (after s (me s) n))

/-- R127, R129, R131, R229, R237: a load pushes a producer. One of own Ember asks its bank; one of operand SRAM takes its bytes at issue, with the
task's own stores still on their way, and has them in 8 cycles (log 24, its error record log 97), or, behind a load of its class that still waits
for its bank, waits too (log 119); a global one counts in LD and its walk ends at a free time (log 9). The global loads issued before it have their
values fixed (log 25). -/
def Obligations.Loads : Prop :=
  ∀ (t a : BitVec 6) (k : BitVec 4) (i : BitVec 6) (d : BitVec 5) (b o : BitVec 3), ∀ r ∈ loads t a k i d b o,
  ∀ (s : State) (x : Word) (c : Core) (n : Fetch × Loop), plain s r.size n → reads (me s) [r.a] [] r.t [x] c → r.free s x = true →
    exec r.i s = .next (match spaceOf (eaOf x r.off).toNat with
      | .ember p =>
        (after s { c.pushFly (r.fly (me s) x) with reads := c.reads ++ [{ who := .load c.nextId, off := p, len := r.n, issue := s.now }] } n).fixLoads
          s.cur c.nextId
      | .sram p =>
        let own := (List.range r.n).map fun j => (me s).gst.reverse.findSome? (·.at_ (sramWindow + p + j))
        let (bad, worn) := (me s).sram.errorsIn p (own.map Option.isNone)
        let bs := own.zipIdx.map fun y => y.1.getD ((me s).sram.get (p + y.2))
        let f := { r.fly (me s) x with due := some (s.now + 8), val := extend (if r.sx then .sx else .zx) bs,
                                       mark := if bad = 0 then none else some 0x1A }
        if (me s).readOpen (clsOf (me s) r.cls) (me s).nextId then
          (after s { c.pushFly (r.fly (me s) x) with
            reads := c.reads ++ [{ who := .load c.nextId, off := p, len := r.n, issue := s.now, unit := 1 }] } n).fixLoads s.cur c.nextId
        else ((after s (c.pushFly f) n).fixLoads s.cur c.nextId).foundErrors s.cur 1 worn bad p
      | _ =>
        let ea := (eaOf x r.off).toNat
        let p := (globalAt s.mem (me s).theTask ea needRd).toOption.getD 0
        let f := { r.fly (me s) x with ld := true, arch := false, walk := some (s.now + 1 + s.delay.1), fwd := (me s).forwards ea r.n,
                                       val := BitVec.ofNat 64 p }
        (s.delay.2.setCore s.cur ((after s (c.pushFly f) n).core s.cur)).fixLoads s.cur c.nextId)

/-- R128, R130, R228, R251, R256: a store leaves its bytes on their way, those of its own effective address; no memory changes yet. The global
loads issued before it have their values fixed (log 25). -/
def Sys2Proof.Claims.Stores : Prop :=
  ∀ (t a : BitVec 6) (k : BitVec 4) (i : BitVec 6) (d : BitVec 5) (b o : BitVec 3), ∀ r ∈ stores t a k i d b o,
  ∀ (s : State) (x v : Word) (c : Core) (n : Fetch × Loop), plain s r.size n → reads (me s) [r.a, r.t] [] 0 [x, v] c → r.free s x = true →
    let u := after s (r.made s c x v) n
    let id := (beforeStore s c).nextId
    exec r.i s = .next (if isGlobal (eaOf x r.off) then (s.delay.2.setCore s.cur (u.core s.cur)).fixLoads s.cur id else u.fixLoads s.cur id)

/-- R129: a scalar access faults, in this order: outside every window 0x09; misaligned 0x07; own Ember without a row group 0x09; a global
address by its translation and lease. The fault is precise and its `tval` is the effective address. A load that its unit had predicted is squashed
and counts (R237). -/
def Sys2Proof.Claims.AccessFaults : Prop :=
  ∀ (t a : BitVec 6) (k : BitVec 4) (i : BitVec 6) (d : BitVec 5) (b o : BitVec 3) (s : State) (x v : Word) (c : Core),
    let bad (ins : Instr) (ea : Word) (n need : Nat) : Prop :=
      let u := if need = needRd then s.misread s.cur 0 n ea.toNat else s
      let faults (code : Byte) : Prop := exec ins s = .next (u.setCore s.cur ((u.core s.cur).raise code ea none false s.now))
      (spaceOf ea.toNat = .none → faults 0x09) ∧
      (spaceOf ea.toNat ≠ .none → ea.toNat % n ≠ 0 → faults 0x07) ∧
      (∀ p, spaceOf ea.toNat = .ember p → ea.toNat % n = 0 → (me s).ember.rowAt p = none → faults 0x09) ∧
      ∀ p e, spaceOf ea.toNat = .glob p → ea.toNat % n = 0 → globalAt s.mem (me s).theTask p need = .error e → faults e
    (∀ r ∈ loads t a k i d b o, runs s r.size .plain = true → reads (me s) [r.a] [] r.t [x] c → bad r.i (eaOf x r.off) r.n needRd) ∧
    ∀ r ∈ stores t a k i d b o, runs s r.size .plain = true → reads (me s) [r.a, r.t] [] 0 [x, v] c → bad r.i (eaOf x r.off) r.n needW

/-- R185, R188: CSRR pushes the old value. CSRW, CSRS and CSRC push it too and write after their position: the source, the old value with the
source's bits set, with them cleared; CSRS and CSRC with the source `s0` write nothing. A refused write faults with 0x06 and its `tval` is the
register's number. -/
def Sys2Proof.Claims.CsrAccess : Prop :=
  ∀ (d a : BitVec 6) (k : BitVec 11) (s : State) (x : Word) (c : Core) (n : Fetch × Loop), plain s 4 n →
    let old := csrRead s s.cur (me s) k.toNat
    let pushed (c : Core) : Core := (after s (c.push d.toNat old (s.now + 1)) n).core s.cur
    (reads (me s) [0] [] d.toNat [x] c → exec (.CSRR d k) s = .next (s.setCore s.cur (pushed c))) ∧
    (reads (me s) [a.toNat] [] d.toNat [x] c →
      (a = 0 → exec (.CSRS d a k) s = .next (s.setCore s.cur (pushed c)) ∧ exec (.CSRC d a k) s = .next (s.setCore s.cur (pushed c))) ∧
      (csrRefuses (me s) k.toNat = false → ∃ w : Nat,
        let goes (v : Word) : Host.Outcome State Fault Refusal := .next (s.fresh.2.setCore s.cur (csrStore s.mem (pushed c) k.toNat v x w))
        exec (.CSRW d a k) s = goes x ∧
        (a ≠ 0 → exec (.CSRS d a k) s = goes (old ||| x) ∧ exec (.CSRC d a k) s = goes (old &&& ~~~x)) ∧
        ∀ v, (pushed c).breaches k.toNat v = false → csrStore s.mem (pushed c) k.toNat v x w = csrWrite (pushed c) k.toNat v x w) ∧
      (csrRefuses (me s) k.toNat = true →
        let refused := Host.Outcome.next (s.setCore s.cur ((me s).raise 0x06 (BitVec.ofNat 64 k.toNat) none false s.now))
        exec (.CSRW d a k) s = refused ∧ (a ≠ 0 → exec (.CSRS d a k) s = refused ∧ exec (.CSRC d a k) s = refused)))

/-- R185, R187, R188, R118, R208: what a write of each CSR that a task may write stores: `status` its annul and target bits, LDEP (in the handler that of
the interrupted task; log 26) and XOVF by ones of the source; `cause` its ABANDON bit; `thandler`, `lbs` and `lbe` of an inactive level 48 bits; `frm`,
`grp`, `ctl` and `dbg` their fields, PEND = 0 ending what is pending; `fpc`, `npc`, `nnpc`, `tval`, `tscratch`, `stbase` and `lc` all of it. -/
def Sys2Proof.Claims.CsrWrites : Prop :=
  ∀ (c : Core) (v a : Word) (w : Nat),
    (c.breaches 0 v = false →
      let t := csrWrite c 0 v a w
      t.csr = { c.csr with xovf := c.csr.xovf && !a.getLsbD 11, ann := (v >>> 1).truncate 2, tgt := (v >>> 3).truncate 3 } ∧
      (c.csr.h = false → t.loop = c.loop.setDep (v.toNat / 64 % 4) ∧ t.shadow = c.shadow) ∧
      (c.csr.h = true → t.loop = c.loop ∧ t.shadow.loop = c.shadow.loop.setDep (v.toNat / 64 % 4))) ∧
    csrWrite c 0x01 v a w = { c with csr := { c.csr with cause := (c.csr.cause &&& ~~~0x1000#64) ||| (v &&& 0x1000#64) } } ∧
    csrWrite c 0x02 v a w = { c with csr := { c.csr with tval := v } } ∧ csrWrite c 0x03 v a w = { c with csr := { c.csr with fpc := v } } ∧
    csrWrite c 0x04 v a w = { c with csr := { c.csr with npc := v } } ∧ csrWrite c 0x05 v a w = { c with csr := { c.csr with nnpc := v } } ∧
    csrWrite c 0x12 v a w = { c with csr := { c.csr with spill := v.getLsbD 0 } } ∧
    (let t := csrWrite c 0x13 v a w
     t.csr = { c.csr with dbgPend := v.getLsbD 0, lchk := v.getLsbD 1, ss := v.getLsbD 2 } ∧
     (v.getLsbD 0 = true → t.exposed = c.exposed ∧ t.land = c.land) ∧
     (v.getLsbD 0 = false → (∀ x ∈ t.exposed, x.pendBit = false) ∧ ∀ x ∈ t.land, x.pendBit = false)) ∧
    (∀ j : Fin 3, csrWrite c (0x20 + j.val) v a w = { c with loop := { c.loop with lc := c.loop.lc.set j v } } ∧
      (c.loop.active j.val = false →
        csrWrite c (0x24 + j.val) v a w = { c with loop := { c.loop with lbs := c.loop.lbs.set j (v &&& 0x0000FFFFFFFFFFFF) } } ∧
        csrWrite c (0x28 + j.val) v a w = { c with loop := { c.loop with lbe := c.loop.lbe.set j (v &&& 0x0000FFFFFFFFFFFF) } })) ∧
    csrWrite c 0x06 v a w = { c with csr := { c.csr with thandler := v &&& 0x0000FFFFFFFFFFFF } } ∧
    csrWrite c 0x07 v a w = { c with csr := { c.csr with tscratch := v } } ∧
    csrWrite c 0x40 v a w = { c with csr := { c.csr with stbase := v } } ∧
    csrWrite c 0x10 v a w = { c with csr := { c.csr with frm := v.truncate 2 } } ∧
    csrWrite c 0x11 v a w = { c with csr := { c.csr with grp := v.truncate 1, vmg := (v >>> 1).truncate 3 } } ∧
    (∀ n, 0x41 ≤ n → csrWrite c n v a w = c)

namespace Sys2Proof.Claims

open Sys2Proof.Machine

/-- The core at `s` once an instruction that faults at issue has faulted (R34, R92): it is about to enter its handler. -/
def faulted (s : State) (code : Byte) (tval : Word) : State := s.setCore s.cur ((me s).raise code tval none false s.now)

/-- What has lost its check bits is read (R416): fault 0x1A, the `n` poisoned words counted (R391), each with an entry of the error log (R417). -/
def poisonTaken (s : State) (kind unit n : Nat) (tval : Word) : State :=
  (List.range n).foldl (fun t _ => t.logEntry kind (s.physOf s.cur) unit (me s).task 0)
    (s.setCore s.cur (((me s).count 1 n).raise 0x1A tval none false s.now))

/-- The core stalls and nothing else changes (R33). -/
def stalled (s : State) (k : Stall) : State := s.setCore s.cur { me s with stall := some k }

/-- As `after`, for a position that leaves in the cycle in which what it waited for arrives: the next one issues in that same cycle. -/
def afterNow (s : State) (c : Core) (n : Fetch × Loop) : State :=
  let t := s.setCore s.cur { (c.moved s.now n.1 n.2).stepped (me s) with ready := s.now }
  { t with clock := { t.clock with turn := s.cur.val } }

/-- The state after a prefix, which takes no issue cycle (R105): its core may issue again at once. -/
def afterPrefix (s : State) (p : Pfx) (n : Fetch × Loop) : State :=
  let t := s.setCore s.cur ({ me s with fetch := n.1, loop := n.2, pfx := some p, stall := none }.count 11 1)
  { t with clock := { t.clock with turn := s.cur.val } }

/-- The prefixes in force at pc. -/
def prefixes (c : Core) : Pfx := c.pfx.getD { first := c.fetch, loop := c.loop }

/-- The decrement that DEPDEC sends (R336): bit 22 and the member only for another member. -/
def decWord (s : State) (x : Word) : Nat :=
  if fld x 22 1 = 1 ∧ fld x 12 10 ≠ s.chorus.self then fld x 0 23 else fld x 0 12

/-- Bits [22:12] of DEPDEC's source name no member of the chorus (R336). -/
def decUnknown (s : State) (x : Word) : Bool :=
  fld x 22 1 == 1 && !(s.chorus.members.any fun m => m.idx == fld x 12 10 && (m.st == 2 || m.st == 3))

/-- The completion count that a tag's instance waits for has been reached (R335, R388). -/
def tagDone (s : State) (tag : Nat) : Bool := (cpOf s (me s) tag - (vget (me s).tags tag {}).ph).toNat < 2 ^ 31

/-- A range of row groups that EALLOC and its like accept (R221): in the window, aligned, inside the slice. -/
def rowRange (a b : Word) : Bool :=
  a.toNat / 2 ^ 28 == 0xE00000000 && a.toNat % 4096 == 0 && decide (fld a 12 16 + fld b 0 17 ≤ 65536)

/-! ### Operands of the scalar instructions -/

/-- Every ALU and floating-point form of the tables above. -/
def scalarForms (d a b : BitVec 6) (d5 : BitVec 5) (i : BitVec 13) (j : BitVec 19) : List Scalar :=
  alu2 d a b ++ alu3 d a b ++ alu1 d a ++ aluImm d a b i j ++ aluShort d5 a b ++ floats2 d a b ++ floats3 d a b ++ floats1 d a ++ (divides d a b).map (·.2)

/-- The register or the queue slot that specifier `x` names waits for the result `f`, which has not landed. -/
def waitsFor (c : Core) (x : Nat) (f : Fly) : Prop :=
  f ∈ c.fly ∧ ((0 < x ∧ x < 32 ∧ f.dst = x) ∨ (32 ≤ x ∧ x < 48 ∧ (vget c.q (x - 32) {}).pend = some f.id))

end Sys2Proof.Claims

/-- R416, R80: a position that reads a queue slot whose parity has failed, or pops such an element of a feed, faults with 0x1A; the event is counted
and logged (R391, R417). -/
def Sys2Proof.Claims.LostParity : Prop :=
  (∀ (d a : BitVec 6) (i : BitVec 13) (s : State), runs s 4 .plain = true → 32 ≤ a.toNat → a.toNat < 48 →
    (vget (me s).q (a.toNat - 32) {}).pois = true → (∀ r ∈ [d.toNat, a.toNat], (me s).producer r = none) →
    ∃ v, exec (.ADDI d a i) s = .next (poisonTaken s 3 5 1 v)) ∧
  ∀ (d a : BitVec 6) (i : BitVec 13) (s : State), runs s 4 .plain = true → 48 ≤ a.toNat → a.toNat < 56 → (me s).producer d.toNat = none →
    let f := vget (me s).feeds (a.toNat - 48) {}
    f.elems ≠ [] → f.count - f.elems.length ∈ f.pois → ∃ v, exec (.ADDI d a i) s = .next (poisonTaken s 3 5 1 v)

/-- R204, R210, R346, R386, R416: what a soft error does. A word's error changes no byte; a poisoned word stays so until a write covers it
whole; a row group that is not valid holds no code. An uncorrectable error on a die below the guard band returns its voltage within 200 ticks
and disables undervolting for one second. A changed bit of a descriptor makes its CSUM wrong. When soft errors happen is an input of the model
(log 10). -/
def Sys2Proof.Claims.SoftErrors : Prop :=
  (∀ (m : Mem) (a x : Nat), (m.poison a).get x = m.get x ∧ (m.weaken a).get x = m.get x ∧
    ((m.poison a).poisonIn x 1).isSome = (x / 8 == a / 8 || (m.poisonIn x 1).isSome) ∧
    (0 < (m.weaken a).weakIn x 1 ↔ x / 8 = a / 8 ∨ 0 < m.weakIn x 1)) ∧
  (∀ (m : Mem) (a : Nat) (bs : List Byte), bs.length = 8 → a % 8 = 0 → (m.write a bs).poisonIn a 8 = none ∧ (m.write a bs).weakIn a 8 = 0) ∧
  (∀ (m : Mem) (a b : Nat) (bs : List Byte), bs.length < 8 → (m.write b bs).poisonIn a 8 = m.poisonIn a 8) ∧
  (∀ (s : State) (c : CoreId) (double : Bool),
    (∀ (v : Fin 32) (i : Nat),
      let x := ((s.suffer (.slot c v i double)).core c).v[v]
      let old := (s.core c).v[v]
      x.runs = old.runs ∧ x.fmt = old.fmt ∧ (double = true → i ∈ x.pois ∧ x.weak = old.weak) ∧ (double = false → i ∈ x.weak ∧ x.pois = old.pois)) ∧
    ∀ (j : Fin 4) (w : Nat),
      let x := ((s.suffer (.tile c j w double)).core c).tiles[j]
      let old := (s.core c).tiles[j]
      x.elems = old.elems ∧ (double = true → w / 512 ∈ x.pois ∧ x.weak = old.weak) ∧ (double = false → w ∈ x.weak ∧ x.pois = old.pois)) ∧
  (∀ (s : State) (c : CoreId) (off : Nat) (double : Bool),
    let t := s.suffer (.word c false off double)
    let valid := ((s.core c).ember.rowAt off).any (·.st == .valid)
    t.mem = s.mem ∧ (∀ l, l ≠ c → (t.core l).ember = (s.core l).ember) ∧ (valid = false → t = s) ∧
    (valid = true → (t.core c).ember = { (s.core c).ember with
      mem := if double then (s.core c).ember.mem.poison off else (s.core c).ember.mem.weaken off }) ∧
    (valid = true → double = true → 0 < (s.die (dieOf c)).volt →
      (t.die (dieOf c)).offUntil = some (s.tick + 100000000) ∧
      ∃ k ≤ 200, (t.die (dieOf c)).retAt = some ((s.die (dieOf c)).retAt.getD (s.tick + k)))) ∧
  (∀ (s : State) (c : CoreId) (n : Fin 64) (bit : Fin 256),
    let x := (s.core c).getTd n
    let y := ((s.suffer (.descriptor c n bit)).core c).getTd n
    y = x ^^^ BitVec.twoPow 256 bit.val ∧ (fld x 120 8 = csumOf x → fld y 120 8 ≠ csumOf y)) ∧
  ∀ (s : State) (c : CoreId),
    (∀ (i : Fin 16) (r : Nat), ((s.suffer (.result c i)).core c).poisonedSlot r = (r == 32 + i.val || (s.core c).poisonedSlot r)) ∧
    (∀ (f : Fin 8) (i : Nat), i < ((s.core c).feeds[f]).elems.length → ((((s.suffer (.feed c f i)).core c).feeds[f]).poisoned (i + 1)).isSome = true) ∧
    ∀ (e : EngId) (i : Nat) (cmd : Cmd), ((s.core c).getE e).queue[i]? = some cmd →
      (((s.suffer (.command c e i)).core c).getE e).queue[i]? = some { cmd with pois := true }

/-- R183, R146: the predicate instructions; a write of `k0` is discarded and a read of it gives the predicate that covers everything. -/
def Sys2Proof.Claims.Predicates : Prop :=
  (∀ (k : BitVec 3) (a : BitVec 6) (w : BitVec 2) (s : State) (x : Word) (c : Core) (n : Fetch × Loop), plain s 4 n →
    reads (me s) [a.toNat] [] 0 [x] c →
    exec (.PSET k a w) s = .next (after s (c.setK k.toNat { count := BitVec.ofNat 17 (min x.toNat 131071), wid := w }) n)) ∧
  (∀ (k : BitVec 3) (s : State) (n : Fetch × Loop), plain s 4 n →
    exec (.PALL k) s = .next (after s ((me s).setK k.toNat { count := 131071, wid := 3 }) n)) ∧
  (∀ (k i j : BitVec 3) (s : State) (n : Fetch × Loop), plain s 4 n →
    let x := (me s).getK i.toNat
    let y := (me s).getK j.toNat
    exec (.PMIN k i j) s = .next (after s ((me s).setK k.toNat
      (if x.count.toNat * 2 ^ x.wid.toNat ≤ y.count.toNat * 2 ^ y.wid.toNat then x else y)) n)) ∧
  (∀ (d : BitVec 6) (i : BitVec 3) (s : State) (n : Fetch × Loop), plain s 4 n → reads (me s) [] [] d.toNat [] (me s) →
    let x := (me s).getK i.toNat
    exec (.PGET d i) s = .next (after s ((me s).push d.toNat ((x.wid ++ x.count).zeroExtend 64) (s.now + 1)) n)) ∧
  ∀ (c : Core) (x : KReg), c.setK 0 x = c ∧ c.getK 0 = { count := 131071, wid := 3 }

/-- R91, R92, R105: a prefix of a unit without misuse is recorded and takes no issue cycle. A misuse faults with 0x03 at the prefix misused: one that
its unit's instruction refuses, a repeated one, one in the last delay slot or at the last parcel of a body. The first misused prefix of a unit is the one
named (log 106). -/
def Sys2Proof.Claims.Prefixes : Prop :=
  ∀ (k : BitVec 4) (a r : BitVec 1) (sc : BitVec 3) (st : BitVec 24) (s : State) (n : Fetch × Loop),
    let p := prefixes (me s)
    let at_ := (me s).fetch.pc
    let place (size : Nat) : Bool := (at_.slot == 2 && !at_.tgt) || at_.ctx.head?.any fun b => at_.addr.toNat + size == b.limit
    (plain s 2 n → (me s).misused s.mem p = none →
      exec (.C_CLS k a r sc) s = .next (afterPrefix s { p with cls := some (k.toNat, a == 1, r == 1, sc.toNat) } n)) ∧
    (plain s 4 n → (me s).misused s.mem p = none → exec (.STAMP st) s = .next (afterPrefix s { p with stamp := some st.toNat } n)) ∧
    (∀ x, (me s).run = .running → (me s).misused s.mem p = some x →
      exec (.C_CLS k a r sc) s = .next (faulted s 0x03 x) ∧ exec (.STAMP st) s = .next (faulted s 0x03 x)) ∧
    ∀ (w : Nat) (rest : List (Pos × Nat × Nat)) (i : Instr),
      (unitWords s.mem (me s).theTask (me s).loop [at_, (me s).fetch.n1, (me s).fetch.n2] = .ok ((at_, 2, w) :: rest) → prefixShape 2 w = true →
        decode w = .instr (.C_CLS k a r sc) → mainOf ((at_, 2, w) :: rest) = some i →
        (p.cls.isSome || place 2 || !takesCls i || (r == 1 && (isLoad i || isWaitv i)) || (a == 1 && isStore i)) = true →
        (me s).misused s.mem p = some at_.addr) ∧
      (unitWords s.mem (me s).theTask (me s).loop [at_, (me s).fetch.n1, (me s).fetch.n2] = .ok ((at_, 4, w) :: rest) → prefixShape 4 w = true →
        decode w = .instr (.STAMP st) → mainOf ((at_, 4, w) :: rest) = some i → (p.stamp.isSome || place 4 || !takesStamp i) = true →
        (me s).misused s.mem p = some at_.addr)

/-- R199: a breakpoint completes its position and then takes cause 0x1B; `tval` is its own address. -/
def Sys2Proof.Claims.Breakpoints : Prop :=
  ∀ (s : State) (n : Fetch × Loop),
    let u : State := s.setCore s.cur
      ({ ((me s).moved s.now n.1 n.2).stepped (me s) with stepOf := none }.raise 0x1B (me s).fetch.pc.addr none false (s.now + 1))
    (plain s 4 n → exec .BRK s = .next u) ∧ (plain s 2 n → exec .C_BRK s = .next u)

/-- R199, R131: YIELD completes where no load's fault is deferred, else it takes that fault. TRAP stops its core for Salamander, whose answer
comes after a free time (log 9). -/
def Sys2Proof.Claims.YieldAndTrap : Prop :=
  (∀ (s : State) (n : Fetch × Loop), plain s 4 n → (me s).deferred anyClass = none → exec .YIELD s = .next (after s (me s) n)) ∧
  (∀ (s : State) (h : Halt), runs s 4 .plain = true → (me s).deferred anyClass = some h →
    exec .YIELD s = .next (s.setCore s.cur ((me s).halt s.now h))) ∧
  ∀ (d a b : BitVec 6) (s : State) (x y : Word) (c : Core) (n : Fetch × Loop), plain s 4 n →
    reads (me s) [a.toNat, b.toNat] [] d.toNat [x, y] c →
    exec (.TRAP d a b) s = .next (s.delay.2.setCore s.cur
      { (after s c n).core s.cur with stepOf := none, run := .service x y d.toNat (s.now + 1 + s.delay.1) })

/-- R196: RETT in the handler restores the saved positions, queue and loop state and arms the landing list, and leaves the handler; the vector and
predicate registers stay as the handler left them (R136). With an engine's cause it resumes or abandons that engine's command. Outside the handler it
faults with 0x06. -/
def Obligations.ReturnFromTrap : Prop :=
  ∀ s : State, runs s 4 .rett = true →
    ((me s).csr.h = false → exec .RETT s = .next (faulted s 0x06 (me s).fetch.pc.addr)) ∧
    ((me s).csr.h = true → ∃ t, exec .RETT s = .next t ∧
      t = State.returnEngine (s.setCore s.cur
        ({ (me s).return (s.now + 1) with ready := s.now + 1, stall := none, pfx := none, wait := none, samples := 0 }.count 11 1)) s.cur (me s).csr.cause ∧
      (t.core s.cur).csr.h = false ∧ (t.core s.cur).v = (me s).v ∧ (t.core s.cur).k = (me s).k ∧
      (t.core s.cur).fetch.pc.addr = (me s).csr.fpc ∧ (t.core s.cur).fetch.n1.addr = (me s).csr.npc ∧
      (t.core s.cur).fetch.n2.addr = (me s).csr.nnpc ∧ (t.core s.cur).fetch.n2.ann = false ∧
      (t.core s.cur).fetch.pc.ann = (me s).csr.ann.getLsbD 0 ∧ (t.core s.cur).fetch.n1.ann = (me s).csr.ann.getLsbD 1 ∧
      (t.core s.cur).fetch.pc.tgt = (me s).csr.tgt.getLsbD 0 ∧ (t.core s.cur).fetch.n1.tgt = (me s).csr.tgt.getLsbD 1 ∧
      (t.core s.cur).fetch.n2.tgt = (me s).csr.tgt.getLsbD 2 ∧
      (t.core s.cur).loop = (me s).shadow.loop ∧ (t.core s.cur).run = .running ∧
      (∀ i : Fin 16, (t.core s.cur).q[i].val = (me s).shadow.queue[i]))

/-- R200, R258: END waits for what its task has outstanding, abandoning frozen commands; then a task outside a gang retires, and a gang member
waits for its gang. A member at END is live on no tag any more, so that an instance waiting for it alone completes (log 109). -/
def Sys2Proof.Claims.EndOfTask : Prop :=
  ∀ s : State, runs s 4 .plain = true → (me s).deferred anyClass = none →
    let gone (t : State) : State := if (me s).theTask.gang then endFx (me s) t else t
    ((me s).endReady = false → exec .END s = .next (gone ((stalled s .endWait).dropFrozen s.cur))) ∧
    ((me s).endReady = true → (me s).theTask.gang = true → exec .END s = .next (gone (stalled s .gangEnd))) ∧
    ((me s).endReady = true → (me s).theTask.gang = false →
      exec .END s = .next (s.setCore s.cur
        ({ me s with run := .ending, stall := none, pfx := none, wait := none, samples := 0 }.count 11 1)))

/-- R270, R271: WAIT completes once each counter is at most its bound, 63 being no bound; until then its position stalls, on the first counter above its
bound (log 105). C.WAIT bounds CP and TL, 31 being no bound for CP. -/
def Sys2Proof.Claims.WaitForCounters : Prop :=
  ∀ (l st cp tl : BitVec 6) (cp5 : BitVec 5) (s : State) (n : Fetch × Loop),
    let above (bounds : List Nat) : List Nat :=
      (List.range 4).filter fun k => bounds.getD k 63 != 63 && decide (bounds.getD k 63 < [(me s).ld, (me s).st, (me s).cp, (me s).tl].getD k 0)
    let goes (bounds : List Nat) : State := match above bounds with | [] => after s (me s) n | k :: _ => stalled s (.counters k)
    let cpS := if cp5 = 31 then 63 else cp5.toNat
    (plain s 4 n → (l = 63 ∨ (me s).deferred anyClass = none) →
      exec (.WAIT l st cp tl) s = .next (goes [l.toNat, st.toNat, cp.toNat, tl.toNat])) ∧
    (plain s 2 n → exec (.C_WAIT cp5 tl) s = .next (goes [63, 63, cpS, tl.toNat]))

/-- R272, R388: SEQW completes once the engine's sequence number has reached its second source, else it stalls; a number that names no engine
faults with 0x01. -/
def Sys2Proof.Claims.WaitForSequence : Prop :=
  ∀ (a b : BitVec 6) (s : State) (x y : Word) (c : Core) (n : Fetch × Loop), plain s 4 n → reads (me s) [a.toNat, b.toNat] [] 0 [x, y] c →
    exec (.SEQW a b) s = .next (
      if h : x.toNat % 8 < 6 then
        if ((me s).eng[x.toNat % 8].seq - y.truncate 32).toNat < 2 ^ 31 then after s c n else stalled s (.counters (4 + x.toNat % 8))
      else faulted s 0x01 (me s).fetch.pc.addr)

/-- R249, R256: FENCE closes the commit-buffer lines before it, and completes once the accesses of the classes it names are performed; no class named
means all. -/
def Sys2Proof.Claims.Fences : Prop :=
  ∀ (a : BitVec 6) (s : State) (x : Word) (c : Core) (n : Fetch × Loop), plain s 4 n → reads (me s) [a.toNat] [] 0 [x] c →
    let mask (k : Nat) : Bool := x.toNat % 65536 == 0 || (k < 16 && x.getLsbD k)
    (me s).deferred mask = none →
    exec (.FENCE a) s = .next (if (me s).fenceDone s.now mask then after s c.closeOnce n
      else s.setCore s.cur { (me s).closeOnce with stall := some .fence })

/-- R273: WAITV reads its word and completes in the cycle in which data that meets the condition is there. -/
def Sys2Proof.Claims.WaitForValue : Prop :=
  ∀ (k : BitVec 3) (a b : BitVec 6) (s : State) (x y : Word) (c : Core) (n : Fetch × Loop), plain s 4 n →
    reads (me s) [a.toNat, b.toNat] [] 0 [x, y] c →
    (x.toNat / 2 ^ 28 ≠ 0xE00000000 → exec (.WAITV k a b) s = .next (faulted s 0x09 x)) ∧
    (x.toNat / 2 ^ 28 = 0xE00000000 → x.toNat % 8 ≠ 0 → exec (.WAITV k a b) s = .next (faulted s 0x07 x)) ∧
    (x.toNat / 2 ^ 28 = 0xE00000000 → x.toNat % 8 = 0 →
      let off := x.toNat % 2 ^ 28
      let others := (me s).reads.filter fun r => !r.who.isWaitv
      let asks := (s.setCore s.cur
        { me s with reads := others ++ [{ who := .waitv, off, len := 8, issue := s.now }], stall := some (.emberWord x.toNat) }).fixLoads s.cur (me s).nextId
      ((me s).reading Reader.isWaitv = none → (me s).classStall s.now ((me s).access 0).1 = false → ((me s).ember.rowAt off).isSome →
        ((me s).csr.dbgPend && (me s).pendingByte s.now off 8) = false → exec (.WAITV k a b) s = .next asks) ∧
      ∀ r, (me s).reading Reader.isWaitv = some r → r.here = true → r.code = none →
        let v : Word := BitVec.ofNat 64 (leNat r.bytes)
        let met := match k.toNat with
          | 0 => decide (v = y) | 1 => decide (v ≠ y) | 2 => decide (y.toNat ≤ v.toNat) | 3 => decide (v.toNat < y.toNat)
          | 4 => decide (y.toInt ≤ v.toInt) | _ => decide (v.toInt < y.toInt)
        (met = true → exec (.WAITV k a b) s = .next (afterNow s { c with reads := others } n)) ∧
        (met = false → ((me s).ember.rowAt off).isSome → ((me s).csr.dbgPend && (me s).pendingByte s.now off 8) = false →
          exec (.WAITV k a b) s = .next asks))

/-- R103, R107, R276: an ALU or floating-point instruction one of whose sources, or whose destination, waits for a result that has not landed stalls at
issue, and so does one that reads an empty feed with a producer; an empty feed without one faults with 0x10 and the feed's number. No source is popped. -/
def Sys2Proof.Claims.ScalarInterlocks : Prop :=
  ∀ (d a b : BitVec 6) (d5 : BitVec 5) (i : BitVec 13) (j : BitVec 19), ∀ r ∈ scalarForms d a b d5 i j, ∀ s : State, runs s r.size .plain = true →
    let used := r.d :: (r.srcs ++ r.beside)
    (∀ x f, x ∈ used → waitsFor (me s) x f →
      ∃ y g, y ∈ used ∧ waitsFor (me s) y g ∧ exec r.i s = .next (stalled s (.interlock ((me s).slotOf g.id)))) ∧
    ((me s).hazard (r.srcs ++ r.beside) r.d = none → ∀ pre x post vs c, r.srcs = pre ++ x :: post → readAll (me s) pre = some (vs, c) → 48 ≤ x → x < 56 →
      (vget c.feeds (x - 48) {}).elems = [] →
      exec r.i s = .next (if (vget c.feeds (x - 48) {}).pb = 0 then faulted s 0x10 (BitVec.ofNat 64 (x - 48)) else stalled s (.feed (x - 48))))

/-- R335: BAR arrives once on a usable tag and leaves when its instance has completed; BARA arrives when the previous instance has; BARW waits for the
last one; BARX leaves the tag's membership. A tag that is not usable faults with 0x01. -/
def Sys2Proof.Claims.Barriers : Prop :=
  ∀ (a : BitVec 6) (s : State) (x : Word) (c : Core) (n : Fetch × Loop), plain s 4 n → reads (me s) [a.toNat] [] 0 [x] c →
    let tag := x.toNat % 16
    let t := vget (me s).tags tag {}
    let arrive (c : Core) : Core := { c with tags := vput c.tags tag { t with ph := t.ph + 1, since := (me s).nextId } }
    let clearArr (c : Core) : Core := if c.csr.h then c else { c with tags := vput c.tags tag { t with arr := false } }
    let waiting : Bool := match (me s).stall with | some (.barrier _ _) => true | some (.arrived _) => true | _ => false
    let leaves (c : Core) : State := if waiting then afterNow s c n else after s c n
    let fresh : Prop := ¬ (t.arr = true ∧ (me s).csr.h = false) ∧ (me s).stall ≠ some (.arrived tag)
    ((me s).tagOk tag = false → ∀ i ∈ [Instr.BAR a, .BARA a, .BARW a, .BARX a], exec i s = .next (faulted s 0x01 (me s).fetch.pc.addr)) ∧
    ((me s).tagOk tag = true →
      (fresh → tagDone s tag = true →
        exec (.BAR a) s = .next (barrierFx (me s) tag (s.setCore s.cur { arrive (me s) with stall := some (.arrived tag) }))) ∧
      (fresh → tagDone s tag = false → exec (.BAR a) s = .next (stalled s (.barrier tag false))) ∧
      (¬ fresh → tagDone s tag = true → exec (.BAR a) s = .next (leaves (clearArr c))) ∧
      (¬ fresh → tagDone s tag = false →
        exec (.BAR a) s = .next (s.setCore s.cur { clearArr (me s) with stall := some (.arrived tag) })) ∧
      (tagDone s tag = true → exec (.BARA a) s = .next (barrierFx (me s) tag (leaves (arrive c)))) ∧
      (tagDone s tag = false → exec (.BARA a) s = .next (stalled s (.barrier tag true))) ∧
      (tagDone s tag = true → exec (.BARW a) s = .next (leaves (clearArr c))) ∧
      (tagDone s tag = false → exec (.BARW a) s = .next (s.setCore s.cur { clearArr (me s) with stall := some (.barrier tag false) })) ∧
      exec (.BARX a) s = .next (barrierFx (me s) tag (after s { c with tags := vput c.tags tag { t with live := false } } n)))

/-- R336, R255: DEPDEC of a gang member is held until the next quantum commit; another task's is sent once its earlier accesses are performed and
committed. It keeps its place in program order. A counter of a package outside the chorus faults with 0x09. -/
def Sys2Proof.Claims.DependenceDecrement : Prop :=
  ∀ (a : BitVec 6) (s : State) (x : Word) (c : Core) (n : Fetch × Loop), plain s 4 n → reads (me s) [a.toNat] [] 0 [x] c →
    (decUnknown s x = true → exec (.DEPDEC a) s = .next (faulted s 0x09 x)) ∧
    (decUnknown s x = false → (me s).theTask.gang = true →
      exec (.DEPDEC a) s = .next (after s { c with decs := c.decs ++ [(decWord s x, c.nextId, false)] } n)) ∧
    (decUnknown s x = false → (me s).theTask.gang = false → (me s).settled s.now = true →
      exec (.DEPDEC a) s = .next ((after s { c.closeOnce with decs := c.decs ++ [(decWord s x, c.closeOnce.nextId, true)] } n).sendDecs s.cur)) ∧
    (decUnknown s x = false → (me s).theTask.gang = false → (me s).settled s.now = false →
      exec (.DEPDEC a) s = .next (s.setCore s.cur { (me s).closeOnce with stall := some .depOrder }))

/-- R337, R360: SPATCH writes one doubleword of a usable template whose patch mask allows it, after a free time (log 9); else it faults with 0x09. -/
def Sys2Proof.Claims.TemplatePatch : Prop :=
  ∀ (a b : BitVec 6) (s : State) (x y : Word) (c : Core) (n : Fetch × Loop), plain s 4 n → reads (me s) [a.toNat, b.toNat] [] 0 [x, y] c →
    let t := x.toNat % 1024
    let w := x.toNat / 1024 % 64
    let ok := usable (s.hub.template t) (me s).theTask && (vget (s.hub.template t) 64 0).getLsbD w
    (ok = false → exec (.SPATCH a b) s = .next (faulted s 0x09 x)) ∧
    (ok = true → (me s).wait = none →
      exec (.SPATCH a b) s = .next (s.delay.2.setCore s.cur
        { me s with wait := some (s.now + 1 + s.delay.1), stall := some .template })) ∧
    (ok = true → ∀ d, (me s).wait = some d → d ≤ s.now →
      exec (.SPATCH a b) s = .next ((after s c n).setHub (s.hub.setTemplate t (vput (s.hub.template t) w y))))

/-- R338: SPAWN waits until its task's earlier accesses are performed and committed and a place is free, then places a card with its template's
image. A template that its task may not use faults with 0x09. -/
def Sys2Proof.Claims.Spawn : Prop :=
  ∀ (a : BitVec 6) (s : State) (x : Word) (c : Core) (n : Fetch × Loop), plain s 4 n → reads (me s) [a.toNat] [] 0 [x] c →
    let v := s.hub.template (x.toNat % 1024)
    let t := (me s).theTask
    let waits := s.setCore s.cur { (me s).closeOnce with stall := some .spawn }
    (usable v t = false → exec (.SPAWN a) s = .next (faulted s 0x09 x)) ∧
    (usable v t = true → (me s).settled s.now = false → exec (.SPAWN a) s = .next waits) ∧
    (usable v t = true → (me s).settled s.now = true → ∀ k, s.hub.card t.card = some k →
      exec (.SPAWN a) s = .next (
        if s.hub.spawnPlace k t.gang = .full then waits
        else (after s c.closeOnce n).placeSpawn s.cur t (templateImage v) (s.hub.spawnPlace k t.gang)))

/-- R351, R344: TDSET writes one doubleword of a descriptor image, whose byte 15 is then the XOR of its other bytes; TDGET pushes one; TDCLR clears a
range that ends by descriptor 63, or faults with 0x15; BSET and BGET write and push a bound register. -/
def Sys2Proof.Claims.DescriptorsAndBounds : Prop :=
  (∀ (a b : BitVec 6) (s : State) (x y : Word) (c : Core) (n : Fetch × Loop), plain s 4 n → reads (me s) [a.toNat, b.toNat] [] 0 [x, y] c →
    let i := x.toNat % 64
    let w := 64 * (x.toNat / 64 % 4)
    let image := setFld (vget (me s).td i 0) w 64 y.toNat
    let sum := ((List.range 32).filter (· ≠ 15)).foldl (fun z j => z ^^^ image.extractLsb' (8 * j) 8) 0
    exec (.TDSET a b) s = .next (after s { c with td := vput c.td i (setFld image 120 8 sum.toNat) } n) ∧
    exec (.BSET a b) s = .next (after s { c with b := vput c.b (x.toNat % 16) y } n)) ∧
  (∀ (d a : BitVec 6) (s : State) (x : Word) (c : Core) (n : Fetch × Loop), plain s 4 n → reads (me s) [a.toNat] [] d.toNat [x] c →
    exec (.TDGET d a) s =
      .next (after s (c.push d.toNat ((vget (me s).td (x.toNat % 64) 0).extractLsb' (64 * (x.toNat / 64 % 4)) 64) (s.now + 1)) n) ∧
    exec (.BGET d a) s = .next (after s (c.push d.toNat (vget (me s).b (x.toNat % 16) 0) (s.now + 1)) n)) ∧
  ∀ (a : BitVec 6) (s : State) (x : Word) (c : Core) (n : Fetch × Loop), plain s 4 n → reads (me s) [a.toNat] [] 0 [x] c →
    let i := x.toNat % 64
    let m := x.toNat / 64 % 128
    (i + m ≤ 64 → ∃ td : Vector (BitVec 256) 64, exec (.TDCLR a) s = .next (after s { c with td } n) ∧
      ∀ j : Fin 64, td[j] = if i ≤ j.val ∧ j.val < i + m then 0 else (me s).td[j]) ∧
    (64 < i + m → exec (.TDCLR a) s = .next (faulted s 0x15 (BitVec.ofNat 64 i)))

/-- R352, R248: TDCOPY asks for 32 bytes of own Ember, operand SRAM or global memory; when they have landed it writes its descriptor, or takes the read's
fault. The bytes of operand SRAM and of global memory are those of the issue cycle (log 24), and the landing of the latter is free (log 9); both wait
for the earlier loads of class 0 that still wait for their reads. The global loads issued before it have their values fixed (log 25), and a global read
is its unit's translation (R237). -/
def Sys2Proof.Claims.DescriptorCopy : Prop :=
  ∀ (a b : BitVec 6) (s : State) (x y : Word) (c : Core) (n : Fetch × Loop), plain s 4 n → reads (me s) [a.toNat, b.toNat] [] 0 [x, y] c →
    let i := x.toNat % 64
    let asks (r : SRead) : State := s.setCore s.cur { me s with reads := (me s).reads ++ [r], stall := some .tdcopy }
    let id := (me s).nextId
    (∀ r, (me s).reading Reader.isTd = some r → r.here = true → r.code = none →
      exec (.TDCOPY a b) s =
        .next (afterNow s { c.setTd i (BitVec.ofNat 256 (leNat r.bytes)) with reads := c.reads.filter fun r => !r.who.isTd } n)) ∧
    (∀ r e, (me s).reading Reader.isTd = some r → r.here = true → r.code = some e → exec (.TDCOPY a b) s = .next (faulted s e y)) ∧
    ((me s).reading Reader.isTd = none → y.toNat % 32 = 0 → (me s).classStall s.now 0 = false →
      (∀ o, spaceOf y.toNat = .ember o → ((me s).ember.rowAt o).isSome → ((me s).csr.dbgPend && (me s).pendingByte s.now o 32) = false →
        exec (.TDCOPY a b) s = .next ((asks { who := .tdcopy i, off := o, len := 32, issue := s.now }).fixLoads s.cur id)) ∧
      (∀ o, spaceOf y.toNat = .sram o → (me s).readOpen 0 id = false →
        let own := (List.range 32).map fun j => (me s).gst.reverse.findSome? (·.at_ (sramWindow + o + j))
        let (pois, weak) := (me s).sram.errorsIn o (own.map Option.isNone)
        exec (.TDCOPY a b) s = .next ((asks
          { who := .tdcopy i, off := o, len := 32, issue := s.now, bytes := own.zipIdx.map fun z => z.1.getD ((me s).sram.get (o + z.2))
            land := some (s.now + 8), unit := 1, code := if pois = 0 then none else some 0x1A, weak, pois }).fixLoads s.cur id)) ∧
      (∀ va p, spaceOf y.toNat = .glob va → globalAt s.mem (me s).theTask va needRd = .ok p → (me s).ld ≤ 16 →
        (me s).readOpen 0 id = false →
        let (bytes, pois, weak) := (me s).readGlobal s.mem y.toNat p 32
        exec (.TDCOPY a b) s = .next (((asks
          { who := .tdcopy i, off := p, len := 32, issue := s.now, bytes, land := some (s.now + 1 + s.delay.1), unit := 2
            code := if pois = 0 then none else some 0x1A, weak, pois }).delay.2.fixLoads s.cur id).walked s.cur 0 y.toNat p)) ∧
      (∀ o, spaceOf y.toNat = .sram o → (me s).readOpen 0 id = true → exec (.TDCOPY a b) s = .next (stalled s .tdcopy)))

/-- R221 to R224, R210: EALLOC, EFREE and ECLASS act on each row group of their range once no store and no engine command can touch the slice; before
that they stall. Reads issued before find the row groups as they were. A range outside the window, not aligned or past the slice's end faults, in this
order, with 0x09, 0x07 and 0x09; ETOUCH and ECLASS fault with 0x09 at the first row group of their range that is free. -/
def Sys2Proof.Claims.RowGroups : Prop :=
  ∀ (a b : BitVec 6) (s : State) (x y : Word) (c : Core) (n : Fetch × Loop), plain s 4 n → reads (me s) [a.toNat, b.toNat] [] 0 [x, y] c →
    let all := [Instr.EALLOC a b, .EFREE a b, .ECLASS a b, .ETOUCH a b]
    (x.toNat / 2 ^ 28 ≠ 0xE00000000 → ∀ i ∈ all, exec i s = .next (faulted s 0x09 x)) ∧
    (x.toNat / 2 ^ 28 = 0xE00000000 → x.toNat % 4096 ≠ 0 → ∀ i ∈ all, exec i s = .next (faulted s 0x07 x)) ∧
    (x.toNat / 2 ^ 28 = 0xE00000000 → x.toNat % 4096 = 0 → 65536 < x.toNat / 4096 % 65536 + y.toNat % 2 ^ 17 →
      ∀ i ∈ all, exec i s = .next (faulted s 0x09 x)) ∧
    (rowRange x y = true →
    let gs := (List.range (y.toNat % 2 ^ 17)).map fun i => x.toNat / 4096 % 65536 + i
    let cls := if y.getLsbD 20 then y.toNat / 2 ^ 17 % 8 else (me s).theTask.clsDef
    ((me s).emberBusy s.cur = true →
      exec (.EALLOC a b) s = .next (stalled s .emberSerial) ∧ exec (.EFREE a b) s = .next (stalled s .emberSerial)) ∧
    ((me s).emberBusy s.cur = false → (me s).ember.bound ≠ some s.now →
      exec (.EALLOC a b) s = .next (after s { c.keepRows gs with ember := gs.foldl (Slice.alloc cls) c.ember } n) ∧
      exec (.EFREE a b) s = .next (after s { c.keepRows gs with ember := gs.foldl Slice.free c.ember } n)) ∧
    (∀ pre g post, gs = pre ++ g :: post → (∀ h ∈ pre, ((me s).ember.row h).isSome = true) → (me s).ember.row g = none →
      ∀ i ∈ [Instr.ECLASS a b, .ETOUCH a b], exec i s = .next (faulted s 0x09 (BitVec.ofNat 64 (0xE000000000000000 + 4096 * g)))) ∧
    ((∀ g ∈ gs, ((me s).ember.row g).isSome = true) →
      ((me s).emberBusy s.cur = false →
        exec (.ECLASS a b) s = .next (after s { c with ember := gs.foldl (Slice.setClass (y.toNat / 2 ^ 17 % 8)) c.ember } n)) ∧
      exec (.ETOUCH a b) s = .next (after s (gs.foldl (Core.touchAge s.now (s.limit (dieOf s.cur))) c) n)))

/-- R209, R223: what EALLOC and EFREE make of one row group: held, empty and of age 0 and of its class; or held no longer. Other row groups keep
their entries. -/
def Sys2Proof.Claims.RowGroupStates : Prop :=
  ∀ (sl : Slice) (g cls : Nat),
    (sl.alloc cls g).row g = some { g, st := .empty, age := 0, cls, ltag := 0, rq := false } ∧ (sl.free g).row g = none ∧
    ∀ h, h ≠ g → (sl.alloc cls g).row h = sl.row h ∧ (sl.free g).row h = sl.row h

/-- R225: EAGE pushes the age, class, state, tag, limit and request bit of a row group, 0 for one that is not held, in two cycles. -/
def Sys2Proof.Claims.RowGroupAge : Prop :=
  ∀ (d a : BitVec 6) (s : State) (x : Word) (c : Core) (n : Fetch × Loop), plain s 4 n → reads (me s) [a.toNat] [] d.toNat [x] c →
    let g := x.toNat / 4096 % 65536
    (x.toNat / 2 ^ 28 = 0xE00000000 → x.toNat % 4096 = 0 →
      exec (.EAGE d a) s = .next (after s (c.push d.toNat (ageImage s (dieOf s.cur) (me s).ember g) (s.now + 2)) n)) ∧
    ((me s).ember.row g = none → ageImage s (dieOf s.cur) (me s).ember g = 0) ∧
    (∀ r, (me s).ember.row g = some r → r.age < 256 → r.cls < 8 → r.ltag < 16 →
      let st : BitVec 2 := match r.st with | .empty => 1 | .valid => 2 | .invalid => 3
      let rq : BitVec 1 := if r.rq || (me s).ember.queue.any fun q => q.g == g && q.touch then 1 else 0
      let limit := BitVec.ofNat 8 (s.limit (dieOf s.cur) r.cls)
      ageImage s (dieOf s.cur) (me s).ember g =
        (rq ++ limit ++ BitVec.ofNat 4 r.ltag ++ st ++ BitVec.ofNat 3 r.cls ++ BitVec.ofNat 8 r.age).zeroExtend 64) ∧
    (x.toNat / 2 ^ 28 ≠ 0xE00000000 → exec (.EAGE d a) s = .next (faulted s 0x09 x)) ∧
    (x.toNat / 2 ^ 28 = 0xE00000000 → x.toNat % 4096 ≠ 0 → exec (.EAGE d a) s = .next (faulted s 0x07 x))

/-- R381 to R383: PWRQ of level 0 and PWRL release the region; a PWRQ of at most the granted level lowers it; a granted one takes its level, at most
256; another waits. PWRG pushes the region and the die's ceiling and step. That a PWRQ that issues in a boundary cycle counts as waiting there and is granted at a
later one is the model's reading (log 63). -/
def Obligations.PowerRegions : Prop :=
  (∀ (a : BitVec 6) (s : State) (x : Word) (c : Core) (n : Fetch × Loop), plain s 4 n → reads (me s) [a.toNat] [] 0 [x] c →
    let lv := min (x.toNat % 65536) 256
    let csr := (me s).csr
    let within : Bool := csr.grant && decide (lv ≤ csr.level)
    (lv = 0 → exec (.PWRQ a) s = .next (after s c.releaseRegion n)) ∧
    (lv ≠ 0 → within = true →
      exec (.PWRQ a) s = .next (after s { c with pwrRet := c.pwrRet + (csr.level - lv), csr := { csr with level := lv } } n)) ∧
    (lv ≠ 0 → within = false → ∀ q, (me s).pwrReq = some q →
      exec (.PWRQ a) s = .next (if q.granted then after s { c with pwrReq := none, csr := { csr with level := lv, grant := true } } n
        else stalled s .power)) ∧
    (lv ≠ 0 → within = false → (me s).pwrReq = none → s.boundary = false →
      exec (.PWRQ a) s = .next (s.setCore s.cur { me s with pwrReq := some { level := lv }, stall := some .power })) ∧
    (lv ≠ 0 → within = false → (me s).pwrReq = none → s.boundary = true →
      exec (.PWRQ a) s = .next (s.setCore s.cur
        { ({ me s with pwrReq := some { level := lv, first := some s.now } } : Core).count 4 (if ((me s).getE 2).asked.isNone then 1 else 0) with stall := some .power }))) ∧
  (∀ (s : State) (n : Fetch × Loop), plain s 4 n → exec .PWRL s = .next (after s (me s).releaseRegion n)) ∧
  (∀ c : Core, c.releaseRegion.csr.grant = false ∧ (c.csr.grant = true → c.releaseRegion.csr.level = 0 ∧ c.releaseRegion.pwrRet = c.pwrRet + c.csr.level)) ∧
  ∀ (d : BitVec 6) (s : State) (n : Fetch × Loop), plain s 4 n → reads (me s) [] [] d.toNat [] (me s) →
    let (ceil, i) := (s.die (dieOf s.cur)).atStart s.now
    exec (.PWRG d) s = .next (after s ((me s).push d.toNat
      (BitVec.ofNat 64 ((me s).csr.level + (if (me s).csr.grant then 2 ^ 16 else 0) + 2 ^ 28 * i + 2 ^ 32 * ceil)) (s.now + 1)) n)

namespace Sys2Proof.Claims

open Sys2Proof.Machine

/-! ### Vector instructions -/

/-- The elements of a vector register, from its runs (R137). -/
def elems (c : Core) (r : Nat) : List Nat := expand (c.getV r).runs

/-- The active elements of part `j` of a group whose parts have lengths `lens`, under predicate `k` and governing width `w` (R147, R152): the
predicate's bytes over the width, over the whole group in order when `vcfg.GRP` is 1, over each part otherwise. -/
def activeAt (c : Core) (k w : Nat) (lens : List Nat) (j : Nat) : Nat :=
  let p := c.getK k
  let n := p.count.toNat * 2 ^ p.wid.toNat / w
  if c.csr.grp = 1 then min (n - (lens.take j).sum) (lens.getD j 0) else min n (lens.getD j 0)

/-- The lengths of the parts of a group. -/
def lensOf (c : Core) (r g : Nat) : List Nat := (List.range g).map fun j => (c.getV (r + j)).len

/-- The core with its vector unit occupied for the slots that were written or read (R156, R157). -/
def occupied (s : State) (c : Core) (slots : Nat) : Core :=
  { c with vbusy := some { issue := s.now, until_ := s.now + (slots + 31) / 32 + 6 } }

/-- An instruction that has read the slots `read` (R155 order 9, R391): fault 0x1A where some are poisoned, its address having no stated value (log 5);
else it leaves `t`, its corrected slots counted and logged. -/
def afterReads (s t : State) (read : List Slots) : State :=
  let (bad, worn) := (me s).slotErrors read
  if bad ≠ 0 then poisonTaken s 2 3 bad (BitVec.ofNat 64 (Config.poisonedSlot s.cur.val s.now)) else t.foundErrors s.cur 3 worn 0 0

/-- What an instruction leaves that has read the slots `read` and made `parts`: fault 0x0D for the first part of more than 8,192 slots (R142); else
the parts stand in their registers. -/
def writeParts (s : State) (n : Fetch × Loop) (parts : List (Nat × VReg)) (read : List Slots) : State :=
  match parts.find? fun x => 8192 < x.2.slots with
  | some x => faulted s 0x0D (BitVec.ofNat 64 x.1)
  | none =>
    afterReads s (after s (occupied s (parts.foldl (fun c x => { c with v := vput c.v x.1 x.2 }) (me s)) (parts.map (·.2.slots)).sum) n) read

/-- An elementwise instruction (R161): its destination group, predicate, sources with the format each must have (none: that of the first, which
governs), the formats it accepts, its result's format, and what it makes of one element of each source. -/
structure Elementwise where
  i : Instr
  d : Nat
  k : Nat
  g : Nat
  srcs : List (Nat × Option Nat)
  ok : Nat → Bool
  out : Nat → Nat := id
  op : Nat → Rm → List Nat → Nat

def Elementwise.first (r : Elementwise) : Nat := (r.srcs.headD (0, none)).1
def Elementwise.fmt (r : Elementwise) (c : Core) : Nat := (c.getV r.first).fmt
def Elementwise.active (r : Elementwise) (c : Core) (j : Nat) : Nat := activeAt c r.k (widthOf (r.fmt c)) (lensOf c r.first r.g) j

/-- The register that the first failing check of R155 names (R438). Order 2: the first operand, the destination before the sources, whose group passes
v31. Order 3: the first part, operand by operand, of a format that is not accepted or not the one needed, a third source that is the old destination
being of one format in itself; then a destination whose new format is none. Order 4: the lowest part in which a later source has another length than the
first, or the old destination another format. Order 5: where a tail is kept, the old destination part without the result's format and length (R148). -/
def Elementwise.named (r : Elementwise) (c : Core) : Option Nat :=
  let f := r.fmt c
  let js := List.range r.g
  let len (x : Nat) : Nat := (c.getV x).len
  let fmt (x : Nat) : Nat := (c.getV x).fmt
  let order2 := (r.d :: r.srcs.map (·.1)).find? fun x => 32 < x + r.g
  let order3 := r.srcs.zipIdx.findSome? fun x =>
    let need := x.1.2.getD (if x.2 < 2 then f else fmt x.1.1)
    (js.find? fun j => (x.2 = 0 && !r.ok f) || fmt (x.1.1 + j) != need).map (x.1.1 + ·)
  let made := if isVecFmt (r.out f) then none else some r.d
  let order4 := js.findSome? fun j => ((r.srcs.drop 1).find? fun x =>
    len (x.1 + j) != len (r.first + j) || (x.2.isNone && fmt (x.1 + j) != f)).map (·.1 + j)
  let order5 := (js.find? fun j => decide (r.active c j < len (r.first + j)) && (fmt (r.d + j) != r.out f || len (r.d + j) != len (r.first + j))).map (r.d + ·)
  [order2, order3, made, order4, order5].findSome? id

/-- The checks of R155, orders 2 to 5, hold. -/
def Elementwise.ready (r : Elementwise) (c : Core) : Bool := r.ok (r.fmt c) && (r.named c).isNone

/-- The slots that hold the active elements of the sources. -/
def Elementwise.read (r : Elementwise) (c : Core) : List Slots :=
  r.srcs.flatMap fun x => (List.range r.g).map fun j => c.prefixSlots (x.1 + j) (r.active c j)

/-- The elements of part `j` of the result: the operation on the active ones, then the old destination's tail. -/
def Elementwise.result (r : Elementwise) (c : Core) (j : Nat) : List Nat :=
  let f := r.fmt c
  let m := r.active c j
  (List.range m).map (fun e => r.op f (rmOf c.csr.frm.toNat) (r.srcs.map fun x => (elems c (x.1 + j)).getD e 0)) ++
  (if m < (c.getV (r.first + j)).len then (elems c (r.d + j)).drop m else [])

/-- The result on exact values rounded or narrowed once (R162), for float and integer formats. -/
def exact2 (fv : Rm → Val → Val → Val) (fi : Int → Int → Int) (f : Nat) (m : Rm) (xs : List Nat) : Nat :=
  let x := xs.getD 0 0
  let y := xs.getD 1 0
  if isFlt f then roundV f (fv m (fltVal f x) (fltVal f y)) m else narrowInt f (fi (intOf f x) (intOf f y))

/-- Elementwise instructions of two and three sources (R163 to R165). -/
def vector2 (d a b : BitVec 5) (k g : BitVec 3) : List Elementwise :=
  let row (i : Instr) (ok : Nat → Bool) (op : Nat → Rm → List Nat → Nat) (more : List (Nat × Option Nat) := []) (out : Nat → Nat := id) : Elementwise :=
    { i, d := d.toNat, k := k.toNat, g := g.toNat, srcs := [(a.toNat, none), (b.toNat, none)] ++ more, ok, out, op }
  let cmp (i : Instr) (ok : Nat → Bool) (p : Val → Val → Bool) : Elementwise :=
    row i ok (out := fun _ => 15) fun f _ xs => if p (valOf f (xs.getD 0 0)) (valOf f (xs.getD 1 0)) then 1 else 0
  let bits (i : Instr) (p : Nat → Nat → Nat) : Elementwise := row i isLog fun _ _ xs => p (xs.getD 0 0) (xs.getD 1 0)
  let pick (ff : Nat → Nat → Nat → Nat) (fi : Int → Int → Int) (f : Nat) (_ : Rm) (xs : List Nat) : Nat :=
    if isFlt f then ff f (xs.getD 0 0) (xs.getD 1 0) else narrowInt f (fi (intOf f (xs.getD 0 0)) (intOf f (xs.getD 1 0)))
  let shift (p : Int → Nat → Int) (f : Nat) (_ : Rm) (xs : List Nat) : Nat :=
    narrowInt f (p (intOf f (xs.getD 0 0)) (min (max (intOf f (xs.getD 1 0)) 0) (bitsOf f)).toNat)
  [ row (.VADD d a b k g) isNum (exact2 (fun m x y => Val.add m x y) fun x y => x + y),
    row (.VSUB d a b k g) isNum (exact2 (fun m x y => Val.add m x y.neg) fun x y => x - y),
    row (.VMUL d a b k g) isNum (exact2 (fun _ x y => Val.mul x y) fun x y => x * y),
    row (.VFMA d a b k g) isNum (more := [(d.toNat, none)]) (fun f m xs =>
      let x := xs.getD 0 0
      let y := xs.getD 1 0
      let z := xs.getD 2 0
      if isFlt f then roundV f (Val.add m ((fltVal f x).mul (fltVal f y)) (fltVal f z)) m
      else narrowInt f (intOf f x * intOf f y + intOf f z)),
    row (.VMIN d a b k g) isNum (pick minEnc min),
    row (.VMAX d a b k g) isNum (pick maxEnc max),
    bits (.VAND d a b k g) (· &&& ·),
    bits (.VOR d a b k g) (· ||| ·),
    bits (.VXOR d a b k g) (· ^^^ ·),
    row (.VSHL d a b k g) isInts (shift fun x n => x * 2 ^ n),
    row (.VSHR d a b k g) isInts (shift fun x n => x / 2 ^ n),
    cmp (.VCMPEQ d a b k g) isVecFmt Val.eq,
    cmp (.VCMPNE d a b k g) isVecFmt (fun x y => !x.eq y),
    cmp (.VCMPLT d a b k g) isNum Val.lt,
    cmp (.VCMPLE d a b k g) isNum Val.le,
    row (.VSEL d a b k g) isVecFmt (more := [(0, some 15)]) (fun _ _ xs => if xs.getD 2 0 ≠ 0 then xs.getD 0 0 else xs.getD 1 0) ]

/-- Elementwise instructions of one source (R166, R167) and VCOAL, which only joins runs (R168). -/
def vector1 (d a f : BitVec 5) (k g : BitVec 3) : List Elementwise :=
  let row (i : Instr) (ok : Nat → Bool) (op : Nat → Rm → Nat → Nat) (out : Nat → Nat := id) : Elementwise :=
    { i, d := d.toNat, k := k.toNat, g := g.toNat, srcs := [(a.toNat, none)], ok, out, op := fun f m xs => op f m (xs.getD 0 0) }
  let sign (fv : Bool → Bool) (fi : Int → Int) (f : Nat) (_ : Rm) (x : Nat) : Nat :=
    if isFlt f then if fltVal f x = .nan then nanEnc f else withSign f (fv (x.testBit (bitsOf f - 1))) (x % 2 ^ (bitsOf f - 1))
    else narrowInt f (fi (intOf f x))
  let special (f : Nat) : Bool := f == 1 || f == 2 || f == 3
  [ row (.VNEG d a k g) (fun f => isFlt f || [6, 12, 13].contains f) (sign (fun n => !n) fun i => -i),
    row (.VABS d a k g) (fun f => isFlt f || [6, 12, 13].contains f) (sign (fun _ => false) fun i => i.natAbs),
    row (.VEXP2 d a k g) special (fun f _ x => vexp2 f x),
    row (.VLOG2 d a k g) special (fun f _ x => vlog2 f x),
    row (.VRCP d a k g) special (fun f _ x => vrcp f x),
    row (.VRSQ d a k g) special (fun f _ x => vrsq f x),
    row (.VSQRT d a k g) (fun f => f < 4) (fun f m x => sqrtV f m (fltVal f x)),
    row (.VTANH d a k g) special (fun f _ x => vtanh f x),
    row (.VSIGM d a k g) special (fun f _ x => vsigm f x),
    row (.VFLOOR d a k g) isFlt (fun f _ x => floorEnc f x),
    row (.VCVT d a f k g) isVecFmt (fun h m x => convert h f.toNat x m) (fun _ => f.toNat),
    row (.VMOV d a k g) isVecFmt (fun _ _ x => x),
    row (.VNOT d a k g) isLog (fun f _ x => if f = 15 then 1 - x else 2 ^ bitsOf f - 1 - x % 2 ^ bitsOf f),
    row (.VCOAL d a k g) isVecFmt (fun _ _ x => x) ]

/-! Reductions -/

/-- A reduction (R171): its result from the format, the rounding mode and, for each part of its group, the index of the part's first element and its
active runs. -/
structure Reduction where
  i : Instr
  d : Nat
  a : Nat
  k : Nat
  g : Nat
  ok : Nat → Bool
  val : Nat → Rm → List (Nat × Runs) → Word

/-- The active runs of the parts of a group (R153). -/
def Reduction.spans (r : Reduction) (c : Core) : List (Nat × Runs) :=
  let lens := lensOf c r.a r.g
  (List.range r.g).map fun j => ((lens.take j).sum, takeRuns (activeAt c r.k (widthOf (c.getV r.a).fmt) lens j) (c.getV (r.a + j)).runs)

/-- The register that a failing check of order 2 or 3 on a group read alone names (R438): the group passes v31, or the first of its parts has a format
that is not accepted or another one than the first part. -/
def groupNamed (c : Core) (a g : Nat) (ok : Nat → Bool) : Option Nat :=
  if 32 < a + g then some a
  else ((List.range g).find? fun j => !ok (c.getV a).fmt || (c.getV (a + j)).fmt != (c.getV a).fmt).map (a + ·)

def Reduction.ready (r : Reduction) (c : Core) : Bool := r.ok (c.getV r.a).fmt && (groupNamed c r.a r.g r.ok).isNone

/-- The slots that hold the active elements. -/
def Reduction.read (r : Reduction) (c : Core) : List Slots :=
  (r.spans c).zipIdx.map fun x => (r.a + x.2, 0, (if (c.getV r.a).fmt = 0 then 2 else 1) * x.1.2.length)

/-- The elements of some runs in order. -/
def flat (sp : List (Nat × Runs)) : List Nat := sp.flatMap fun x => expand x.2

/-- The reductions (R171). A sum of integers is exact; a sum of floats is exact and rounded once, to FP64 for FP64 and to FP32 otherwise. -/
def reductions (d a : BitVec 5) (k g : BitVec 3) : List Reduction :=
  let row (i : Instr) (ok : Nat → Bool) (val : Nat → Rm → List (Nat × Runs) → Word) : Reduction :=
    { i, d := d.toNat, a := a.toNat, k := k.toNat, g := g.toNat, ok, val }
  let zero (f x : Nat) : Bool := (valOf f x).isZero
  [ row (.VRSUM d a k g) isVecFmt (fun f m sp => if isFlt f then foldSum f m sp else BitVec.ofInt 64 ((flat sp).map (intOf f)).sum),
    row (.VRMAX d a k g) isNum (foldPick maxEnc fun x y => decide (y < x)),
    row (.VRMIN d a k g) isNum (foldPick minEnc fun x y => decide (x < y)),
    row (.VRCNT d a k g) isVecFmt (fun f _ sp => BitVec.ofNat 64 ((flat sp).countP fun x => !zero f x)),
    row (.VRFIRST d a k g) isVecFmt (fun f _ sp =>
      match sp.findSome? fun x => ((expand x.2).findIdx? fun e => !zero f e).map (x.1 + ·) with
      | some i => BitVec.ofNat 64 i
      | none => -1) ]

/-! Forms with one destination part -/

/-- A vector form that makes one register from others: the scalar registers it reads, its check of order 2 to 5 with the register named where it fails
(R438), and the format and the elements it makes. -/
structure OnePart where
  i : Instr
  regs : List Nat := []
  d : Nat
  ok : Core → Bool
  bad : Core → Nat := fun _ => d
  fmt : Core → Nat
  made : Core → List Nat
  read : Core → List Slots := fun _ => []

/-- The element that a scalar becomes (R173). -/
def elemOf (f : Nat) (x : Word) : Nat := if f = 15 then if x = 0 then 0 else 1 else x.toNat % 2 ^ bitsOf f

/-- The forms of R173 to R175. -/
def oneParts (d a b : BitVec 5) (k : BitVec 3) : List OnePart :=
  let d' := d.toNat
  let a' := a.toNat
  let b' := b.toNat
  let built (i : Instr) (ok : Nat → Bool) (es : Nat → Nat → Word → List Nat) : OnePart :=
    let f (c : Core) : Nat := (c.getS b').toNat / 65536 % 16
    let l (c : Core) : Nat := (c.getS b').toNat % 65536
    let m (c : Core) : Nat := activeAt c k.toNat (widthOf (f c)) [l c] 0
    { i, regs := [a', b'], d := d'
      ok := fun c => ok (f c) && (decide (l c ≤ m c) || ((c.getV d').fmt == f c && (c.getV d').len == l c))
      fmt := f
      made := fun c => es (f c) (m c) (c.getS a') ++ (if m c < l c then (elems c d').drop (m c) else []) }
  [ built (.VSPLAT d a b k) isVecFmt (fun f m x => List.replicate m (elemOf f x)),
    built (.VIOTA d a b k) isInts (fun f m x => (List.range m).map fun (e : Nat) => narrowInt f (x.toInt + (e : Int))),
    { i := .VSLICE d a b, regs := [b'], d := d'
      ok := fun c => decide ((c.getS b').toNat % 65536 + (c.getS b').toNat / 65536 % 65536 ≤ (c.getV a').len)
      bad := fun _ => a'
      fmt := fun c => (c.getV a').fmt
      made := fun c => ((elems c a').drop ((c.getS b').toNat % 65536)).take ((c.getS b').toNat / 65536 % 65536)
      read := fun c =>
        let v := c.getV a'
        let off := (c.getS b').toNat % 65536
        let n := (c.getS b').toNat / 65536 % 65536
        if n = 0 then [] else [(a', v.slots - slotsOf v.fmt (dropRuns off v.runs), slotsOf v.fmt (takeRuns (off + n) v.runs))] },
    { i := .VCAT d a b, d := d'
      ok := fun c => (c.getV a').fmt == (c.getV b').fmt && decide ((c.getV a').len + (c.getV b').len ≤ 65535)
      bad := fun c => if (c.getV a').fmt == (c.getV b').fmt then d' else b'
      fmt := fun c => (c.getV a').fmt
      made := fun c => elems c a' ++ elems c b'
      read := fun c => [c.allSlots a', c.allSlots b'] },
    { i := .VSETLEN d a b, regs := [b'], d := d'
      ok := fun c => decide ((c.getS b').toNat ≤ 65535)
      fmt := fun c => (c.getV a').fmt
      made := fun c => (elems c a').take (c.getS b').toNat ++ List.replicate ((c.getS b').toNat - (c.getV a').len) 0
      read := fun c => if (c.getS b').toNat ≤ (c.getV a').len then [c.prefixSlots a' (c.getS b').toNat] else [c.allSlots a'] },
    { i := .VINS d a b, regs := [a', b'], d := d'
      ok := fun c => decide ((c.getS b').toNat ≤ (c.getV d').len) && decide ((c.getV d').len + 1 ≤ 65535)
      fmt := fun c => (c.getV d').fmt
      made := fun c =>
        let i := (c.getS b').toNat
        (elems c d').take i ++ [elemOf (c.getV d').fmt (c.getS a')] ++ (elems c d').drop i
      read := fun c => [c.allSlots d'] } ]

/-! Vector memory -/

/-- A vector memory form (R177, R178, R180): its destination or data register, its format, the registers it reads, its checks of orders 2 to 5 with
the fault and the register named where they fail (R438), and its accesses in ascending order: effective address, bytes, and the bytes stored. -/
structure VectorAccess where
  i : Instr
  kind : VKind
  d : Nat
  fmt : Nat
  regs : List Nat
  ok : Core → Bool
  bad : Core → Byte × Nat
  list : Core → List (Word × Nat × Option (List Byte))
  read : Core → List Slots := fun _ => []

/-- Loads of elements at a stride and their first-fault form; stores of elements; and the run images of VLD and VST. -/
def vectorAccesses (d a b : BitVec 5) (k : BitVec 3) (m : BitVec 4) : List VectorAccess :=
  let d' := d.toNat
  let f := m.toNat
  let w := widthOf f
  let base (c : Core) : Word := c.getS a.toNat
  let stride (c : Core) : Int := ((c.getS b.toNat) >>> 32).truncate 32 |>.toInt
  let addr (c : Core) (e : Nat) : Word := base c + BitVec.ofInt 64 (stride c * e)
  let g (c : Core) : Nat := max c.csr.vmg.toNat 1
  let fits (c : Core) : Bool := decide (c.csr.vmg.toNat ≤ 6) && decide (d' + g c ≤ 32) && isVecFmt f
  let per (c : Core) : Nat := (c.getS b.toNat).toNat % 65536
  let lens (c : Core) : List Nat := List.replicate (g c) (per c)
  let keeps (c : Core) (j : Nat) : Bool :=
    decide (per c ≤ activeAt c k.toNat w (lens c) j) || ((c.getV (d' + j)).fmt == f && (c.getV (d' + j)).len == per c)
  let part (c : Core) (bad : Nat → Bool) : Byte × Nat :=
    (0x0E, if fits c then d' + ((List.range (g c)).find? bad).getD 0 else d')
  let loads (i : Instr) (kind : VKind) : VectorAccess :=
    { i, kind, d := d', fmt := f, regs := [a.toNat, b.toNat]
      ok := fun c => fits c && (List.range (g c)).all (keeps c)
      bad := fun c => part c fun j => !keeps c j
      list := fun c => (List.range (g c)).flatMap fun j =>
        (List.range (activeAt c k.toNat w (lens c) j)).map fun e => (addr c (j * per c + e), w, none) }
  [ { i := .VLD d a b m, kind := .image, d := d', fmt := f, regs := [a.toNat, b.toNat]
      ok := fun c => isVecFmt f && (f != 0 || (c.getS b.toNat).toNat % 2 == 0) && decide ((c.getS b.toNat).toNat ≤ 8192)
      bad := fun c => (if isVecFmt f && (f != 0 || (c.getS b.toNat).toNat % 2 == 0) then 0x0D else 0x0E, d')
      list := fun c => (List.range (c.getS b.toNat).toNat).map fun i => (base c + BitVec.ofNat 64 (8 * i), 8, none) },
    loads (.VLDS d a b k m) .strided,
    loads (.VLDFF d a b k m) .firstFault,
    { i := .VST d a k m, kind := .store, d := d', fmt := f, regs := [a.toNat]
      ok := fun c => isVecFmt f && (c.getV d').fmt == f
      bad := fun _ => (0x0E, d')
      list := fun c => (slotWords f (takeRuns (activeAt c k.toNat w [(c.getV d').len] 0) (c.getV d').runs)).zipIdx.map fun x =>
        (base c + BitVec.ofNat 64 (8 * x.2), 8, some (leBytes 8 x.1))
      read := fun c => [c.prefixSlots d' (activeAt c k.toNat w [(c.getV d').len] 0)] },
    { i := .VSTS d a b k m, kind := .store, d := d', fmt := f, regs := [a.toNat, b.toNat]
      ok := fun c => fits c && (List.range (g c)).all fun j => (c.getV (d' + j)).fmt == f
      bad := fun c => part c fun j => (c.getV (d' + j)).fmt != f
      list := fun c => (List.range (g c)).flatMap fun j =>
        ((elems c (d' + j)).take (activeAt c k.toNat w (lensOf c d' (g c)) j)).zipIdx.map fun x =>
          (addr c (((lensOf c d' (g c)).take j).sum + x.2), w, some (leBytes w x.1))
      read := fun c => (List.range (g c)).map fun j => c.prefixSlots (d' + j) (activeAt c k.toNat w (lensOf c d' (g c)) j) } ]

end Sys2Proof.Claims

/-- R163 to R165, R161, R438: elementwise instructions of two sources and VFMA and VSEL, element by element; a check that fails faults with 0x0E and the
register it names. -/
def Sys2Proof.Claims.VectorOfTwoSources : Prop :=
  ∀ (d a b : BitVec 5) (k g : BitVec 3), ∀ r ∈ vector2 d a b k g, ∀ (s : State) (n : Fetch × Loop), plain s 4 n →
    (me s).hazard [] 0 = none →
    (r.ready (me s) = true → ∃ parts : List (Nat × VReg),
      parts.map (·.1) = (List.range r.g).map (r.d + ·) ∧
      (∀ j v, parts[j]? = some (r.d + j, v) → v.fmt = r.out (r.fmt (me s)) ∧ expand v.runs = r.result (me s) j) ∧
      exec r.i s = .next (writeParts s n parts (r.read (me s)))) ∧
    (∀ x, 0 < r.g → r.named (me s) = some x → exec r.i s = .next (faulted s 0x0E (BitVec.ofNat 64 x)))

/-- R166 to R168, R72 to R75, R438: elementwise instructions of one source and VCOAL, element by element; a check that fails faults with 0x0E and the
register it names. -/
def Sys2Proof.Claims.VectorOfOneSource : Prop :=
  ∀ (d a f : BitVec 5) (k g : BitVec 3), ∀ r ∈ vector1 d a f k g, ∀ (s : State) (n : Fetch × Loop), plain s 4 n →
    (me s).hazard [] 0 = none →
    (r.ready (me s) = true → ∃ parts : List (Nat × VReg),
      parts.map (·.1) = (List.range r.g).map (r.d + ·) ∧
      (∀ j v, parts[j]? = some (r.d + j, v) → v.fmt = r.out (r.fmt (me s)) ∧ expand v.runs = r.result (me s) j) ∧
      exec r.i s = .next (writeParts s n parts (r.read (me s)))) ∧
    (∀ x, 0 < r.g → r.named (me s) = some x → exec r.i s = .next (faulted s 0x0E (BitVec.ofNat 64 x)))

/-- R168, R169, R438: VCOAL leaves no two neighbouring runs of one encoding and changes no element; VSCAN gives the running sum of each part's active
elements, each narrowed; a run of zeros keeps its length; a check that fails faults with 0x0E and the register it names. -/
def Sys2Proof.Claims.CoalesceAndScan : Prop :=
  (∀ r : Runs, expand (coalesce r) = expand r ∧
    ∀ i x y, (coalesce r)[i]? = some x → (coalesce r)[i + 1]? = some y → x.2 ≠ y.2) ∧
  (∀ (f : Nat) (m : Rm) (n x acc : Nat) (t : Runs), (valOf f x).isZero = false →
    expand (scan f m ((n + 1, x) :: t) acc) = scanStep f m acc x :: expand (scan f m ((n, x) :: t) (scanStep f m acc x)) ∧
    expand (scan f m ((0, x) :: t) acc) = expand (scan f m t acc)) ∧
  (∀ (f : Nat) (m : Rm) (n x acc : Nat) (t : Runs), (valOf f x).isZero = true →
    let y := scanStep f m acc x
    expand (scan f m ((n, x) :: t) acc) = List.replicate n y ++ expand (scan f m t y)) ∧
  ∀ (d a : BitVec 5) (k g : BitVec 3) (s : State) (n : Fetch × Loop), plain s 4 n → (me s).hazard [] 0 = none →
    let r : Elementwise := { i := .VSCAN d a k g, d := d.toNat, k := k.toNat, g := g.toNat, srcs := [(a.toNat, none)]
                             ok := fun f => isInts f || decide (f < 4), op := fun _ _ _ => 0 }
    let c := me s
    (∀ x, 0 < r.g → r.named c = some x → exec (.VSCAN d a k g) s = .next (faulted s 0x0E (BitVec.ofNat 64 x))) ∧
    (r.ready c = true → ∃ parts : List (Nat × VReg), parts.map (·.1) = (List.range r.g).map (r.d + ·) ∧
      (∀ j v, parts[j]? = some (r.d + j, v) →
        let m := r.active c j
        v.fmt = r.fmt c ∧ v.runs = scan (r.fmt c) (rmOf c.csr.frm.toNat) (takeRuns m (c.getV (r.first + j)).runs) 0 ++
          if m < (c.getV (r.first + j)).len then dropRuns m (c.getV (r.d + j)).runs else []) ∧
      exec (.VSCAN d a k g) s = .next (writeParts s n parts (r.read c)))

/-- R170, R171, R156, R438: a reduction pushes its result after its occupancy; a check that fails faults with 0x0E and the register it names. -/
def Sys2Proof.Claims.Reductions : Prop :=
  ∀ (d a : BitVec 5) (k g : BitVec 3), ∀ r ∈ reductions d a k g, ∀ (s : State) (n : Fetch × Loop), plain s 4 n →
    (me s).hazard [] r.d = none →
    let c := me s
    let f := (c.getV r.a).fmt
    let slots := ((r.spans c).map fun x => (if f = 0 then 2 else 1) * x.2.length).sum
    (r.ready c = true → exec r.i s = .next (afterReads s (after s (occupied s
      (c.push r.d (r.val f (rmOf c.csr.frm.toNat) (r.spans c)) (s.now + (slots + 31) / 32 + 6)) slots) n) (r.read c))) ∧
    (∀ x, groupNamed c r.a r.g r.ok = some x → exec r.i s = .next (faulted s 0x0E (BitVec.ofNat 64 x)))

/-- R172, R175, R184: VLEN and VRUNS push the elements and slots of a group, VEXTR an element, PCNT the leading elements that are 1, which it also makes a
predicate. A check that fails faults with 0x0E and the register it names (R438). -/
def Sys2Proof.Claims.VectorQueries : Prop :=
  (∀ (d a : BitVec 5) (g : BitVec 3) (s : State) (n : Fetch × Loop), plain s 4 n → (me s).hazard [] d.toNat = none →
    let total (f : VReg → Nat) : Word := BitVec.ofNat 64 ((List.range g.toNat).map fun j => f ((me s).getV (a.toNat + j))).sum
    match groupNamed (me s) a.toNat g.toNat (fun _ => true) with
    | none =>
      exec (.VLEN d a g) s = .next (after s (occupied s ((me s).push d.toNat (total VReg.len) (s.now + 6)) 0) n) ∧
      exec (.VRUNS d a g) s = .next (after s (occupied s ((me s).push d.toNat (total VReg.slots) (s.now + 6)) 0) n)
    | some x =>
      exec (.VLEN d a g) s = .next (faulted s 0x0E (BitVec.ofNat 64 x)) ∧ exec (.VRUNS d a g) s = .next (faulted s 0x0E (BitVec.ofNat 64 x))) ∧
  (∀ (d a b : BitVec 5) (s : State) (n : Fetch × Loop), plain s 4 n → (me s).hazard [b.toNat] d.toNat = none →
    let v := (me s).getV a.toNat
    let i := ((me s).getS b.toNat).toNat
    (∀ e, (elems (me s) a.toNat)[i]? = some e → exec (.VEXTR d a b) s = .next (afterReads s (after s (occupied s
      ((me s).push d.toNat (scalarOf v.fmt e) (s.now + (v.slots + 31) / 32 + 6)) v.slots) n) [(me s).allSlots a.toNat])) ∧
    ((elems (me s) a.toNat).length ≤ i → exec (.VEXTR d a b) s = .next (faulted s 0x0E (BitVec.ofNat 64 a.toNat)))) ∧
  ∀ (k : BitVec 3) (a : BitVec 6) (s : State) (n : Fetch × Loop), plain s 4 n → (me s).hazard [] 0 = none →
    let v := (me s).getV a.toNat
    let m := ((elems (me s) a.toNat).takeWhile (· ≠ 0)).length
    (v.fmt = 15 → exec (.PCNT k a) s = .next (afterReads s (after s (occupied s
      (((me s).setK k.toNat { count := BitVec.ofNat 17 m, wid := 0 }).push 0 (BitVec.ofNat 64 m) (s.now + (v.slots + 31) / 32 + 6)) v.slots) n)
      [(me s).allSlots a.toNat])) ∧
    (v.fmt ≠ 15 → exec (.PCNT k a) s = .next (faulted s 0x0E (BitVec.ofNat 64 a.toNat)))

/-- R173 to R175: VSPLAT, VIOTA, VSLICE, VCAT, VSETLEN and VINS, element by element; a check that fails faults with 0x0E and the register
it names (R438). -/
def Sys2Proof.Claims.VectorBuilding : Prop :=
  ∀ (d a b : BitVec 5) (k : BitVec 3), ∀ r ∈ oneParts d a b k, ∀ (s : State) (n : Fetch × Loop), plain s 4 n →
    (me s).hazard r.regs 0 = none →
    (r.ok (me s) = true → ∃ v : VReg, v.fmt = r.fmt (me s) ∧ expand v.runs = r.made (me s) ∧
      exec r.i s = .next (writeParts s n [(r.d, v)] (r.read (me s)))) ∧
    (r.ok (me s) = false → exec r.i s = .next (faulted s 0x0E (BitVec.ofNat 64 (r.bad (me s)))))

/-- R177 to R180, R182: a vector memory instruction whose accesses pass their checks starts: the vector unit holds its accesses, and its position waits
for them. A failed check of order 2, 3 or 5 faults with 0x0E, an image of more than 8,192 slots with 0x0D;
`tval` is the register named (R438). -/
def Sys2Proof.Claims.VectorMemory : Prop :=
  ∀ (d a b : BitVec 5) (k : BitVec 3) (m : BitVec 4), ∀ r ∈ vectorAccesses d a b k m, ∀ s : State, runs s 4 .plain = true →
    (me s).hazard r.regs 0 = none →
    let c := me s
    let store := r.kind == .store
    let plainStore := store && (relOf c).isNone
    (r.ok c = false → exec r.i s = .next (faulted s (r.bad c).1 (BitVec.ofNat 64 (r.bad c).2))) ∧
    ∀ xs, r.ok c = true → (c.slotErrors (r.read c)).1 = 0 → c.classStall s.now (clsOf c 0) = false →
      vAccesses s c c.nextId plainStore (if plainStore then c.linesSoon else ([], 0)) (r.list c) = (xs, none) →
      (xs.any VElem.isGlob = true → (store = false → c.ld ≤ 16) ∧ (plainStore = true → c.st ≤ 15)) →
      xs.map (fun x => (x.ea, x.n, x.data)) = r.list c ∧
      ∃ (t : State) (v : VMem), exec r.i s = .next t ∧ (t.core s.cur).stall = some .occupancy ∧ (t.core s.cur).fetch = c.fetch ∧
        (t.core s.cur).v = c.v ∧
        (t.core s.cur).vbusy = some { issue := s.now, until_ := s.now + 6, cls := clsOf c 0, mem := some v,
                                      prog := if (relOf c).isSome then c.close.nextId else c.nextId } ∧
        v.kind = r.kind ∧ v.dst = r.d ∧ v.fmt = r.fmt ∧ v.elems = xs ∧ v.stop = none ∧
        (v.ld = true ↔ store = false ∧ xs.any VElem.isGlob = true)

/-- R181: VPOP appends elements of a feed to its register in their order of entry; it waits for a feed with a producer, and faults with 0x10 where none is
bound, and with 0x1A where an element has lost its parity (R416). -/
def Sys2Proof.Claims.VectorPop : Prop :=
  ∀ (d b : BitVec 5) (f : BitVec 3) (m : BitVec 4) (s : State) (n : Fetch × Loop), plain s 4 n → (me s).hazard [b.toNat] 0 = none →
    let c := me s
    let v := c.getV d.toNat
    let num := (c.getS b.toNat).toNat
    let feed := vget c.feeds f.toNat {}
    let ok := isVecFmt m.toNat && (v.len == 0 || v.fmt == m.toNat) && decide (num ≤ 64) && decide (v.len + num ≤ 65535)
    (ok = false → exec (.VPOP d b f m) s = .next (faulted s 0x0E (BitVec.ofNat 64 d.toNat))) ∧
    (ok = true → feed.elems.length < num → exec (.VPOP d b f m) s =
      .next (if feed.pb = 0 then faulted s 0x10 (BitVec.ofNat 64 f.toNat) else stalled s (.feed f.toNat))) ∧
    (ok = true → num ≤ feed.elems.length → ∃ w : VReg, w.fmt = m.toNat ∧
      expand w.runs = elems c d.toNat ++ (feed.elems.take num).map (fun e => heldElem m.toNat e.2) ∧
      exec (.VPOP d b f m) s = .next (
        if 8192 < w.slots then faulted s 0x0D (BitVec.ofNat 64 d.toNat)
        else match feed.poisoned num with
        | some k => poisonTaken s 3 5 1 (BitVec.ofNat 64 (Config.poisonedEntry k c.nextId))
        | none => after s (occupied s { c with
            v := vput c.v d.toNat w, feeds := vput c.feeds f.toNat { feed with elems := feed.elems.drop num } } (if num = 0 then 0 else w.slots)) n))

namespace Sys2Proof.Claims

open Sys2Proof.Machine

/-! ### Engine commands -/

/-- A command instruction (R264): its engine, its checks at issue in their order, each with the fault and `tval` of its failure, and the command that
enters the engine's queue with what it captures (R265). -/
structure Command where
  i : Instr
  e : EngId
  checks : State → List (Byte × Word × Bool)
  cmd : State → Cmd

/-- The state in which a command has entered its queue (R264, R265, R269): it has the class and flags of its prefix and the next program order; the issue
number rises; a release closes the commit-buffer lines before it (R256), and has no effect on an Anvil command that stores nothing (R311); and it is bound
to its feed, at once on its own core and from the next cycle on a neighbour (R275). -/
def queued (s : State) (n : Fetch × Loop) (e : EngId) (cmd : Cmd) : State :=
  let stores : Bool := match cmd.kind with | .mma .. | .mzero .. | .mload .. => false | _ => true
  let rel := (relOf (me s)).isSome && stores
  let c := if rel then (me s).close else me s
  let x := (me s).eng[e]
  let q : Cmd := { cmd with cls := clsOf (me s) 0, acq := acqOf (me s), rel, scope := ((me s).access 0).2.2.2
                            prog := c.nextId, entry := s.now }
  let u := after s { c with eng := c.eng.set e { x with queue := x.queue ++ [q], iss := x.iss + 1 }, nextId := c.nextId + 1 } n
  match cmd.feed with
  | none => u
  | some (k, f) => u.modCore k fun c =>
      let x := vget c.feeds f {}
      { c with feeds := vput c.feeds f (if k = s.cur then { x with pb := x.pb + 1 } else { x with soon := x.soon ++ [s.now + 1] }) }

/-- The fault of a command at issue. One 0x15 of a descriptor whose CSUM has failed is that of an upset: it counts in `evpois` and enters the error log (R346,
R416; its unit and kind are log 132). -/
def commandFault (s : State) (code : Byte) (tval : Word) : State :=
  let d := vget (me s).td tval.toNat 0
  if code = 0x15 ∧ d.toNat / 2 ^ 120 % 256 ≠ csumOf d then
    (s.setCore s.cur (((me s).count 1 1).raise 0x15 tval none false s.now)).logEntry 3 (s.physOf s.cur) 5 (me s).task 0
  else faulted s code tval

/-- What a command instruction does: the first failed check faults; a full queue of 32 stalls (R17); else the command enters. -/
def Command.holds (r : Command) : Prop :=
  ∀ (s : State) (n : Fetch × Loop), plain s 4 n → exec r.i s = .next (
    match (r.checks s).find? fun x => !x.2.2 with
    | some f => commandFault s f.1 f.2.1
    | none => if 32 ≤ ((me s).eng[r.e]).queue.length then stalled s .queueFull else queued s n r.e (r.cmd s))

/-- A captured image, its fields, whether it is valid (R344, R346, R54), and the fault of descriptor `n`. -/
def td (s : State) (n : Nat) : BitVec 256 := vget (me s).td n 0
def ds (s : State) (n : Nat) : Desc := desc (td s n)
def okTd (s : State) (n : Nat) : Bool := !imageBad (td s n) && !(isAq (ds s n).fmt && (ds s n).grp == 3)
def at15 (n : Nat) (b : Bool) : Byte × Word × Bool := (0x15, BitVec.ofNat 64 n, b)

/-- A window's bound register: none below 16 (R278). -/
def boundOf (s : State) (x : Nat) : Option Word := if 16 ≤ x then some (vget (me s).b (x - 16) 0) else none

/-- A window inside its source (R279). -/
def inside (s : State) (z : Nat) (b : Option Word) : Bool :=
  let w := windowOf (ds s z) b
  decide (w.i0 + w.ni ≤ (ds s z).d0) && decide (w.j0 + w.nj ≤ (ds s z).d1)

/-- Formats that a copy may join (R279): one format, with one group size for AQ, or two vector formats. -/
def joins (a b : Desc) : Bool := if a.fmt = b.fmt then !isAq a.fmt || a.grp == b.grp else isVecFmt a.fmt && isVecFmt b.fmt

/-- The checks of the column-slice layout (R286). -/
def sliceChecks (s : State) (y z : Nat) : List (Byte × Word × Bool) :=
  let a := ds s z
  let d := ds s y
  let steps := (d.d1 + 1024 / bitsOf d.fmt - 1) / (1024 / bitsOf d.fmt)
  [ at15 y (a.d0 == d.d0 && a.d1 == d.d1),
    at15 y (a.fmt == d.fmt && decide (a.fmt ≤ 9) && (!isAq a.fmt || a.grp == d.grp)),
    at15 y (d.base % 128 == 0 && decide (d.base + 128 * ((d.d0 + 255) / 256 * steps) ≤ 524288)) ]

/-- The sources COPYX expands (R283). -/
def expands (sparse : Bool) (d : Desc) : Bool :=
  if sparse then (isVecFmt d.fmt || d.fmt == 8) && (bitsOf d.fmt == 8 || bitsOf d.fmt == 16) else [7, 8, 9, 10, 11].contains d.fmt

/-- Core `k` places on among the four of a neighbourhood (R274). -/
def beside (l : CoreId) (k : Nat) : CoreId := Fin.ofNat 64 (4 * (l.val / 4) + (l.val + k) % 4)

/-- The COPY major (R277 to R287), on the Tongs engine that `t` names. -/
def copies (x : BitVec 5) (y z : BitVec 6) (t f v : BitVec 1) (m : BitVec 4) (p : BitVec 3) (n : BitVec 2) : List Command :=
  let e : EngId := if t = 0 then 0 else 1
  let y' := y.toNat
  let z' := z.toNat
  let img (k : CmdKind) (b : Option Word) (s : State) : Cmd := { kind := k, y := y', z := z', ty := td s y', tz := td s z', bound := b }
  let plainFmt (d : Desc) : Bool := d.fmt != 11
  let both (s : State) (okY okZ : Desc → Bool) (b : Option Word) : List (Byte × Word × Bool) :=
    [ at15 y' (okTd s y' && okY (ds s y')), at15 z' (okTd s z' && okZ (ds s z')), at15 z' (inside s z' b) ]
  [ { i := .COPY x y z t, e
      checks := fun s => both s plainFmt plainFmt (boundOf s x.toNat) ++
        (let w := windowOf (ds s z') (boundOf s x.toNat)
         [ at15 y' (decide (w.ni ≤ (ds s y').d0) && decide (w.nj ≤ (ds s y').d1)), at15 y' (joins (ds s z') (ds s y')) ])
      cmd := fun s => img .copy (boundOf s x.toNat) s },
    { i := .COPYT x y z t, e
      checks := fun s => both s plainFmt plainFmt (boundOf s x.toNat) ++
        (let w := windowOf (ds s z') (boundOf s x.toNat)
         [ at15 y' (decide (w.nj ≤ (ds s y').d0) && decide (w.ni ≤ (ds s y').d1)), at15 y' (joins (ds s z') (ds s y')) ])
      cmd := fun s => img .copyt (boundOf s x.toNat) s },
    { i := .COPYX x y z t f v, e
      checks := fun s =>
        let b := boundOf s x.toNat
        let whole := !((ds s z').fmt == 11 && b.isSome)
        if f = 1 then [ at15 z' (okTd s z' && expands (v == 1) (ds s z')), at15 z' (inside s z' b && whole) ]
        else
          let w := windowOf (ds s z') b
          both s (fun d => isVecFmt d.fmt) (expands (v == 1)) b ++
          [ at15 y' (decide (w.ni ≤ (ds s y').d0) && decide (w.nj ≤ (ds s y').d1)), at15 z' whole ]
      cmd := fun s =>
        if f = 1 then { kind := .copyx true (v == 1), z := z', tz := td s z', bound := boundOf s x.toNat
                        feed := some (beside s.cur (y' / 8 % 4), y' % 8) }
        else img (.copyx false (v == 1)) (boundOf s x.toNat) s },
    { i := .COPYM m y z t v, e
      checks := fun s =>
        both s (fun d => plainFmt d && (d.space == 2 || d.own s.cur)) plainFmt none ++
        (if v = 1 then at15 y' ((ds s y').space == 2) :: sliceChecks s y' z'
         else [ at15 y' (decide ((ds s z').d0 ≤ (ds s y').d0) && decide ((ds s z').d1 ≤ (ds s y').d1)), at15 y' (joins (ds s z') (ds s y')) ])
      cmd := fun s => img (.copym (v == 1)) (some (vget (me s).b m.toNat 0)) s },
    { i := .COPYF x p n z t, e
      checks := fun s => [ at15 z' (okTd s z' && isVecFmt (ds s z').fmt), at15 z' (inside s z' (boundOf s x.toNat)) ]
      cmd := fun s => { kind := .copyf, z := z', tz := td s z', bound := boundOf s x.toNat, feed := some (beside s.cur n.toNat, p.toNat) } },
    { i := .COPYO x y z t, e
      checks := fun s => both s (fun d => plainFmt d && d.space == 2) plainFmt (boundOf s x.toNat) ++ sliceChecks s y' z'
      cmd := fun s => img .copyo (boundOf s x.toNat) s },
    { i := .EXPORT y z t, e
      checks := fun s => both s (fun d => d.fmt == 14 && (d.space == 3 || d.own s.cur)) (fun d => decide (8 ≤ d.fmt) && decide (d.fmt ≤ 11)) none
      cmd := fun s => img .exportMeta none s } ]

/-- The SWG major (R288, R289): the target, the indices, and in the next descriptor the values. -/
def swages (y z : BitVec 6) (o f : BitVec 3) : List Command :=
  let y' := y.toNat
  let z' := z.toNat
  let accepts (fmt : Nat) : Bool := match o.toNat with | 0 => fmt == 13 | 4 => fmt == 13 | 1 => fmt == 1 | _ => true
  let checks (s : State) : List (Byte × Word × Bool) :=
    let t := ds s y'
    let i := ds s z'
    let v := ds s (z' + 1)
    [ at15 y' (okTd s y' && decide (t.space < 2) && (t.fmt == 13 || t.fmt == 1)),
      at15 z' (decide (z' ≤ 62) && okTd s z' && i.fmt == 13),
      at15 (z' + 1) (okTd s (z' + 1) && v.fmt == t.fmt && v.d0 * v.d1 == i.d0 * i.d1), at15 y' (accepts t.fmt) ]
  let cmd (kind : CmdKind) (feed : Option (CoreId × Nat)) (s : State) : Cmd :=
    { kind, y := y', z := z', x := z' + 1, ty := td s y', tz := td s z', tx := td s (z' + 1), feed }
  [ { i := .SACC y z o, e := 4, checks, cmd := cmd (.sacc o.toNat) none },
    { i := .SACCR f y z o, e := 4, checks, cmd := fun s => cmd (.saccr o.toNat f.toNat) (some (s.cur, f.toNat)) s } ]

/-- The ROW major (R292). -/
def rows (x e : BitVec 5) (y z : BitVec 6) : List Command :=
  let y' := y.toNat
  let z' := z.toNat
  let x' := x.toNat
  let ok (s : State) (n : Nat) : Bool := okTd s n && (ds s n).own s.cur && ((ds s n).fmt == 1 || (ds s n).fmt == 2 || (ds s n).fmt == 3)
  let row (i : Instr) (kind : CmdKind) (d1 : Nat) (max : Bool) : Command :=
    { i, e := 3
      checks := fun s =>
        [at15 y' (ok s y'), at15 z' (ok s z')] ++ (if d1 = 0 then [] else [at15 x' (ok s x')]) ++
        [at15 y' ((ds s y').d1 == (ds s z').d1 && (max || (ds s y').d0 == (ds s z').d0))] ++
        (if d1 = 0 then [] else [at15 x' ((ds s x').d0 == (ds s z').d0 && decide (d1 ≤ (ds s x').d1))]) ++
        [at15 z' (decide ((ds s z').d0 * (ds s z').d1 ≤ 65536))]
      cmd := fun s => { kind, y := y', z := z', x := if d1 = 0 then 0 else x', ty := td s y', tz := td s z', tx := if d1 = 0 then 0 else td s x' } }
  [ row (.ROWSM y z) .rowsm 0 false, row (.ROWNM x y z e) (.rownm e.toNat) 1 false, row (.ROWLN x y z e) (.rowln e.toNat) 2 false,
    row (.ROWMX y z) .rowmx 0 true ]

/-- The stamp of a prefix, and the target that it makes (R313). -/
def stampPfx (s : State) : Option Nat := (me s).pfx.bind (·.stamp)
def stampTarget (s : State) (n : Nat) : Nat := ((me s).csr.stbase + BitVec.ofNat 64 n).toNat

/-- A stamped command needs a power region, fault 0x12, and a target ahead, fault 0x11 (R310, R313). -/
def stampFirst (s : State) : List (Byte × Word × Bool) :=
  match stampPfx s with | some n => [(0x12, BitVec.ofNat 64 n, (me s).csr.grant)] | none => []
def stampLast (s : State) : List (Byte × Word × Bool) :=
  match stampPfx s with | some n => [(0x11, s.clock.stamp, decide (s.clock.stamp.toNat < stampTarget s n))] | none => []

/-- The accumulator format of two operand formats (R67). -/
def accumulator (a b : Nat) : Nat := if a = 0 ∧ b = 0 then 2 else if (a = 6 ∨ a = 7) ∧ (b = 6 ∨ b = 7) then 1 else 0

/-- The A formats that R298 accepts with each B format. -/
def pairs (a b : Nat) (ebx : Bool) : Bool :=
  match b with
  | 0 => a == 0 && !ebx
  | 1 => (a == 1 || a == 2 || a == 3) && !ebx
  | 2 | 3 => decide (2 ≤ a) && decide (a ≤ 10)
  | 7 | 9 => a == 7 || a == 9 || a == 10
  | _ => decide (4 ≤ a) && decide (a ≤ 10)

/-- The MMA and MTILE majors (R298, R307, R310, R317 to R319). -/
def anvils (t f m2 : BitVec 2) (a b : BitVec 6) (n : BitVec 6) (c v : BitVec 1) : List Command :=
  let a' := a.toNat
  let b' := b.toNat
  let m := 16 * 2 ^ m2.toNat
  let nn := 16 * n.toNat
  let memory (s : State) (i : Nat) : Bool := (ds s i).space == 3 || (ds s i).own s.cur
  let fits (s : State) (i tf : Nat) : Bool := decide ((ds s i).d0 ≤ (if tf = 2 then 512 else 1024)) && decide ((ds s i).d1 ≤ 64)
  let stamp (s : State) : Option Nat := (stampPfx s).map (stampTarget s)
  [ { i := .MMA t a b m2 n c v, e := 2
      checks := fun s =>
        let da := ds s a'
        let db := ds s b'
        let k := 1024 / bitsOf db.fmt
        let fa := if da.fmt = 11 then da.pfmt else da.fmt
        let steps := (db.d1 + k - 1) / k
        stampFirst s ++
        [ at15 a' (okTd s a' && !(isAq fa && da.grp == 3) && decide (da.fmt < 12) && da.own s.cur),
          at15 b' (okTd s b' && decide (db.fmt < 10) && db.space == 2 && db.base % 128 == 0 &&
            decide (db.base + 128 * (((nn + 255) / 256 - 1) * steps + 1) ≤ 524288) && (db.fmt != 0 || decide (nn ≤ 512))),
          at15 a' (pairs fa db.fmt (da.fmt == 11) && (v != 1 || (decide (2 ≤ da.fmt) && decide (da.fmt ≤ 6))) &&
            (da.fmt != 11 || (decide (da.d0 ≤ k) && decide (da.d1 ≤ m))) &&
            (v != 1 || (List.range da.d1).all fun j => da.addr 0 j % 1024 == 0) &&
            (c != 1 || (me s).tfLeft t.toNat == accumulator fa db.fmt)),
          (0x17, BitVec.ofNat 64 (min nn 256), !(me s).csr.grant || decide (min nn 256 ≤ (me s).csr.level)) ] ++ stampLast s
      cmd := fun s => { kind := .mma t.toNat m nn (c == 1) (v == 1), y := a', z := b', ty := td s a', tz := td s b', stamp := stamp s } },
    { i := .MZERO t f, e := 2
      checks := fun s => stampFirst s ++ stampLast s
      cmd := fun s => { kind := .mzero t.toNat f.toNat, stamp := stamp s } },
    { i := .MSTORE t a, e := 2
      checks := fun s => stampFirst s ++
        [at15 a' (okTd s a' && memory s a' && (isVecFmt (ds s a').fmt || (ds s a').fmt == 7 || isAq (ds s a').fmt) && fits s a' ((me s).tfLeft t.toNat))] ++
        stampLast s
      cmd := fun s => { kind := .mstore t.toNat, y := a', ty := td s a', stamp := stamp s } },
    { i := .MLOAD t b f, e := 2
      checks := fun s => stampFirst s ++ [at15 b' (okTd s b' && memory s b' && isVecFmt (ds s b').fmt && fits s b' f.toNat)] ++ stampLast s
      cmd := fun s => { kind := .mload t.toNat f.toNat, z := b', tz := td s b', stamp := stamp s } } ]

/-- The LINK major (R394, R396 to R398). -/
def links (b p : BitVec 4) (y z : BitVec 6) : List Command :=
  let y' := y.toNat
  let z' := z.toNat
  let route (s : State) : Word := vget (me s).b b.toNat 0
  let own (s : State) (i : Nat) : Bool := (ds s i).own s.cur
  let routeOk (s : State) (topk : Bool) : Bool :=
    let w := (route s).toNat
    w / 2 ^ 24 == 0 && w / 2 ^ 14 % 4 == 0 && w / 2 ^ 6 % 4 == 0 && (if topk then w / 2 ^ 16 % 256 != 0 else w / 2 ^ 16 % 256 == 0)
  let up (s : State) : Bool := s.ports[p.toFin].trained && s.chorus.members.any fun x =>
    some x.idx == s.ports[p.toFin].peer && x.idx != s.chorus.self && (x.st == 2 || x.st == 3)
  let row (i : Instr) (kind : CmdKind) (topk : Bool) (tds : State → List (Byte × Word × Bool)) (dst src : Option Nat) : Command :=
    { i, e := 5
      checks := fun s => stampFirst s ++ [(0x09, BitVec.ofNat 64 p.toNat, up s)] ++ tds s ++ [at15 (64 + b.toNat) (routeOk s topk)] ++ stampLast s
      cmd := fun s => { kind, y := dst.getD 0, z := src.getD 0, ty := (dst.map (td s)).getD 0, tz := (src.map (td s)).getD 0, bound := some (route s)
                        stamp := (stampPfx s).map (stampTarget s) } }
  let sameShape (s : State) : Bool := (ds s y').d0 == (ds s z').d0 && (ds s y').d1 == (ds s z').d1
  [ row (.LXFER b z p) (.lxfer p.toFin) false (fun s =>
      [at15 z' (okTd s z' && (own s z' || (ds s z').space == 2 || (ds s z').space == 3) && !(List.contains [7, 10, 11] (ds s z').fmt))]) none (some z'),
    row (.LRECV b y p) (.lrecv p.toFin) false (fun s =>
      [at15 y' (okTd s y' && (own s y' || (ds s y').space == 3) && (isVecFmt (ds s y').fmt || isAq (ds s y').fmt))]) (some y') none,
    row (.LRED b y z p) (.lred p.toFin) false (fun s =>
      [ at15 y' (okTd s y' && (own s y' || (ds s y').space == 3) && [1, 2, 3, 8, 9].contains (ds s y').fmt && sameShape s),
        at15 z' (okTd s z' && own s z' && [1, 2, 3, 4, 5, 6, 8, 9].contains (ds s z').fmt) ]) (some y') (some z'),
    row (.LTOPK b y z p) (.ltopk p.toFin) true (fun s =>
      [ at15 y' (okTd s y' && own s y' && (ds s y').fmt == 1 && sameShape s),
        at15 z' (okTd s z' && own s z' && [1, 2, 3].contains (ds s z').fmt) ]) (some y') (some z') ]

end Sys2Proof.Claims

/-- R264, R265, R277 to R279, R282 to R287: the COPY major at issue. -/
def Sys2Proof.Claims.CopyCommands : Prop :=
  ∀ (x : BitVec 5) (y z : BitVec 6) (t f v : BitVec 1) (m : BitVec 4) (p : BitVec 3) (n : BitVec 2), ∀ r ∈ copies x y z t f v m p n, r.holds

/-- R264, R265, R288, R289, R292: the SWG and ROW majors at issue. -/
def Sys2Proof.Claims.SwageAndRowCommands : Prop :=
  ∀ (x e : BitVec 5) (y z : BitVec 6) (o f : BitVec 3), ∀ r ∈ swages y z o f ++ rows x e y z, r.holds

/-- R298, R307, R310, R313, R317 to R319: the MMA and MTILE majors at issue. -/
def Sys2Proof.Claims.AnvilCommands : Prop :=
  ∀ (t f m : BitVec 2) (a b n : BitVec 6) (c v : BitVec 1), ∀ r ∈ anvils t f m a b n c v, r.holds

/-- R394, R396 to R398: the LINK major at issue. -/
def Sys2Proof.Claims.LinkCommands : Prop := ∀ (b p : BitVec 4) (y z : BitVec 6), ∀ r ∈ links b p y z, r.holds

namespace Sys2Proof.Claims

open Sys2Proof.Machine

/-! ### Events of a core -/

/-- A read of own Ember whose data has reached its landing cycle and has not been taken. -/
def landing (r : SRead) (now : Nat) : Bool := r.unit == 0 && !r.here && (match r.land with | none => false | some d => decide (d ≤ now))

/-- What a read of own Ember brings when it lands: the fault fixed at its grant, else 0x1A where a word of it is poisoned or a double error strikes it in
a valid row group (R204). -/
def readCode (s : State) (c : CoreId) (r : SRead) (e : Ecc) : Option Byte :=
  let struck := ((s.core c).ember.rowAt r.off).any (·.st == .valid) && e == .double
  r.code.orElse fun _ => poisonCode (if struck then max r.pois 1 else r.pois)

/-- The state seen from core `c`: the machine with `c` as the core whose position is spoken of. -/
def at_ (s : State) (c : CoreId) : State := { s with cur := c }

/-- The byte that a list of optional bytes puts at offset `i`. -/
def byteOf (bs : List (Option Byte)) (i : Nat) : Option Byte := (bs[i]?).join

/-- The register of a bank with some bytes of its word replaced (R207). -/
def holdWith (sl : Slice) (off : Nat) (data : List Byte) : Hold :=
  let w := off / 8 * 8
  let old := ((sl.hold.find? fun x => x.1 == bankOf off && x.2.addr == w).map (·.2.data)).getD (List.replicate 8 none)
  ⟨w, (List.range 8).map fun i => if off ≤ w + i ∧ w + i < off + data.length then data[w + i - off]? else old.getD i none⟩

/-- The bytes of a store have entered the hold register of their bank: beside bytes of the same word that it held, or alone when it held another word, which
has drained. -/
def entersHold (sl t : Slice) (off : Nat) (data : List Byte) : Prop :=
  let other := sl.hold.any fun x => x.1 == bankOf off && x.2.addr != off / 8 * 8
  t.mem = (if other then (sl.drain (bankOf off)).mem else sl.mem) ∧
  t.hold = (bankOf off, holdWith (if other then { sl with hold := [] } else sl) off data) :: sl.hold.filter (·.1 != bankOf off)

/-- The element, among some that a vector store writes, that covers the byte at `a`; and the byte it writes there. -/
def covers (xs : List VElem) (a : Nat) : Option VElem := xs.find? fun x => x.addr ≤ a && a < x.addr + x.n
def putAt (xs : List VElem) (a : Nat) (old : Byte) : Byte :=
  match covers xs a with | none => old | some x => (x.data.getD []).getD (a - x.addr) 0

/-- Elements that one request of a vector store writes: all in one line, no two with a byte in common, each with its bytes (R182). -/
def oneRequest (xs : List VElem) (line : Nat) : Prop :=
  (∀ x ∈ xs, ∃ d : List Byte, x.data = some d ∧ d.length = x.n ∧ 64 * line ≤ x.addr ∧ x.addr + x.n ≤ 64 * line + 64) ∧
  xs.Pairwise fun x y => x.addr + x.n ≤ y.addr ∨ y.addr + y.n ≤ x.addr

/-- No spilled line of a core holds a byte of the store `g`. -/
def untouched (c : Core) (g : GStore) : Prop := ∀ l ∈ c.spilt, overlap l.addr 64 g.addr g.data.length = false

/-- Memory after a core's store has been written at its translated address. -/
def written (m : Mem) (c : Core) (g : GStore) : Mem :=
  match translate m c.theTask g.addr needW with | none => m | some p => m.writeMask p g.data

/-- A release store `g` takes the place of the bytes `old`, at `a` on, of its task's own older plain stores: those it covers are gone. -/
def cutBy (g : GStore) (a : Nat) (old new : List (Option Byte)) : Prop :=
  new.length = old.length ∧ ∀ i, byteOf new i = if g.addr ≤ a + i ∧ (byteOf g.data (a + i - g.addr)).isSome = true then none else byteOf old i

/-- Access `i` of a vector memory instruction is the first that fails, with its fault and its address. -/
def failsAt (m : VMem) (i : Nat) (e : Byte) (ea : Word) : Prop :=
  ((m.elems.take i).all fun x => x.code.isNone) = true ∧
  ((∃ x, m.elems[i]? = some x ∧ x.code = some e ∧ x.ea = ea) ∨ (i = m.elems.length ∧ m.stop = some (e, ea)))

/-- What a vector load has read, as elements of its format. -/
def readElems (m : VMem) (xs : List VElem) : List Nat := xs.map fun x => heldElem m.fmt (leNat (x.data.getD []))

/-- The runs that the slots of an image hold (R139, R140): of FP64 a slot of the encoding, then one of the count. -/
def imageOf (fmt : Nat) (ws : List Nat) : Runs :=
  if fmt = 0 then (List.range (ws.length / 2)).map fun i => (ws.getD (2 * i + 1) 0 / 2 ^ 48 % 2 ^ 16 + 1, ws.getD (2 * i) 0)
  else ws.map fun w => (w / 2 ^ 48 % 2 ^ 16 + 1, heldElem fmt (w % 2 ^ 32))

end Sys2Proof.Claims

/-- R105, R131: a result that lands fills its queue slot and its named register, unless it carries a deferred fault, which then marks them; no other
register or slot changes. -/
def Sys2Proof.Claims.ResultLands : Prop :=
  ∀ (c : CoreId) (id d : Nat) (f : Fly) (s : State), (s.core c).fly.find? (·.id == id) = some f → f.due = some d → d ≤ s.now →
    ∃ t, exec (.RESULT_LANDING c id) s = .next t ∧ (t.core c).fly = (s.core c).fly.filter (·.id != f.id) ∧ t.mem = s.mem ∧
      (∀ l, l ≠ c → t.core l = s.core l) ∧
      (f.mark = none → (t.core c).marks = (s.core c).marks ∧
        (∀ x, x < 32 → (t.core c).getS x = if x = f.dst ∧ x ≠ 0 then f.val else (s.core c).getS x) ∧
        ∀ i : Fin 16, (t.core c).q[i] = if (s.core c).q[i].pend = some f.id then { val := f.val, pend := none } else (s.core c).q[i]) ∧
      (∀ e, f.mark = some e → (t.core c).marks = (s.core c).marks ++ [⟨f.id, f.dst, e, f.ea, f.cls⟩] ∧ (t.core c).s = (s.core c).s ∧
        (t.core c).q = (s.core c).q)

/-- R205, R127, R204, R273, R352: a read of own Ember that lands gives its load the extended value of its bytes, or its fault as a deferred mark; TDCOPY's
and WAITV's data is then there for their position. -/
def Sys2Proof.Claims.EmberReadsLand : Prop :=
  ∀ (c : CoreId) (id : Nat) (e : Ecc) (r : SRead) (s : State),
    ((s.core c).reads.find? (fun r => (if id = 0 then r.who.isTd else r.who == .load id) && landing r s.now) = some r →
      ∃ t, exec (.EMBER_READ_RETURN c id e) s = .next t ∧ t.mem = s.mem ∧ (t.core c).s = (s.core c).s ∧
        (id ≠ 0 → (t.core c).reads = (s.core c).reads.filter (fun x => x.who != .load id) ∧
          (t.core c).fly = (s.core c).fly.map (fun f =>
            if f.id == id then { f with val := extend f.ext r.bytes, mark := readCode s c r e, due := some s.now } else f)) ∧
        (id = 0 → (t.core c).reads =
          (s.core c).reads.map (fun x => if x.who.isTd then { x with here := true, code := readCode s c r e } else x))) ∧
    ((s.core c).reads.find? (fun r => r.who.isWaitv && !r.here && (match r.land with | none => false | some d => decide (d ≤ s.now))) = some r →
      ∃ t, exec (.WAITV_READ c e) s = .next t ∧ t.mem = s.mem ∧ (t.core c).s = (s.core c).s ∧
        (t.core c).reads =
          (s.core c).reads.map (fun x => if x.who.isWaitv then { x with here := true, code := readCode s c r e } else x))

/-- R237, R127, R204, R248: when the walk of a global load that forwards nothing completes, its value is fixed as the bytes at its physical address, with a
mark where a word of them is poisoned; it lands at a later time that is free (log 9). While a load of its class before it waits for its bank it waits too
(log 119). -/
def Sys2Proof.Claims.GlobalLoadFixed : Prop :=
  ∀ (c : CoreId) (id : Nat) (f : Fly) (s : State), (s.core c).fly.find? (fun f => f.id == id && f.walk.isSome) = some f →
    ((s.core c).readOpen f.cls id = true → exec (.WALK_COMPLETE c id) s = .next s) ∧
    ((s.core c).readOpen f.cls id = false → f.fwd = List.replicate f.size none → f.size ≠ 0 →
    ∃ t due, exec (.WALK_COMPLETE c id) s = .next t ∧ s.now < due ∧ t.mem = s.mem ∧ (t.core c).s = (s.core c).s ∧
      (t.core c).fly = (s.core c).fly.map (fun g => if g.id == id then
        { g with val := extend f.ext (s.mem.read f.val.toNat f.size), mark := poisonCode (s.mem.errorsIn f.val.toNat (List.replicate f.size true)).1
                 due := some due, walk := none } else g))

/-- R157, R182: a vector instruction's occupancy ends; a vector memory instruction then writes its registers and completes its position, or takes the
fault of its first access that failed. -/
def Sys2Proof.Claims.VectorEnds : Prop :=
  ∀ (c : CoreId) (s : State), s.vecEnds c = true → ∀ v, (s.core c).vbusy = some v →
    (v.mem = none → exec (.VECTOR_OCCUPANCY_END c) s = .next (s.setCore c { s.core c with vbusy := none })) ∧
    (∀ m e x, v.mem = some m → m.finish (s.core c) (Config.wild s.clock.free) = .error (e, x) →
      exec (.VECTOR_OCCUPANCY_END c) s = .next (s.setCore c ({ s.core c with vbusy := none }.raise e x none false s.now))) ∧
    (∀ m k slots n, v.mem = some m → m.finish (s.core c) (Config.wild s.clock.free) = .ok (k, slots) →
      leads (at_ s c) (s.core c).fetch none n → k.fetch = (s.core c).fetch →
      exec (.VECTOR_OCCUPANCY_END c) s = .next ((at_ s.fresh.2 c).setCore c
        { ({ k with vbusy := none }.moved s.now n.1 n.2).stepped (s.core c) with ready := s.now }))

/-- R177, R178, R180, R148: a strided load whose accesses all succeed leaves in each part the bytes read as elements, then the old tail. A first-fault load
whose access `i` fails keeps of each part the elements before it, without a tail, and COUNT becomes the number of that element (one that its field cannot
hold is a free value, log 5; that every part is cut to its active count is log 126); one whose access 0 fails, and any other load of which one fails,
takes its fault. An image gives the runs of its slots, and faults with 0x0E where they hold more than 65,535 elements. No other register changes. -/
def Sys2Proof.Claims.StridedLoadResult : Prop :=
  ∀ (m : VMem) (c : Core) (w : Nat),
    (∀ c' slots, (m.kind = .strided ∨ m.kind = .firstFault) → m.stop = none → m.dst + m.active.length ≤ 32 →
      (m.elems.all fun x => x.code.isNone) = true → m.elems.length = m.active.sum → m.finish c w = .ok (c', slots) →
      (∀ j n, m.active[j]? = some n → (c'.getV (m.dst + j)).fmt = m.fmt ∧
        elems c' (m.dst + j) = readElems m ((m.elems.drop (m.active.take j).sum).take n) ++
          (if n < m.per then (elems c (m.dst + j)).drop n else [])) ∧
      (∀ r, r < 32 → (r < m.dst ∨ m.dst + m.active.length ≤ r) → c'.getV r = c.getV r) ∧ c'.k = c.k) ∧
    (∀ i e ea, failsAt m i e ea → (m.kind = .strided ∨ m.kind = .image ∨ (m.kind = .firstFault ∧ i = 0)) → m.finish c w = .error (e, ea)) ∧
    (∀ i e ea c' slots, failsAt m i e ea → m.kind = .firstFault → 0 < i → m.dst + m.active.length ≤ 32 → m.k < 8 → m.finish c w = .ok (c', slots) →
      (∀ j n, m.active[j]? = some n → (c'.getV (m.dst + j)).fmt = m.fmt ∧
        elems c' (m.dst + j) = readElems m ((m.elems.drop (m.active.take j).sum).take (min n (i - (m.active.take j).sum)))) ∧
      (∀ r, r < 32 → (r < m.dst ∨ m.dst + m.active.length ≤ r) → c'.getV r = c.getV r) ∧
      ∀ j r n, m.active[j]? = some n → r < n → i = (m.active.take j).sum + r → m.k ≠ 0 →
        let e := j * m.per + r
        c'.getK m.k = { count := BitVec.ofNat 17 (if e ≤ 131071 then e else w), wid := BitVec.ofNat 2 (widthOf m.fmt).log2 }) ∧
    (m.kind = .image → m.stop = none → (m.elems.all fun x => x.code.isNone) = true → m.dst < 32 → m.elems.length ≤ 8192 →
      let ws := m.elems.map fun x => leNat (x.data.getD [])
      (m.fmt = 0 → ws.length % 2 = 0) →
      let rs := imageOf m.fmt ws
      m.finish c w = if 65535 < (rs.map (·.1)).sum then .error (0x0E, BitVec.ofNat 64 m.dst)
        else .ok ({ c with v := vput c.v m.dst { fmt := m.fmt, runs := rs } }, ws.length))

/-- R178, R179, R182, R204: the bytes of a vector store. A granted request writes its elements into own Ember and takes them from the request list; its side
port writes one request into operand SRAM, unless an older store to those bytes is still on its way; a plain global store enters the commit buffer, one after
another. The instruction ends only when all of them are made, and not before its occupancy (R156). -/
def Sys2Proof.Claims.VectorStoresLand : Prop :=
  (∀ (c : Core) (xs : List VElem) (line : Nat) (r : Row), xs ≠ [] → oneRequest xs line → c.ember.rowAt (64 * line) = some r → c.ember.mem.wf = true →
    let t := c.vecPuts xs
    (∀ a, (covers xs a).isSome = true ∨ r.st ≠ .empty → t.ember.byte a = putAt xs a (c.ember.byte a)) ∧
    (t.ember.rowAt (64 * line)).map (·.st) = some (if r.st = .empty then .valid else r.st) ∧
    t.v = c.v ∧ t.k = c.k ∧ t.s = c.s ∧ t.sram = c.sram ∧ t.exposed.map (·.id) = c.exposed.map (·.id)) ∧
  (∀ (s s' : State) (l : CoreId) (v v' : VBusy) (m m' : VMem) (r : VReq), (s.core l).vbusy = some v → v.mem = some m → m.kind = .store →
    m.ember = r :: m'.ember → (s'.core l).vbusy = some v' → v'.mem = some m' →
    State.vecWrites s s' l = s'.setCore l ((s'.core l).vecPuts ((m.elems.drop r.first).take r.count))) ∧
  (∀ (s : State) (l : CoreId) (v : VBusy) (m : VMem) (r : VReq) (rest : List VReq), (s.core l).vbusy = some v → v.mem = some m → m.kind = .store →
    m.ember = r :: rest → ((s.takeVec l).core l).vbusy = some { v with mem := some { m with ember := rest, land := max m.land (s.now + 1) } }) ∧
  (∀ (s : State) (l : CoreId) (v : VBusy) (m : VMem) (r : VReq) (rest : List VReq) (line : Nat), s.vecWorks l = some m → (s.core l).vbusy = some v →
    m.kind = .store → m.side = r :: rest →
    let xs := (m.elems.drop r.first).take r.count
    let old (x : VElem) : Prop := ∃ g ∈ (s.core l).gst, 2 ^ 48 ≤ g.addr ∧ g.prog < v.prog ∧ overlap (g.addr - sramWindow) g.data.length x.addr x.n = true
    ((∃ x ∈ xs, old x) → s.vecSide l = s) ∧
    ((∀ x ∈ xs, ¬ old x) → oneRequest xs line → xs ≠ [] → (s.core l).sram.wf = true →
      let t := s.vecSide l
      t.mem = s.mem ∧ (∀ k, k ≠ l → t.core k = s.core k) ∧ (t.core l).ember = (s.core l).ember ∧
      (t.core l).vbusy = some { v with mem := some { m with side := rest, land := max m.land (s.now + 1) } } ∧
      ∀ a, (t.core l).sram.get a = putAt xs a ((s.core l).sram.get a))) ∧
  (∀ (c : CoreId) (s : State) (v : VBusy) (m : VMem) (g : GStore), (s.core c).readyStores s.now = [] → (s.core c).readyVec s.now = some (v, m, g) →
    g.addr < 2 ^ 48 → ∃ t, exec (.STORE_ACCEPT c) s = .next t ∧ (t.core c).s = (s.core c).s ∧ (t.core c).v = (s.core c).v ∧
      (t.core c).vbusy = some { v with mem := some { m with stored := m.stored.drop 1, land := max m.land (s.now + 1) } } ∧
      (g.rel = none → (s.core c).theTask.gang = false → t.mem = s.mem ∧
        (t.core c).wbuf.map (fun l => (l.addr, l.bytes, l.held)) =
          (mergeLine (s.core c).wbuf (s.core c).closes g).map fun l => (l.addr, l.bytes, l.held)) ∧
      (g.rel.isSome = true → (s.core c).theTask.breaches g.addr g.data = false → untouched (s.core c) g → t.mem = written s.mem (s.core c) g)) ∧
  ∀ (c : CoreId) (s : State) (v : VBusy) (m : VMem), s.vecEnds c = true → (s.core c).vbusy = some v → v.mem = some m → m.kind = .store →
    m.ember = [] ∧ m.side = [] ∧ m.stored = [] ∧ m.land ≤ s.now ∧ v.issue + (m.slots + 31) / 32 + 6 ≤ s.now

/-- R205 to R207: the banks. Requests for a bank are granted by their rank, the starved ones, those that have waited 15 cycles, first, and each requester's
in its own order; of the requests so ordered the first for each bank that is still free is granted, and the others wait a cycle more. A hold register that
no request claims drains, and one into which another write is due drains by force. -/
def Sys2Proof.Claims.EmberArbitration : Prop :=
  (∀ off, bankOf off = (off / 64 % 32) ^^^ (off / 2048 % 32)) ∧
  (∀ (k c d : CoreId) (u v : Fin 2), c ≠ k → d ≠ k → let r (w : Who) : Nat := w.rank k
    r .drain < r .refresh ∧ r .refresh < r .crucible ∧ r .crucible < r (.tongs k 0) ∧ r (.tongs k 0) < r (.tongs k 1) ∧ r (.tongs k 1) < r (.tongs c u) ∧
    r (.tongs c 0) < r (.tongs c 1) ∧ r (.tongs c u) < r .temper ∧ r .temper < r (.swage k) ∧ r (.swage k) < r (.swage c) ∧ r (.swage c) < r .vec ∧
    r .vec < r .smith ∧ (c < d → r (.tongs c u) < r (.tongs d v) ∧ r (.swage c) < r (.swage d))) ∧
  (∀ (sl : Slice) (k : CoreId) (asks : List Ask),
    let late (a : Ask) : Prop := ∃ n, (a.who, a.key, n) ∈ sl.waits ∧ 15 ≤ n
    (sl.order k asks).Perm asks ∧
    ((sl.order k asks).Pairwise fun a b => (late b → late a) ∧ ((late a ↔ late b) → a.who.rank k ≤ b.who.rank k)) ∧
    ∀ w p, ((sl.order k asks).filter fun a => a.who == w && sl.starved a == p) = asks.filter fun a => a.who == w && sl.starved a == p) ∧
  (∀ (taken : List Nat) (asks : List Ask), asks.Nodup →
    let (g, w) := grantBanks taken asks
    (∀ pre a post, asks = pre ++ a :: post → (a ∈ g ↔ bankOf a.addr ∉ taken ∧ ∀ b ∈ pre, bankOf b.addr ≠ bankOf a.addr)) ∧
    w = asks.filter fun a => !g.contains a) ∧
  ∀ (k : CoreId) (asks : List Ask) (s : State), (∀ x ∈ (s.core k).ember.hold, x.1 < 32) →
    let sl := (s.core k).ember
    let forced := (s.core k).forced s.now
    let lines := sl.refreshLines s.now
    let t := State.arbitrate k asks (s, [])
    (asks ≠ [] →
      let fresh := (grantBanks forced (lines.map fun a => { core := k, who := .refresh, key := a, place := .ember k, addr := a, doing := .rmw })).1
      (t.1.core k).ember.waits = (grantBanks (forced ++ fresh.map fun (a : Ask) => bankOf a.addr) (sl.order k asks)).2.map fun a =>
        (a.who, a.key, ((sl.waits.find? fun w => w.1 == a.who && w.2.1 == a.key).map (·.2.2)).getD 0 + 1)) ∧
    ∀ b : Fin 32, .writeHoldDrain k b ∈ t.2 ↔ b.val ∈ forced ∨
      ((∃ h, (b.val, h) ∈ sl.hold) ∧ (∀ a ∈ asks, bankOf a.addr ≠ b.val) ∧ ∀ a ∈ lines, bankOf a ≠ b.val)

/-- R110, R105, R33, R93: an annulled position takes its cycle and has no effect; a stall that ends lets its position issue; an illegal position takes fault
0x01, or 0x02 for a reserved field. -/
def Sys2Proof.Claims.PositionEvents : Prop :=
  (∀ (c : CoreId) (s : State) (size w : Nat) (n : Fetch × Loop), (s.core c).run = .running → (s.core c).fetch.pc.ann = true →
    wordAt s.mem (s.core c).theTask (s.core c).loop (s.core c).fetch.pc.addr.toNat = .ok (size, w) →
    let head := isHeader s.mem (s.core c).theTask (s.core c).loop (s.core c).fetch.pc.addr.toNat
    ((s.core c).fetch.pc.tgt = true → head = true) → runs (at_ s c) size (if head then .header else .plain) = true →
    leads (at_ s c) (s.core c).fetch none n → exec (.ANNULLED_POSITION c) s = .next (after (at_ s c) (s.core c) n)) ∧
  (∀ (c : CoreId) (s : State), exec (.ISSUE_STALL_RELEASE c) s = .next (s.setCore c { s.core c with stall := none }) ∧
    ∀ n, (s.core c).stall = some (.counters n) → exec (.WAIT_CONDITION_MET c) s = .next (s.setCore c { s.core c with stall := none })) ∧
  ∀ (c : CoreId) (res : Bool) (p : Word) (s : State), (s.core c).run = .running →
    exec (.ILLEGAL_INSTRUCTION c res p) s = .next (s.setCore c ((s.core c).raise (if res then 0x02 else 0x01) p none false s.now))

/-- R130, R207, R209, R194: a store to own Ember that is due, or a landing-list entry that is replayed, enters the hold register of its bank and leaves its
list; another word that the register still holds drains into the array first, and else the array is unchanged; the other banks' registers are unchanged, and
an empty row group becomes valid. -/
def Sys2Proof.Claims.ExposedStoresWrite : Prop :=
  (∀ (c : CoreId) (id : Nat) (x : Exposed) (s : State), ((s.core c).dueStores s.now).find? (·.id == id) = some x →
    ((s.core c).ember.rowAt x.off).isSome = true →
    ∃ t, exec (.EXPOSED_STORE_WRITE c id) s = .next t ∧ (t.core c).exposed = (s.core c).exposed.filter (·.id != id) ∧ t.mem = s.mem ∧
      (∀ l, l ≠ c → t.core l = s.core l) ∧ (t.core c).s = (s.core c).s ∧ entersHold (s.core c).ember (t.core c).ember x.off x.data ∧
      ((t.core c).ember.rowAt x.off).map (·.st) = ((s.core c).ember.rowAt x.off).map fun r => if r.st = .empty then .valid else r.st) ∧
  ∀ (c : CoreId) (slot : Fin 8) (x : Landing) (d : Nat) (s : State), (s.core c).land[slot.val]? = some x → x.at_ = some d → d ≤ s.now →
    ((s.core c).ember.rowAt x.off).isSome = true →
    ∃ t, exec (.LANDING_ENTRY_REPLAY c slot) s = .next t ∧ (t.core c).land = (s.core c).land.eraseIdx slot.val ∧ t.mem = s.mem ∧
      (∀ l, l ≠ c → t.core l = s.core l) ∧ (t.core c).s = (s.core c).s ∧ entersHold (s.core c).ember (t.core c).ember x.off x.data

/-- R207: a hold register that drains writes the bytes it holds into the array, and no other byte of it; other cores and HBM are unchanged. -/
def Sys2Proof.Claims.HoldDrains : Prop :=
  ∀ (c : CoreId) (b : Fin 32) (h : Hold) (s : State), (s.core c).ember.hold.find? (·.1 == b.val) = some (b.val, h) →
    ((s.core c).ember.rowAt h.addr).isSome = true → (s.core c).ember.mem.wf = true →
    ∃ t, exec (.WRITE_HOLD_DRAIN c b) s = .next t ∧ (t.core c).ember.hold = (s.core c).ember.hold.filter (·.1 != b.val) ∧ t.mem = s.mem ∧
      (∀ l, l ≠ c → t.core l = s.core l) ∧
      ∀ a, (t.core c).ember.mem.get a =
        ((if h.addr ≤ a then byteOf h.data (a - h.addr) else none).getD ((s.core c).ember.mem.get a))

/-- R256, R251, R228: the first store that may be made is made: a plain global one enters the commit buffer and writes no memory; a release writes global memory
at its translated address, and the bytes of older stores of its task that it covers leave their lines; a store to operand SRAM writes there. It leaves the list of stores on their way. What a store into the task's own commit-spill
area leaves is unpredictable (R8; log 12). -/
def Sys2Proof.Claims.StoresAreMade : Prop :=
  ∀ (c : CoreId) (g : GStore) (rest : List GStore) (s : State), (s.core c).readyStores s.now = g :: rest →
    ∃ t, exec (.STORE_ACCEPT c) s = .next t ∧ (t.core c).s = (s.core c).s ∧
      (2 ^ 48 ≤ g.addr → t.mem = s.mem ∧ (t.core c).gst = (s.core c).gst.filter (·.prog != g.prog) ∧
        (t.core c).sram = (s.core c).sram.writeMask (g.addr - sramWindow) g.data) ∧
      (g.rel = none → g.addr < 2 ^ 48 → (s.core c).theTask.gang = false → t.mem = s.mem ∧
        (t.core c).gst = (s.core c).gst.filter (·.prog != g.prog) ∧
        (t.core c).wbuf.map (fun l => (l.addr, l.bytes, l.held)) =
          (mergeLine (s.core c).wbuf (s.core c).closes g).map fun l => (l.addr, l.bytes, l.held)) ∧
      (g.rel.isSome = true → g.addr < 2 ^ 48 → (s.core c).theTask.breaches g.addr g.data = false →
        t.core c = ((s.core c).supersedeOld g).dropStore g.prog ∧ (untouched (s.core c) g → t.mem = written s.mem (s.core c) g) ∧
        let k := (s.core c).supersedeOld g
        ∀ (i : Nat) (l : CLine), (s.core c).wbuf[i]? = some l → ∃ l' : CLine, k.wbuf[i]? = some l' ∧ l'.addr = l.addr ∧ l'.held = l.held ∧
          ((l.held.all fun h => h.2 < g.prog) = true → cutBy g l.addr l.bytes l'.bytes) ∧
          ((l.held.all fun h => h.2 < g.prog) = false → l'.bytes = l.bytes))

/-- R257, R262: the oldest line of a commit buffer commits: its bytes that are held are written at its translated address and leave the buffer; every other
byte of memory is unchanged. What a line that reaches into the task's commit-spill area leaves is unpredictable (R8; log 12). -/
def Sys2Proof.Claims.LinesCommit : Prop :=
  ∀ (c : CoreId) (l : CLine) (rest : List CLine) (s : State), (s.core c).lineDue s.now = true → (s.core c).wbuf = l :: rest → s.mem.wf = true →
    ∃ t, exec (.COMMIT_LINE c) s = .next t ∧ (t.core c).wbuf = rest ∧ ((s.core c).theTask.breaches l.addr l.bytes = false →
      t.core c = { s.core c with wbuf := rest } ∧ (∀ k, k ≠ c → t.core k = s.core k) ∧
      (translate s.mem (s.core c).theTask l.addr needW = none → t.mem = s.mem) ∧
      ∀ p, translate s.mem (s.core c).theTask l.addr needW = some p →
        ∀ a, t.mem.get a = (if p ≤ a then byteOf l.bytes (a - p) else none).getD (s.mem.get a))

/-- R215, R214, R224: a rewrite of the refresh unit is presented once it is ready; when it has written its last line it leaves the queue and counts, and a
refresh resets its row group's age and counts in `refcnt`. -/
def Sys2Proof.Claims.Refreshes : Prop :=
  ∀ (c : CoreId) (q : Rewrite) (rest : List Rewrite) (s : State), (s.core c).ember.queue = q :: rest →
    let k := s.core c
    (q.begun = none → q.ready ≤ s.now → exec (.REFRESH_REWRITE c) s =
      .next (s.setCore c { k with ember := { k.ember with queue := { q with begun := some s.now } :: rest } })) ∧
    (k.ember.rewritten s.now = true → ∃ t, exec (.REWRITE_END c) s = .next t ∧ t.mem = s.mem ∧ (t.core c).ember.mem = k.ember.mem ∧
      (k.ember.row q.g = none → (t.core c).ember.queue = rest ∧ (t.core c).csr.refcnt = k.csr.refcnt) ∧
      ∀ r, k.ember.row q.g = some r →
        (t.core c).csr.refcnt = (if q.touch then k.csr.refcnt else k.csr.refcnt + 1) ∧
        (q.touch = false → r.st = .valid → k.ember.bound ≠ some s.now →
          (t.core c).ember.row q.g = some { r with rq := false, age := 0 } ∧ (t.core c).ember.queue = rest) ∧
        (q.touch = false → r.st ≠ .valid → (t.core c).ember.row q.g = some { r with rq := false, age := 0 } ∧ (t.core c).ember.queue = rest) ∧
        (q.touch = true → (t.core c).ember.row q.g = some { r with rq := false } ∧ (t.core c).ember.queue = rest))

/-- R191, R189, R190: an asynchronous cause is taken at a boundary outside the handler, the unit failure 0x19 before 0x18, an engine's cause by its number, an
expiry 0x0B, and a single step 0x1B; the cause leaves the place where it waited, and a pending single step stays until it is taken itself (R197). -/
def Sys2Proof.Claims.AsynchronousTraps : Prop :=
  (∀ (c : CoreId) (code : Byte) (tval : Word) (eng : Option EngId) (ss : Bool) (s : State), (s.core c).run = .running →
    (s.core c).pendingTrap = some (code, tval, eng, ss) →
    exec (.TRAP_ENTRY c code tval eng ss) s = .next (s.setCore c (((s.core c).takeCause code eng).raise code tval eng ss s.now))) ∧
  (∀ k : Core, k.csr.h = true → k.pendingTrap = none) ∧
  (∀ k : Core, k.csr.h = false →
    (∀ m, k.pend19 = some m → k.pendingTrap = some (0x19, m, none, false)) ∧
    (k.pend19 = none → k.pend18 = true → k.pendingTrap = some (0x18, 0, none, false)) ∧
    (k.pend19 = none → k.pend18 = false → ∀ (e : EngId) f, k.eng[e].cause = some f → (∀ e' : EngId, e' < e → k.eng[e'].cause = none) →
      k.pendingTrap = some (f.1, f.2, some e, false)) ∧
    (k.pend19 = none → k.pend18 = false → (∀ e : EngId, k.eng[e].cause = none) → ∀ g t, k.expiry = g :: t →
      k.pendingTrap = some (0x0B, BitVec.ofNat 64 g, none, false)) ∧
    (k.pend19 = none → k.pend18 = false → (∀ e : EngId, k.eng[e].cause = none) → k.expiry = [] →
      k.pendingTrap = k.stepOf.map fun a => (0x1B, a, none, true))) ∧
  ∀ (k : Core) (code : Byte) (eng : Option EngId), (eng.isSome = true ∨ code = 0x19 ∨ code = 0x18 ∨ code = 0x0B) →
    (k.takeCause code eng).stepOf = k.stepOf

/-- R193: once the queue has landed a cause enters the handler: `fpc`, `npc` and `nnpc` hold the positions, `status` their annul and target bits and H, `cause` and
`tval` the cause; the queue and the loop state go to the shadow, the vector and predicate registers stay as they are, no loop is active, and pc is
`thandler`. -/
def Sys2Proof.Claims.TrapEntry : Prop :=
  ∀ (c : CoreId) (code : Byte) (tval : Word) (eng : Option EngId) (ss : Bool) (a : Byte) (b : Word) (e : Option EngId) (z : Bool) (s : State),
    let k := s.core c
    k.run = .entering code tval eng ss → k.enters code = true → k.landedAll = true → k.marks = [] → k.csr.thandler.toNat < 2 ^ 48 →
    k.csr.thandler.toNat % 2 = 0 →
    (entryFetch s.mem { k with loop := k.loop.setDep 0 } k.csr.thandler.toNat).toOption.isSome = true →
    ∃ t, exec (.TRAP_ENTRY c a b e z) s = .next t ∧ t.mem = s.mem ∧ (∀ l, l ≠ c → t.core l = s.core l) ∧
      let u := t.core c
      u.run = .running ∧ u.csr.h = true ∧ u.csr.fpc = k.fetch.pc.addr ∧ u.csr.npc = k.fetch.n1.addr ∧ u.csr.nnpc = k.fetch.n2.addr ∧
      u.csr.ann.getLsbD 0 = k.fetch.pc.ann ∧ u.csr.ann.getLsbD 1 = k.fetch.n1.ann ∧
      u.csr.tgt.getLsbD 0 = k.fetch.pc.tgt ∧ u.csr.tgt.getLsbD 1 = k.fetch.n1.tgt ∧ u.csr.tgt.getLsbD 2 = k.fetch.n2.tgt ∧
      u.csr.cause = BitVec.ofNat 64 (code.toNat + (match eng with | none => 0 | some x => 256 + 512 * x.val) + (if ss then 8192 else 0)) ∧
      u.csr.tval = tval ∧ u.shadow.queue = k.q.map (·.val) ∧ u.shadow.loop = k.loop ∧ u.v = k.v ∧ u.k = k.k ∧ u.fetch.pc.addr = k.csr.thandler ∧ u.fetch.pc.tgt = true ∧
      u.s = k.s

/-- R199, R341: Salamander answers a TRAP once its time has come: the result is pushed and written to the named register, and the task runs on. -/
def Sys2Proof.Claims.SystemServices : Prop :=
  ∀ (c : CoreId) (a b : Word) (dst due : Nat) (s : State), (s.core c).run = .service a b dst due → due ≤ s.now →
    ∃ t, exec (.SYSTEM_SERVICE c) s = .next t ∧ (t.core c).run = .running ∧ (t.core c).ready = s.now ∧
      let v : Word := if a.toNat % 65536 = 1 then s.clock.tick else if a.toNat % 65536 = 0 ∨ a.toNat % 65536 = 2 then 0 else -1
      (∀ x, x < 32 → (t.core c).getS x = if x = dst ∧ x ≠ 0 then v else (s.core c).getS x) ∧
      (t.core c).q = pushQ (s.core c).q { val := v } ∧
      (a.toNat % 65536 = 2 → ∀ k, s.hub.card (s.core c).theTask.card = some k →
        (t.hub.card (s.core c).theTask.card).map (·.diag) = some b)

namespace Sys2Proof.Claims

open Sys2Proof.Machine

/-! ### Engines -/

/-- `t` is `s` after bytes `bs` have been written with a mask at `a` of a place, for a command of core `c`: own or another core's Ember (R203), operand
SRAM (R228), or global memory at the translated address (R231); a write into the card's commit-spill area is unpredictable (R8; log 12). -/
def wrote (s t : State) (c : CoreId) (p : Place) (a : Nat) (bs : List (Option Byte)) : Prop :=
  match p with
  | .ember k => t.mem = s.mem ∧ (t.core k).sram = (s.core k).sram ∧
      (((s.core k).ember.rowAt a).isSome = true → (t.core k).ember.mem = (s.core k).ember.mem.writeMask a bs)
  | .sram k => t.mem = s.mem ∧ (t.core k).sram = (s.core k).sram.writeMask a bs ∧ (t.core k).ember = (s.core k).ember
  | .glob => (s.core c).theTask.breaches a bs = false → t.mem = match translate s.mem (s.core c).theTask a needW with | none => s.mem | some x => s.mem.writeMask x bs

/-- An engine of a core. -/
abbrev engOf (s : State) (c : CoreId) (e : EngId) : Eng := (s.core c).eng[e]

/-- Nothing that Smith holds has changed on any core: registers, queue, fetch state. -/
def smithKept (s t : State) : Prop :=
  ∀ l, (t.core l).s = (s.core l).s ∧ (t.core l).q = (s.core l).q ∧ (t.core l).fetch = (s.core l).fetch ∧ (t.core l).run = (s.core l).run

/-- Whether a stamped command has missed its cycle (R314): it has not begun when its target has come. -/
def late (x : Eng) (stamp : Word) (i : Nat) (cmd : Cmd) : Bool :=
  cmd.miss.isNone && !(i == 0 && x.begun.isSome) && (match cmd.stamp with | none => false | some n => decide (n ≤ stamp.toNat))

/-- What the three EBX events do to the block that a decoder holds, where its bits meet no fault of memory (R304): `put` is the state with the decoder's next
state, or with its fault. A block is checked as it is stored then, also where its last lines have not landed (log 30). -/
def ebxSteps (c : CoreId) (s : State) (b : Ebx) (x : EbxIn) (put : Except (Byte × Word) Ebx → State) : Prop :=
  let h := x.head b.block
  let headBad := ebxHeadBad h x.d.pfmt || ebxCodeBad h || decide (4096 < ebxOut h) || decide (x.total < b.elems + ebxCnt h)
  let malformed (code : Byte) : State := put (.error (code, x.place.tval (x.d.base + b.block)))
  (b.stage = .header → x.faults (8 * (x.d.base + b.block)) 256 [] = [] →
    exec (.EBX_BLOCK_BUILD c) s = .next (if headBad then malformed 0x13 else put (.ok { b with stage := .build, turn := some x.now }))) ∧
  (b.stage = .build → exec (.EBX_BLOCK_BUILD c) s = .next (put (.ok { b with stage := .decode 256 0, out := [], turn := some x.now }))) ∧
  (∀ bit debt b', b.stage = .decode bit debt → Ebx.decode x 16 4 b = .ok b' →
    exec (.EBX_BLOCK_DECODE c) s = .next (put (.ok { b' with turn := some x.now }))) ∧
  (b.stage = .check → x.ranked = false → b.out.length ≠ ebxOut h → exec (.EBX_BLOCK_CHECK c) s = .next (malformed 0x13)) ∧
  (b.stage = .check →
    let y := x.stored (8 * (x.d.base + b.block)) (8 * ebxLen h)
    y.faults (8 * (x.d.base + b.block)) (8 * ebxLen h) [] = [] →
    exec (.EBX_BLOCK_CHECK c) s = .next (
      if b.out.length ≠ ebxOut h then malformed 0x13
      else if crc32c (y.covered b.block) ≠ ebxCrc h then malformed 0x14
      else put (.ok { b with
        block := (b.block + ebxLen h + 31) / 32 * 32, stage := if b.elems + ebxCnt h < x.total then .header else .done
        out := [], all := b.all ++ b.out, elems := b.elems + ebxCnt h, nblk := b.nblk + 1, turn := some x.now })))

/-- The value of element (r, n) of a tile (R297). -/
def tileAt (s : State) (c : CoreId) (acc r n : Nat) : Nat := (vget (s.core c).tiles acc {}).get r n

end Sys2Proof.Claims

/-- R266, R275, R280: a command that reaches the head of its queue is found there from this cycle on and takes its place in the order of its feed; a byte it
touches outside the leases freezes the engine with cause 0x08, and a queue entry that has lost its parity (R416) with 0x1A. -/
def Sys2Proof.Claims.CommandsReachTheHead : Prop :=
  ∀ (c : CoreId) (e : EngId) (cmd : Cmd) (rest : List Cmd) (s : State),
    let x := engOf s c e
    x.queue = cmd :: rest → x.head = none → x.stop = false → x.frozen = false → cmd.entry < s.now → (∀ f, x.freed = some f → f < s.now) →
    ∃ t, exec (.ENGINE_COMMAND_HEAD c e) s = .next t ∧ t.mem = s.mem ∧ smithKept s t ∧
      (engOf t c e).queue = x.queue ∧ (engOf t c e).head = some s.now ∧
      (∀ k n, cmd.feed = some (k, n) → n < 8 → (c, e) ∈ (vget (t.core k).feeds n {}).order) ∧
      (s.leaseFault c cmd = none → cmd.pois = false → (engOf t c e).frozen = false ∧ (engOf t c e).cause = x.cause) ∧
      (s.leaseFault c cmd = none → cmd.pois = true → (engOf t c e).frozen = true ∧ (engOf t c e).cause.map (·.1) = some 0x1A) ∧
      ∀ f, s.leaseFault c cmd = some f → (engOf t c e).frozen = true ∧ (engOf t c e).cause = some f ∧ f.1 = 0x08

/-- R267, R269, R275: a command that is done leaves its queue; the sequence number rises, the issue number stays, and its stream leaves its feed. -/
def Sys2Proof.Claims.CommandsComplete : Prop :=
  ∀ (c : CoreId) (e : EngId) (cmd : Cmd) (rest : List Cmd) (s : State),
    let x := engOf s c e
    x.queue = cmd :: rest → x.done e = true →
    ∃ t, exec (.ENGINE_COMMAND_COMPLETE c e) s = .next t ∧ t.mem = s.mem ∧ smithKept s t ∧
      (engOf t c e).queue = rest ∧ (engOf t c e).seq = x.seq + 1 ∧ (engOf t c e).iss = x.iss ∧ (engOf t c e).head = none ∧
      (engOf t c e).micro = 0 ∧ (engOf t c e).freed = some s.now ∧
      ∀ k n, cmd.feed = some (k, n) → n < 8 →
        (vget (t.core k).feeds n {}).pb = (vget (s.core k).feeds n {}).pb - 1 ∧ (c, e) ∉ (vget (t.core k).feeds n {}).order

/-- R275: elements enter a feed in their stream's order, at most 8 in a cycle and 64 in all; where one can enter and there is room, one does. The second
part says it of the first element of a stream alone. -/
def Sys2Proof.Claims.FeedsFill : Prop :=
  (∀ (c : CoreId) (f : Fin 8) (s : State), ∃ (t : State) (new : List (Nat × Nat)),
    let q := (s.core c).feeds[f]
    let q' := (t.core c).feeds[f]
    exec (.FEED_ELEMENT_ENTRY c f) s = .next t ∧ t.mem = s.mem ∧ smithKept s t ∧
      q'.elems = q.elems ++ new ∧ new.length ≤ 8 ∧ q'.count = q.count + new.length ∧ (q.elems.length ≤ 64 → q'.elems.length ≤ 64) ∧
      (∀ g : Fin 8, g ≠ f → ((t.core c).feeds[g]).elems = ((s.core c).feeds[g]).elems) ∧
      ∀ l e y, q.elems.length < 64 → q.took.1 ≠ s.now → s.deliverer c f.val = some (l, e) → s.nextElem l e = some y → new.head? = some y.1) ∧
  ∀ (c l : CoreId) (e : EngId) (f : Fin 8) (y : (Nat × Nat) × Eng) (s : State),
    ((s.core c).feeds[f]).elems.length < 64 → ((s.core c).feeds[f]).took.1 ≠ s.now → s.deliverer c f.val = some (l, e) → s.nextElem l e = some y →
    ∃ t more, exec (.FEED_ELEMENT_ENTRY c f) s = .next t ∧ ((t.core c).feeds[f]).elems = ((s.core c).feeds[f]).elems ++ y.1 :: more

/-- R237, R281: a global line whose walk completes gets its 64 bytes from the translated address; R314: in its target cycle a stamped command that has not
begun is marked as missed, and the miss of the command at the head is raised at once as fault 0x11 (R315). -/
def Sys2Proof.Claims.EngineReadsAndMisses : Prop :=
  (∀ (c : CoreId) (e : EngId) (s : State), ∃ t, exec (.GLOBAL_READ_RETURN c e) s = .next t ∧ t.mem = s.mem ∧ smithKept s t ∧
    (engOf t c e).queue = (engOf s c e).queue ∧ (engOf t c e).got.length = (engOf s c e).got.length ∧
    ∀ (i : Nat) (ln : Line), (engOf s c e).got[i]? = some ln → ∃ ln' : Line, (engOf t c e).got[i]? = some ln' ∧
      (ln.waits s.now = false → ln' = ln) ∧
      (ln.waits s.now = true → ∀ p, translate s.mem (s.core c).theTask ln.addr needRd = some p →
        ln'.bytes = s.mem.read p 64 ∧ ln'.bad = none ∧ ln'.due = some s.now) ∧
      (ln.waits s.now = true → translate s.mem (s.core c).theTask ln.addr needRd = none → ln'.bad = some 0x09)) ∧
  ∀ (c : CoreId) (e : EngId) (s : State), ((engOf s c e).queue.map (·.prog)).Nodup →
    ∃ t, exec (.SCHEDULE_MISS c e) s = .next t ∧ t.mem = s.mem ∧ smithKept s t ∧
      (∀ i cmd, (engOf s c e).queue[i]? = some cmd → (engOf t c e).queue[i]? =
        some (if late (engOf s c e) s.clock.stamp i cmd then { cmd with miss := some s.clock.stamp } else cmd)) ∧
      ((engOf s c e).active = true → (engOf s c e).queue.head?.any (late (engOf s c e) s.clock.stamp 0) = true →
        (engOf t c e).frozen = true ∧ (engOf t c e).cause = some (0x11, s.clock.stamp)) ∧
      ((engOf s c e).queue.head?.any (late (engOf s c e) s.clock.stamp 0) = false → (engOf t c e).frozen = (engOf s c e).frozen ∧
        (engOf t c e).cause = (engOf s c e).cause)

/-- R281, R318, R293, R317: what the engines write. A Tongs engine, MSTORE and Temper write their next line with the bytes their command computes, leaving the
bytes it does not touch; the bytes of a Temper row whose destination overlaps another source row or a parameter are free (R292; log 12). MZERO leaves a tile
of zeros. -/
def Sys2Proof.Claims.EngineLineWrites : Prop :=
  (∀ (c : CoreId) (u : Fin 2) (cmd : Cmd) (rest : List Cmd) (p : Place) (a : Nat) (fs : List Field) (s : State),
    let e : EngId := if u = 0 then 0 else 1
    let x := engOf s c e
    x.queue = cmd :: rest → x.active = true → x.laid = true → s.copyWrite c x cmd = some (p, a, fs) →
    ∃ t, exec (.TONGS_LINE_WRITE c u) s = .next t ∧ smithKept s t ∧ (engOf t c e).micro = x.micro + 1 ∧ (engOf t c e).lines = x.lines.drop 1 ∧
      (engOf t c e).queue = x.queue ∧ wrote s t c p a (unitWrite a cmd.unitSize fs (s.curByte c p))) ∧
  (∀ (c : CoreId) (cmd : Cmd) (rest : List Cmd) (p : Place) (a : Nat) (s : State),
    let x := engOf s c 2
    let d := desc cmd.ty
    let tile := vget (s.core c).tiles cmd.tileNo {}
    let field (e : Nat × Nat × Nat × Nat) : Field :=
      (e.2.2.1, e.2.2.2, storeConv d (bitsRead x.got p) (tileVal tile.tf (tile.get e.2.1 e.1)) e.1 e.2.1)
    x.queue = cmd :: rest → x.active = true → s.mstoreAsk c x cmd = some (p, a) →
    ∃ t, exec (.MSTORE_LINE_WRITE c) s = .next t ∧ smithKept s t ∧ (engOf t c 2).micro = x.micro + 1 ∧ (engOf t c 2).lines = x.lines.drop 1 ∧
      (t.core c).tiles = (s.core c).tiles ∧ wrote s t c p a (unitWrite a 64 ((cmd.storeIn a).map field) (s.curByte c p))) ∧
  (∀ (c : CoreId) (cmd : Cmd) (rest : List Cmd) (a : Nat) (s : State),
    let x := engOf s c 3
    x.queue = cmd :: rest → x.active = true → s.temperWrite c x cmd = some a →
    ((s.core c).ember.rowAt a).isSome = true → ((cmd.outLines x.micro).all fun b => ((s.core c).ember.rowAt b).isSome) = true →
    ∃ t, exec (.TEMPER_ROW_WRITE c) s = .next t ∧ smithKept s t ∧ (engOf t c 3).lines = x.lines.drop 1 ∧
      (engOf t c 3).micro = (if (cmd.outLines x.micro).getLast? = some a then x.micro + 1 else x.micro) ∧
      let bs := unitWrite a 64 (x.rowFields cmd c x.micro) (s.curByte c (.ember c))
      (cmd.overlaps = false → wrote s t c (.ember c) a bs) ∧
      (cmd.overlaps = true → ∃ free : List (Option Byte), free.map Option.isSome = bs.map Option.isSome ∧ wrote s t c (.ember c) a free)) ∧
  ∀ (c : CoreId) (cmd : Cmd) (rest : List Cmd) (acc f : Nat) (s : State),
    let x := engOf s c 2
    x.queue = cmd :: rest → cmd.kind = .mzero acc f → acc < 4 → x.active = true → x.laid = true → x.sub = 0 → s.now = x.t0 + 15 →
    ∃ t, exec (.MZERO_WRITE c) s = .next t ∧ smithKept s t ∧ t.mem = s.mem ∧ (∀ r n, tileAt t c acc r n = 0) ∧
      (vget (t.core c).tiles acc {}).tf = f ∧ ∀ b, b ≠ acc → vget (t.core c).tiles b {} = vget (s.core c).tiles b {}

/-- R319: MLOAD writes one row of its tile from its source, converted to the tile's format; the rows that the source does not have become zero; every other row
keeps its bytes. -/
def Sys2Proof.Claims.TileRowsLoad : Prop :=
  ∀ (c : CoreId) (cmd : Cmd) (rest : List Cmd) (acc f j : Nat) (s : State),
    let x := engOf s c 2
    let d := desc cmd.tz
    let val (i : Nat) : Nat :=
      let v := valOf d.fmt (bitsRead x.got (d.place c) (d.addr i j) (bitsOf d.fmt))
      if f = 0 then roundV 1 v .rne else if f = 1 then convertV 13 v else roundV 0 v .rne
    x.queue = cmd :: rest → cmd.kind = .mload acc f → acc < 4 → x.active = true → x.mloadRow cmd c s.now = some j → d.d0 ≤ tileCols f →
    (j < d.d1 → s.loadFault c x cmd j = none) →
    ∃ t, exec (.MLOAD_ROW_WRITE c) s = .next t ∧ smithKept s t ∧ t.mem = s.mem ∧ (engOf t c 2).micro = j + 1 ∧
      (vget (t.core c).tiles acc {}).tf = f ∧
      ∀ r n, r < 64 → n < tileCols f → tileAt t c acc r n =
        if r < j then ((vget (s.core c).tiles acc {}).recast f).get r n
        else if d.d1 ≤ j then 0
        else if r = j then (if n < d.d0 then val n else 0)
        else ((vget (s.core c).tiles acc {}).recast f).get r n

/-- R290: a read-modify-write of Swage leaves in its target word the old value combined with the merged value; SACCR sends the old value to its feed. -/
def Sys2Proof.Claims.SwageUpdates : Prop :=
  ∀ (c k : CoreId) (cmd : Cmd) (rest : List Cmd) (a i m : Nat) (s : State),
    let x := engOf s c 4
    let d := desc cmd.ty
    let old := leNat ((List.range 4).map fun i => (s.core k).ember.byte (a + i))
    let new : Nat := match cmd.saccOp with
      | 0 => (old + m) % 2 ^ 32
      | 1 => roundV 1 (Val.add .rne (fltVal 1 old) (fltVal 1 m)) .rne
      | 2 => maxEnc d.fmt old m
      | 3 => minEnc d.fmt old m
      | 4 => old ||| m
      | _ => m
    x.queue = cmd :: rest → x.active = true → (s.swageAsk c x cmd).isSome = true → x.saccNext cmd c = some (a, i, m) → d.place c = .ember k →
    (s.core k).ember.mem.wf = true →
    bitsFaults ((linesOfBits (8 * a) 32).map fun l => s.readLine c (.ember k) l s.now) (.ember k) (8 * a) 32
      (if (s.core c).csr.lchk then some (cmd.y, d) else none) = [] →
    ∃ t, exec (.SWAGE_RMW c) s = .next t ∧ smithKept s t ∧ t.mem = s.mem ∧ (∀ j, j < 4 → (t.core k).ember.byte (a + j) = BitVec.ofNat 8 (new / 256 ^ j)) ∧
      (∀ b, b < a ∨ a + 4 ≤ b → (t.core k).ember.mem.get b = (s.core k).ember.mem.get b) ∧
      (∀ op f, cmd.kind = .saccr op f → (engOf t c 4).elems = x.elems ++ [(s.now + 6, d.fmt, old)]) ∧
      (∀ op, cmd.kind = .sacc op → (engOf t c 4).elems = x.elems)

/-- R293: Temper's load starts at the row of its micro-PC with the lines it asks for; when a phase of its timetable ends, the row that has had its last phase
has its lines queued for writing. -/
def Sys2Proof.Claims.TemperTimetable : Prop :=
  (∀ (c : CoreId) (cmd : Cmd) (rest : List Cmd) (s : State),
    let x := engOf s c 3
    x.queue = cmd :: rest → (s.core c).temperMayLoad s.now = true →
    ∃ t, exec (.TEMPER_LOAD c) s = .next t ∧ t.mem = s.mem ∧ smithKept s t ∧ (engOf t c 3).laid = true ∧ (engOf t c 3).made = x.micro ∧
      (engOf t c 3).begun = some (x.begun.getD s.now) ∧ (engOf t c 3).plan = (cmd.rowLines x.micro).map fun a => (Place.ember c, a)) ∧
  ∀ (c : CoreId) (cmd : Cmd) (rest : List Cmd) (s : State),
    let x := engOf s c 3
    let phases := match cmd.kind with | .rowmx => 1 | _ => 3
    let len := ((desc cmd.tz).d0 + 63) / 64
    x.queue = cmd :: rest → x.active = true → x.sub ≠ 0 → x.sub < (desc cmd.tz).d1 - x.made + phases → s.now + 1 = x.t0 + x.sub * len →
    ∃ t, exec (.TEMPER_PHASE c) s = .next t ∧ t.mem = s.mem ∧ smithKept s t ∧ (engOf t c 3).sub = x.sub + 1 ∧
      (engOf t c 3).lines = x.lines ++
        (if phases ≤ x.sub then (cmd.outLines (x.made + (x.sub - phases))).map fun a => (Place.ember c, a) else [])

/-- R302 to R305: a fill starts with its list of lines and completes once they have landed, an EBX fill once its last block is checked and the metadata it
uses has landed; EBX blocks are built, decoded and checked for the fill, or else for the COPYX that Crucible serves, at most 8 of whose elements are produced
in a cycle. What R302 and R303 leave open of EBX is the model's choice (log 30, log 131). -/
def Obligations.CrucibleWorks : Prop :=
  (∀ (c : CoreId) (cmd : Cmd) (s : State), (s.core c).nextFill s.now = some cmd → exec (.CRUCIBLE_FILL_START c) s = .next (s.setCore c { s.core c with
    fills := (s.core c).fills ++ [{ prog := cmd.prog, start := s.now, reqs := cmd.fillLines, asked := cmd.fillLines, shown := cmd.fillLines.isEmpty
                                    ebx := if (desc cmd.ty).fmt = 11 then some {} else none }] })) ∧
  (∀ (c : CoreId) (f : Fill) (rest : List Fill) (s : State), (engOf s c 2).frozen = false → (s.core c).fills = f :: rest → f.done = none → f.held = none →
    f.reqs = [] → f.ebx = none → (∀ ln ∈ f.got, ∃ d, ln.due = some d ∧ d ≤ s.now) → (∀ g ∈ rest, g.prog ≠ f.prog) →
    exec (.CRUCIBLE_FILL_COMPLETE c) s = .next (s.setCore c { s.core c with fills := { f with done := some s.now } :: rest })) ∧
  (∀ (c : CoreId) (f : Fill) (rest : List Fill) (b : Ebx) (cmd : Cmd) (s : State), (engOf s c 2).frozen = false → (s.core c).fills = f :: rest →
    f.done = none → f.held = none → f.ebx = some b → b.stage = .done → b.turn ≠ some s.now → (engOf s c 2).queue.find? (·.prog == f.prog) = some cmd →
    (∀ r ∈ cmd.fillExtra ++ cmd.fillB.flatten, ∀ a ∈ linesOfBits r.1 r.2, a ∉ f.reqs ∧
      ∃ ln ∈ f.got, ln.addr = a ∧ ∃ d, ln.due = some d ∧ d ≤ s.now) → (∀ g ∈ rest, g.prog ≠ f.prog) →
    exec (.CRUCIBLE_FILL_COMPLETE c) s = .next (s.setCore c { s.core c with fills := { f with done := some s.now, reqs := [] } :: rest })) ∧
  (∀ (c : CoreId) (f : Fill) (rest : List Fill) (b : Ebx) (cmd : Cmd) (s : State), (engOf s c 2).frozen = false → (s.core c).fills = f :: rest →
    f.done = none → f.held = none → f.ebx = some b → b.stage ≠ .done → (engOf s c 2).queue.find? (·.prog == f.prog) = some cmd →
    s.decodingFill c = some (f, b, cmd.fillIn s c f.got)) ∧
  (∀ (c : CoreId) (fill : Fill) (b : Ebx) (x : EbxIn) (s : State),
    let k := s.core c
    s.decodingFill c = some (fill, b, x) → b.ready x = true →
    ebxSteps c s b x fun r =>
      let fill' := match r with
        | .ok b => { fill with ebx := some b }
        | .error e => { fill with held := some e, reqs := [], ebx := some { b with stage := .done } }
      s.setCore c { k with fills := k.fills.map fun g => if g.prog == fill.prog then fill' else g }) ∧
  (∀ (c : CoreId) (e : EngId) (cmd : Cmd) (b : Ebx) (s : State),
    let k := s.core c
    (∀ f ∈ k.fills, f.ebx = none) → s.servedEbx c = some (e, cmd, b) →
    ebxSteps c s b (cmd.ebxIn s c (engOf s c e).got) fun r => match r with
      | .ok b => s.setCore c (k.setE e { engOf s c e with ebx := some b })
      | .error er => s.setCore c (k.setE e { engOf s c e with held := some er })) ∧
  ∀ (c : CoreId) (u : Fin 2) (cmd : Cmd) (rest : List Cmd) (s : State),
    let e : EngId := if u = 0 then 0 else 1
    let x := engOf s c e
    x.queue = cmd :: rest → cmd.isCopyx = true → x.laid = true → x.active = true → s.copyxServed c = some u →
    ∃ t, exec (.CRUCIBLE_COPYX_SERVE c u) s = .next t ∧ t.mem = s.mem ∧ smithKept s t ∧ (engOf t c e).served = some s.now ∧
      x.made ≤ (engOf t c e).made ∧ (engOf t c e).made ≤ x.made + 8 ∧
      ((cmd.toFeed && decide (x.micro < x.made)) = false → x.held = none → x.ebx = none → x.made < cmd.total →
        s.expandable c x cmd x.made = some (.ok ()) → x.made < (engOf t c e).made)

/-- R296, R300, R309, R310: a pass begins by reading its lines of operand SRAM; a poisoned one freezes the command instead, with its address. -/
def Sys2Proof.Claims.PassesBegin : Prop :=
  ∀ (c : CoreId) (cmd : Cmd) (f : Fill) (s : State),
    let x := engOf s c 2
    let cols := (cmd.passCols x.micro).filter fun n => n < (desc cmd.tz).d0
    s.passBegins c = some (cmd, f) →
    ∃ t, exec (.ANVIL_PASS_START c) s = .next t ∧ t.mem = s.mem ∧ smithKept s t ∧ (t.core c).tiles = (s.core c).tiles ∧
      (∀ a, cols.findSome? (fun n => (s.core c).sram.poisonIn (cmd.bLine n) 128) = some a →
        (engOf t c 2).frozen = true ∧ (engOf t c 2).cause = some (0x1A, BitVec.ofNat 64 (sramWindow + a))) ∧
      ((∀ n ∈ cols, (s.core c).sram.poisonIn (cmd.bLine n) 128 = none) →
        (cmd.mmaAcc = true → ∀ r ∈ (vget (s.core c).tiles cmd.tileNo {}).pois, cmd.mmaM ≤ r) →
        (engOf t c 2).sub = 1 ∧ (engOf t c 2).t0 = s.now ∧ (engOf t c 2).micro = x.micro ∧ (engOf t c 2).frozen = x.frozen ∧
        (engOf t c 2).got.map (fun ln => (ln.addr, ln.bytes)) = cols.map fun n => (cmd.bLine n, (s.core c).sram.read (cmd.bLine n) 128))

/-- R296, R65 to R68, R308: at the end of a pass each element of its columns holds the rounded sum of its products, with the old value when the command
accumulates; every other element of the tile is unchanged. A first pass that does not accumulate gives the tile its format and clears it where that
format differs (R297). -/
def Sys2Proof.Claims.PassesEnd : Prop :=
  ∀ (c : CoreId) (cmd : Cmd) (rest : List Cmd) (f : Fill) (s : State),
    let x := engOf s c 2
    let kk := kOf (desc cmd.tz).fmt
    let old := vget (s.core c).tiles cmd.tileNo {}
    let base : Tile := if cmd.mmaAcc = false ∧ x.micro = 0 ∧ old.tf ≠ cmd.acc then { tf := cmd.acc } else old
    let products (r n : Nat) : List (Val × Val) := (List.range kk).map fun i => (cmd.aVal c f i r, cmd.bVal c f x.got n i)
    x.queue = cmd :: rest → x.active = true → x.sub = 1 → cmd.isMma = true → s.now + 1 = x.t0 + cmd.passLen →
    (s.core c).fillOf cmd.prog = some f → cmd.tileNo < 4 → base.tf = cmd.acc → cmd.mmaN ≤ tileCols cmd.acc →
    ∃ t, exec (.ANVIL_PASS_END c false) s = .next t ∧ t.mem = s.mem ∧ smithKept s t ∧ (engOf t c 2).micro = x.micro + 1 ∧ (engOf t c 2).sub = 0 ∧
      (vget (t.core c).tiles cmd.tileNo {}).tf = cmd.acc ∧ (∀ b, b ≠ cmd.tileNo → vget (t.core c).tiles b {} = vget (s.core c).tiles b {}) ∧
      ∀ r n, n < tileCols cmd.acc → tileAt t c cmd.tileNo r n =
        if r < cmd.mmaM ∧ n ∈ cmd.passCols x.micro then mmaElem cmd.acc (if cmd.mmaAcc then some (base.get r n) else none) (products r n)
        else base.get r n

/-- R393, R395, R399, R400, R392, R411: a flit is sent with the stream's next bytes and waits at its port; one that arrives in good order enters the inbound
store while the port gives credit, but for what is left of a stream whose receiver was abandoned, which is the model's choice (log 49); the receiver takes it out with the elements it completes; 16 failures take the port down. That the link engine takes no bank of operand SRAM is the model's choice (log 31). -/
def Obligations.LinksMoveFlits : Prop :=
  (∀ (c : CoreId) (cmd : Cmd) (rest : List Cmd) (bytes : List Byte) (fields : List Field) (s : State),
    let x := engOf s c 5
    x.queue = cmd :: rest → x.active = true → x.begun.isSome = true → x.sub = 0 → cmd.sends = true →
    ((s.port cmd.port).sent.filter (·.dst == cmd.peer)).length < 64 → (cmd.rel = true → (s.core c).mayRelease s.now cmd.prog = true) → s.sendStep c x cmd = (none, bytes, fields) →
    ∃ t flit, exec (.LINK_FLIT_SEND c) s = .next t ∧ smithKept s t ∧ (t.port cmd.port).sent = (s.port cmd.port).sent ++ [flit] ∧
      flit.payload = bytes ++ List.replicate (224 - bytes.length) 0 ∧ flit.src = c ∧ flit.dst = cmd.peer ∧ flit.index = x.micro ∧
      (engOf t c 5).micro = x.micro + 1 ∧ (engOf t c 5).queue = x.queue ∧
      (fields = [] → t.mem = s.mem ∧ ∀ l, (t.core l).ember = (s.core l).ember)) ∧
  (∀ (c : CoreId) (cmd : Cmd) (f : Byte × Word) (bytes : List Byte) (fields : List Field) (s : State),
    s.linkSends c = some cmd → s.sendStep c (engOf s c 5) cmd = (some f, bytes, fields) →
    ∃ t, exec (.LINK_FLIT_SEND c) s = .next t ∧ t.mem = s.mem ∧ t.ports = s.ports ∧ (engOf t c 5).frozen = true ∧ (engOf t c 5).cause = some f) ∧
  (∀ (c : CoreId) (cmd : Cmd) (f : Flit) (fields : List Field) (s : State),
    let x := engOf s c 5
    s.linkTakes c = some (cmd, f) → s.recvStep c x cmd f = (none, fields) →
    ∃ t, exec (.LINK_FLIT_RECEIVE c) s = .next t ∧ smithKept s t ∧ (t.port cmd.port).store = (s.port cmd.port).store.erase f ∧
      (engOf t c 5).flits = x.flits ++ [f] ∧ (engOf t c 5).micro = x.micro + 1 ∧ (fields = [] → t.mem = s.mem)) ∧
  (∀ (p : PortId) (f : Flit) (s : State),
    let x := s.port p
    let here := (x.store.filter (·.dst == f.dst)).length
    let id := (f.src, f.dst, f.chan)
    let after : Port := if x.trained && x.skip.contains id then { x with skip := if f.last then x.skip.erase id else x.skip }
      else { x with store := if x.trained && decide (here < 64) then x.store ++ [f] else x.store }
    exec (.LINK_FLIT_ARRIVAL p f true) s = .next (s.setPort p { after with fails := 0 }) ∧
    (x.fails < 15 → exec (.LINK_FLIT_ARRIVAL p f false) s = .next (s.setPort p { x with fails := x.fails + 1 })) ∧
    (15 ≤ x.fails → x.trained = true → ∃ t, exec (.LINK_FLIT_ARRIVAL p f false) s = .next t ∧ t.mem = s.mem ∧ t.cores = s.cores ∧
      t.port p = { x with fails := 0, trained := false } ∧ t.hub.errlog.head?.map (fun e => (e.kind, e.unit)) = some (5, 7))) ∧
  ∀ (p : PortId) (ok : Bool) (n : BitVec 10) (s : State),
    exec (.LINK_TRAIN p ok n) s = .next (s.setPort p { s.port p with trained := ok, peer := some n.toNat, fails := 0 })

namespace Sys2Proof.Claims

open Sys2Proof.Machine

/-! ### Power -/

/-- A die on which nothing has been released since the last Bellows boundary: no pass has ended and no unit came back. -/
def nothingBack (s : State) (d : DieId) : Prop := (∀ e ∈ (s.die d).ends, s.now ≤ e.2.1) ∧ ∀ l ∈ coresOf d, (s.core l).pwrRet = 0

/-- What the requests waiting on a die ask for in all. -/
def asked (s : State) (d : DieId) : Nat := ((s.allAsks d).map (·.cost)).sum

/-- The ceiling after the step-up of R379: up to the demand, by the ramp entry of the up index, at most to the budget. -/
def ceilingUp (s : State) (d : DieId) : Nat :=
  let x := s.die d
  if x.c < x.act + asked s d then min (min (x.act + asked s d) (x.c + (vget x.ramp x.i 0).toNat)) x.u else x.c

/-! ### Lifetimes -/

/-- Whether a row group takes its class action at a boundary: its age has reached its limit, or the die is in band 7 and its class is below 6 (R214, R217). -/
def actsAt (r : Row) (band limit : Nat) : Bool :=
  r.st == .valid && (decide (limit ≤ min 255 (r.age + 1)) || (band == 7 && decide (r.cls < 6)))

/-- A row group after a boundary: a valid one is older by one, up to 255; its class action makes it invalid, or asks for its refresh. -/
def agedRow (r : Row) (band limit : Nat) : Row :=
  if r.st ≠ .valid then r
  else
    let older := { r with age := min 255 (r.age + 1) }
    if !actsAt r band limit then older else if r.cls < 6 then { older with st := .invalid } else { older with rq := true }

end Sys2Proof.Claims

/-- R379: at a boundary on which no request waits, the ceiling falls towards the active units by the ramp entry of the down index; the up index is 0 again 64
cycles after the last step up. Where the active units and the waiting requests pass it, it rises towards them by the ramp entry of the up index, at most to the
budget, and the up index rises. Requests are granted in the order of their first boundary, then of their core, a PWRQ before an MMA, while their costs fit;
those behind the first that does not wait on. Between boundaries nothing happens. -/
def Sys2Proof.Claims.BellowsSteps : Prop :=
  (∀ (d : DieId) (s : State), s.clock.stamp.toNat % 4 ≠ 0 → exec (.BELLOWS_STEP d) s = .next s) ∧
  (∀ (d : DieId) (s : State),
    let x := s.die d
    let ramp (k : Nat) : Nat := (vget x.ramp k 0).toNat
    s.clock.stamp.toNat % 4 = 0 → nothingBack s d → s.allAsks d = [] → x.act ≤ x.c → x.band ≠ 7 →
    ∃ t, exec (.BELLOWS_STEP d) s = .next t ∧ t.mem = s.mem ∧ smithKept s t ∧ t.die d = { x with
      before := some (s.now, x.c, x.i), c := if x.act < x.c then max x.act (x.c - ramp x.d) else x.c
      d := if x.act < x.c then min (x.d + 1) 15 else 0, i := if 64 ≤ s.now - x.lastUp then 0 else x.i }) ∧
  (∀ (d : DieId) (l : CoreId) (level first cost : Nat) (s : State),
    let x := s.die d
    s.clock.stamp.toNat % 4 = 0 → nothingBack s d → x.band ≤ 5 → (s.core l).pwrReq = some { level, first := some first } →
    s.allAsks d = [{ first, core := l, pwrq := true, cost }] → x.act + cost ≤ x.c →
    ∃ t, exec (.BELLOWS_STEP d) s = .next t ∧ t.mem = s.mem ∧ smithKept s t ∧ (t.die d).act = x.act + cost ∧
      (t.core l).pwrReq = some { level, first := some first, granted := true }) ∧
  (∀ (d : DieId) (s : State), s.clock.stamp.toNat % 4 = 0 → nothingBack s d → (s.die d).band ≤ 5 → (s.die d).c < (s.die d).act + asked s d →
    ∃ t, exec (.BELLOWS_STEP d) s = .next t ∧ t.mem = s.mem ∧ smithKept s t ∧ (t.die d).c = ceilingUp s d ∧ (t.die d).i = min ((s.die d).i + 1) 15 ∧
      (t.die d).lastUp = s.now ∧ (t.die d).d = 0) ∧
  (∀ (d : DieId) (s : State), ((s.allAsks d).Pairwise fun a b =>
      a.first ≤ b.first ∧ (a.first = b.first → a.core ≤ b.core ∧ (a.core = b.core → a.pwrq = true))) ∧
    ∀ r, r ∈ s.allAsks d ↔ ∃ l ∈ coresOf d, r ∈ s.asks l) ∧
  ∀ (d : DieId) (s : State) (pre post : List PwrAsk), s.clock.stamp.toNat % 4 = 0 → nothingBack s d → (s.die d).band ≤ 5 →
    s.allAsks d = pre ++ post → (s.die d).act + (pre.map (·.cost)).sum ≤ ceilingUp s d →
    (∀ r, post.head? = some r → ceilingUp s d < (s.die d).act + (pre.map (·.cost)).sum + r.cost) →
    ∃ t, exec (.BELLOWS_STEP d) s = .next t ∧ (t.die d).act = (s.die d).act + (pre.map (·.cost)).sum ∧
      (∀ r ∈ pre, (r.pwrq = true → (t.core r.core).pwrReq.map (·.granted) = some true) ∧ (r.pwrq = false → (engOf t r.core 2).grant = some s.now)) ∧
      ∀ r ∈ post, (r.pwrq = true → (t.core r.core).pwrReq.map (fun q => (q.granted, q.first)) = some (false, some r.first)) ∧
        (r.pwrq = false → (engOf t r.core 2).grant = (engOf s r.core 2).grant ∧ (engOf t r.core 2).asked = some r.first)

/-- R362, R378: an acceptable ramp table waits until its die holds no units, no filler and step index 0; a budget lies in 256 to 4,096. -/
def Sys2Proof.Claims.DieTables : Prop :=
  (∀ (d : DieId) (t : Vector (BitVec 16) 16) (s : State),
    exec (.RAMP_TABLE_WRITE d t) s = .next (
      if (∀ i : Fin 16, 16 ≤ t[i].toNat ∧ t[i].toNat ≤ 4096) ∧ (∀ i j : Fin 16, i ≤ j → t[i].toNat ≤ t[j].toNat) then s.setDie d { s.die d with next := some t }
      else s)) ∧
  (∀ (d : DieId) (t : Vector (BitVec 16) 16) (s : State), (s.die d).next = some t →
    exec (.RAMP_TABLE_APPLY d) s = .next (
      if (s.die d).act = 0 ∧ (s.die d).c = 0 ∧ (s.die d).i = 0 then s.setDie d { s.die d with ramp := t, next := none } else s)) ∧
  ∀ (d : DieId) (u : BitVec 13) (s : State),
    exec (.DIE_BUDGET_WRITE d u) s = .next (if 256 ≤ u.toNat ∧ u.toNat ≤ 4096 then s.setDie d { s.die d with u := u.toNat } else s)

/-- R385, R386: gating of a core without a task, an abort within 20 ticks, a wake that waits for the end of the hold of 200 ticks and for its turn; and the steps
and the return of a die's voltage. -/
def Sys2Proof.Claims.GatingAndVoltage : Prop :=
  (∀ (p : Fin 72) (s : State),
    let x := s.phys p
    (∀ l : CoreId, s.hub.map[l] = some p → (s.core l).task = none) → x.gated = none →
    exec (.CORE_GATE p) s = .next (s.setPhys p { x with gated := some s.tick, wake := none })) ∧
  (∀ (p : Fin 72) (g : Nat) (s : State),
    let x := s.phys p
    x.gated = some g →
    (s.tick - g < 20 → exec (.CORE_WAKE_REQUEST p) s = .next (s.setPhys p { x with gated := none, wake := none, awake := s.tick })) ∧
    (20 ≤ s.tick - g → s.tick - g < 200 → x.wake = none → exec (.CORE_WAKE_REQUEST p) s = .next (s.setPhys p { x with wake := some s.tick })) ∧
    (200 ≤ s.tick - g → x.wake = none → ∃ t, exec (.CORE_WAKE_REQUEST p) s = .next t ∧ t.mem = s.mem ∧ t.cores = s.cores ∧
      (t.phys p).wake = some s.tick ∧ p ∈ (t.die (dieOfPhys p)).wakes) ∧
    (∀ w, x.wake = some w → 200 ≤ s.tick - g → ∃ t, exec (.GATE_HOLD_END p) s = .next t ∧ t.mem = s.mem ∧ t.cores = s.cores ∧ t.hub = s.hub ∧
      p ∈ (t.die (dieOfPhys p)).wakes) ∧
    (s.tick - g < 200 → exec (.GATE_HOLD_END p) s = .next s)) ∧
  (∀ (d : DieId) (p : Fin 72) (rest : List (Fin 72)) (s : State), (s.die d).wakes = p :: rest →
    ((∀ w, (s.die d).lastWake = some w → 50 ≤ s.tick - w) → exec (.WAKE_START d) s = .next
      ((s.setDie d { s.die d with wakes := rest, lastWake := some s.tick }).setPhys p
        { s.phys p with gated := none, wake := none, awake := s.tick })) ∧
    (∀ w, (s.die d).lastWake = some w → s.tick - w < 50 → exec (.WAKE_START d) s = .next s)) ∧
  (∀ (d : DieId) (n : Nat) (s : State), ∃ t, exec (.VOLTAGE_ADJUST d n) s = .next t ∧ t.mem = s.mem ∧ smithKept s t ∧
    (t.die d).volt =
      if 4 ≤ n then (s.die d).volt - 1
      else if (s.die d).offUntil = none ∧ (s.die d).volt < Config.voltageFloor then (s.die d).volt + 1 else (s.die d).volt) ∧
  (∀ (d : DieId) (at_ : Nat) (s : State), (s.die d).retAt = some at_ → ∃ t, exec (.VOLTAGE_RETURN d) s = .next t ∧ t.mem = s.mem ∧ smithKept s t ∧
    (t.die d).volt = 0 ∧ (t.die d).retAt = none) ∧
  ∀ (d : DieId) (at_ : Nat) (s : State), (s.die d).offUntil = some at_ →
    exec (.UNDERVOLT_REENABLE d) s = .next (if at_ ≤ s.tick then s.setDie d { s.die d with offUntil := none } else s)

/-- R213, R354: a write of the lifetime table is held to the reset values of its own band and of band 5, and waits for the next boundary; bands 6 and 7 are
fixed. R211, R214, R216, R217: at a boundary every valid row group of every slice ages by one, up to 255, and one that has reached its limit, or in band 7 one
of a class below 6, takes its class action: one of a class below 6 becomes invalid, one of the others asks for its refresh; classes 4 and 5 enter the expiry
queue, which holds 8 events and sets XOVF when it drops one (R195); no row group leaves another state. -/
def Sys2Proof.Claims.Lifetimes : Prop :=
  (∀ (band cls : Fin 8) (v : Byte) (s : State),
    let hi := vget lifeReset (8 * band.val + cls.val) 0
    let lo := vget lifeReset (40 + cls.val) 0
    exec (.TEMP_TABLE_WRITE band cls v) s = .next (
      if 6 ≤ band.val then s
      else { s with life := { s.life with pending := s.life.pending ++
        [(8 * band.val + cls.val, if hi.toNat < v.toNat then hi else if v.toNat < lo.toNat then lo else v)] } })) ∧
  ∀ (t0 t1 t2 t3 : Byte) (s : State), ∃ t, exec (.AGE_TICK_BOUNDARY t0 t1 t2 t3) s = .next t ∧ t.mem = s.mem ∧ smithKept s t ∧
    t.life.pending = [] ∧ (t.die 0).temp = t0 ∧ (t.die 1).temp = t1 ∧ (t.die 2).temp = t2 ∧ (t.die 3).temp = t3 ∧
    (∀ d : DieId, (t.die d).band = nextBand (s.die d).band (t.die d).temp.toNat) ∧
    ∀ c : CoreId, let rows := (s.core c).ember.rows
      let acts (r : Row) : Bool := actsAt r (t.die (dieOf c)).band (t.limit (dieOf c) r.cls)
      (rows.map (·.g)).Nodup →
      (∀ g, (t.core c).ember.row g = ((s.core c).ember.row g).map fun r => agedRow r (t.die (dieOf c)).band (t.limit (dieOf c) r.cls)) ∧
      (t.core c).ember.queue = (s.core c).ember.queue ++
        (rows.filter fun r => acts r && decide (6 ≤ r.cls) && !r.rq).map (fun r => { g := r.g, ready := s.now + 1, touch := false }) ∧
      let events := (s.core c).expiry ++ (rows.filter fun r => acts r && decide (4 ≤ r.cls) && decide (r.cls < 6)).map fun r => emberWindow + 4096 * r.g
      ((s.core c).expiry.length ≤ 8 → (t.core c).expiry = events.take 8 ∧
        (t.core c).csr.xovf = ((s.core c).csr.xovf || decide (8 < events.length)))

/-- R412 to R415: device reset keeps only the always-on domain, host memory and the fused version, and begins an attempt, in minimal mode once the counter has
reached 3; an image below the fused minimum version is refused, and the minimum rises to the version of an accepted image that Salamander reports (R407; that
stage 3 refuses with the reason of stage 1 is log 116); a stage that succeeds is followed by the next, in minimal mode 1 by 6; one that fails or outlasts 10 s stops the attempt with its reason. -/
def Sys2Proof.Claims.StartUp : Prop :=
  (∀ (t0 t1 t2 t3 : Byte) (s : State), ∃ t, exec (.DEVICE_RESET t0 t1 t2 t3) s = .next t ∧ t.cores = State.reset.cores ∧ t.hub = State.reset.hub ∧
    t.ports = State.reset.ports ∧ t.funcs = State.reset.funcs ∧ t.chorus = State.reset.chorus ∧ t.life = State.reset.life ∧
    t.boot.stage = 1 ∧ t.boot.failed = false ∧ t.boot.counter.toNat = min 15 (s.boot.counter.toNat + 1) ∧ t.boot.reason = s.boot.reason ∧
    t.boot.failSt = s.boot.failSt ∧ t.boot.minVer = s.boot.minVer ∧ (t.boot.minimal = true ↔ 3 ≤ s.boot.counter.toNat) ∧
    ∀ a, s.mem.wf = true → s.mem.seed = none → t.mem.get a = if 2 ^ 46 ≤ a then s.mem.get a else 0) ∧
  (∀ (r : StageResult) (s : State), s.boot.failed = false → s.boot.stage < 8 →
    (∀ e, s.boot.failure r = some e → exec (.BOOT_STAGE r) s =
      .next { s with boot := { s.boot with failed := true, reason := e, failSt := BitVec.ofNat 4 s.boot.stage } }) ∧
    (s.boot.failure r = none → ∃ t, exec (.BOOT_STAGE r) s = .next t ∧ t.mem = s.mem ∧ t.cores = s.cores ∧ t.boot.failed = false ∧ t.boot.began = s.tick ∧
      t.boot.stage = (if s.boot.minimal = true ∧ s.boot.stage = 1 then 6 else s.boot.stage + 1) ∧
      ((s.boot.stage = 1 ∨ s.boot.stage = 3) → s.boot.minVer ≤ t.boot.minVer ∧ (∀ v ∈ r.reported, v ∈ r.versions → v ≤ t.boot.minVer) ∧
        (t.boot.minVer = s.boot.minVer ∨ (t.boot.minVer ∈ r.reported ∧ t.boot.minVer ∈ r.versions))) ∧
      (s.boot.stage ≠ 1 → s.boot.stage ≠ 3 → t.boot.minVer = s.boot.minVer) ∧
      (s.boot.stage = 7 → t.boot.counter = if s.boot.minimal then s.boot.counter else 0) ∧
      (s.boot.stage = 5 → ∀ p : PortId, (t.port p).trained = r.trained.getLsbD p.val) ∧
      (s.boot.stage = 6 → ∀ f : FnId, (t.func f).enabled = (r.enabled.getLsbD f.val && (f.val % 2 == 0 || r.bifurc.getLsbD (f.val / 2)))))) ∧
  (∀ (r : StageResult) (v : Nat) (s : State), s.boot.failed = false → s.boot.stage = 1 ∨ s.boot.stage = 3 → r.reason = 0 → v ∈ r.versions →
    v < s.boot.minVer → exec (.BOOT_STAGE r) s =
      .next { s with boot := { s.boot with failed := true, reason := 0x12, failSt := BitVec.ofNat 4 s.boot.stage } }) ∧
  (∀ s : State, exec .BOOT_STAGE_TIMEOUT s = .next (
    if s.boot.failed = false ∧ s.boot.stage < 8 ∧ s.boot.began + 1000000000 < s.tick then
      { s with boot := { s.boot with failed := true, reason := 0x01, failSt := BitVec.ofNat 4 s.boot.stage } }
    else s)) ∧
  ∀ s : State, exec .STANDBY_POWER_LOSS s = .next { s with boot := { s.boot with counter := 0 } }

namespace Sys2Proof.Claims

open Sys2Proof.Machine

/-! ### Cards and tasks -/

/-- A card as the hub holds it, by its number. -/
abbrev cardOf (s : State) (n : Nat) : Option Card := s.hub.cards.find? (·.id == n)

/-- A counter's value. -/
def counter (s : State) (c : Nat) : Int := ((s.hub.deps.find? (·.ctr == c)).map (·.v)).getD 0

/-- The card that waits on a counter. -/
def armed (s : State) (c : Nat) : Option Nat := (s.hub.deps.find? (·.ctr == c)).bind (·.card)

/-- The card as it enters the hub's list from ring `f` (R321, R326). -/
def entered (s : State) (f : FnId) (ch : CardChoice) : Card :=
  let x := s.func f
  let at_ := x.sqbase.toNat + 512 * (x.sqhead.toNat % 2 ^ x.sqlog)
  { id := s.hub.nextCard, image := BitVec.ofNat 4096 (leNat (s.mem.read at_ 512)), func := f, st := .pending, order := s.hub.nextCard, choice := ch }

end Sys2Proof.Claims

/-- R322, R326: a submission entry is copied and the ring's head moves on; a card that no check rejects and that arms no counter waits to be bound from this
tick; a rejected one ends with status 1 and its reason, and its record waits; a spawned card that is pending or spilled is checked alike. The checks find the
decrements of their cycle taken (R329). -/
def Sys2Proof.Claims.CardsAccepted : Prop :=
  (∀ (f : FnId) (ch : CardChoice) (s : State),
    let x := s.func f
    let k := entered s f ch
    s.hasEntry f = true → s.boot.minimal = false → cardOf s s.hub.nextCard = none →
    ∃ t, exec (.JOB_CARD_ACCEPT (.ring f) ch) s = .next t ∧ t.mem = s.mem ∧ t.cores = s.cores ∧ t.hub.nextCard = s.hub.nextCard + 1 ∧
      (t.func f).sqhead.toNat = (x.sqhead.toNat % 2 ^ x.sqlog + 1) % 2 ^ x.sqlog % 4096 ∧
      (s.takeSent.reason k = none → k.depv = false → cardOf t k.id = some { k with st := .waiting, since := s.tick }) ∧
      (∀ code, s.takeSent.reason k = some code → (cardOf t k.id).map (fun c => (c.st, c.status, c.code)) = some (.ended, 1, code) ∧
        (t.func f).held = x.held ++ [k.id])) ∧
  ∀ (n : Nat) (k : Card) (ch : CardChoice) (s : State),
    let k' := { k with choice := ch, order := s.hub.nextCard, st := .pending }
    cardOf s n = some k → k.parent.isSome = true → k.st = .pending ∨ k.st = .spilled → k.key = none →
    ∃ t, exec (.JOB_CARD_ACCEPT (.pool n) ch) s = .next t ∧ t.mem = s.mem ∧ t.cores = s.cores ∧
      (s.takeSent.reason k' = none → k'.depv = false → cardOf t n = some { k' with st := .waiting, since := s.tick }) ∧
      ∀ code, s.takeSent.reason k' = some code → (cardOf t n).map (fun c => (c.st, c.status, c.code)) = some (.ended, 1, code)

/-- R329, R30, R42, R24, R240: a decrement lowers its counter by one and frees the card that waits for zero; the oldest spilled card returns to the pool when there
is room; a waiting card rises a level for every 2 ms; a core gets a reservation class; the entries of an address-space ID are invalidated, and while no task runs in it its page tables, as memory then holds them, are what its units find from
then on; while one runs they go on finding what they found. -/
def Sys2Proof.Claims.HubRecords : Prop :=
  (∀ (c : BitVec 12) (s : State), -2147483648 < counter s c.toNat → ∃ t, exec (.DEP_DECREMENT c) s = .next t ∧ t.mem = s.mem ∧ t.cores = s.cores ∧
    counter t c.toNat = counter s c.toNat - 1 ∧ (∀ d, d ≠ c.toNat → counter t d = counter s d) ∧
    ∀ n k, armed s c.toNat = some n → cardOf s n = some k → counter s c.toNat = 1 →
      cardOf t n = some { k with st := .waiting, since := s.tick } ∧ armed t c.toNat = none) ∧
  (∀ (n : Nat) (rest : List Nat) (s : State), s.hub.spill = n :: rest → s.hub.pool.length < 224 →
    exec (.SPILL_CARD_RETURN n) s = .next (s.setHub { s.hub with spill := rest, pool := s.hub.pool ++ [n], freed := s.hub.freed + 1 })) ∧
  (∀ (n : Nat) (k : Card) (s : State), cardOf s n = some k → k.st = .waiting → k.prio < 6 → k.prio + k.risen < 6 →
    k.since + 200000 * (k.risen + 1) ≤ s.tick →
    ∃ t, exec (.PRIORITY_AGEING n) s = .next t ∧ t.mem = s.mem ∧ t.cores = s.cores ∧ cardOf t n = some { k with risen := k.risen + 1 }) ∧
  (∀ (c : CoreId) (r : Fin 8) (s : State), exec (.RESERVATION_SET_ASIDE c r) s = .next (s.setHub { s.hub with resv := s.hub.resv.set c r })) ∧
  ∀ (i : BitVec 12) (s : State), ∃ t, exec (.ASID_INVALIDATE i) s = .next t ∧ smithKept s t ∧ i.toNat ∈ t.hub.invalid ∧
    (∀ l, (t.core l).last = (s.core l).last.filter (·.2.2.2 ≠ i.toNat)) ∧
    let runs := ∃ l task, (s.core l).task = some task ∧ task.asid.toNat % 4096 = i.toNat
    (runs → t.hub.tabs = s.hub.tabs ∧ t.mem = s.mem) ∧
    (¬ runs → (∀ k ∈ s.hub.cards, k.choice.asidId = i → k.key = none) → t.mem = s.mem) ∧
    ∀ gen root, ¬ runs → s.hub.asids.find? (·.1 == i.toNat) = some (i.toNat, gen, root) →
      t.hub.tabs = (i.toNat, root, s.mem.tableCells root) :: s.hub.tabs.filter (·.1 != i.toNat)

/-- R23, R28, R229, R328, R358: a card that Salamander may bind runs; each of its cores holds a bind record of the task of its index, with operand SRAM zero
unless the core last ran the same card. A confidential card without a key gets the next one, and its pages read as deciphered by it (log 14). -/
def Sys2Proof.Claims.Binding : Prop :=
  ∀ (card : Nat) (k : Card) (cores : List (Nat × CoreId)) (start launch : BitVec 64) (span : List (BitVec 10)) (s : State),
    cardOf s card = some k → s.mayBind k cores (!span.isEmpty) = true →
    ∃ t, exec (.BIND card cores start launch span) s = .next t ∧ (k.conf = false → t.mem = s.mem) ∧
      (k.conf = true → k.key = none → s.hub.keys.contains s.hub.nextKey = false → t.mem = s.mem.openPages s.hub.nextKey (t.hub.sealed k s.mem) ∧
        (cardOf t card).bind (·.key) = some s.hub.nextKey) ∧ (∀ l, (∀ m ∈ cores, m.2 ≠ l) → t.core l = s.core l) ∧
      (∃ k', cardOf t card = some k' ∧ k'.st = .running ∧ k'.nbound = k.nbound + cores.length ∧ k'.risen = 0) ∧
      ∀ m ∈ cores, (t.core m.2).run = .bound ∧ (∃ task, (t.core m.2).task = some task ∧ task.card = card ∧ task.index = m.1 ∧ task.gang = k.gang ∧
          task.root = k.choice.root.toNat / 512 * 512 ∧ task.tag = k.tag ∧ task.leases = k.leases) ∧
        ((s.hub.lastCard.find? (·.1 == m.2)).map (·.2) ≠ some card → (t.core m.2).sram = {}) ∧
        ((s.hub.lastCard.find? (·.1 == m.2)).map (·.2) = some card → (t.core m.2).sram = (s.core m.2).sram)

/-- R21, R22, R340: a bound core of a batch card without records receives the next chunk, half of what remains divided by the cores bound and at least one record,
in order, the records that a retired core left first (log 117); when none remain, or the core has been retired, it leaves the card. -/
def Sys2Proof.Claims.Dealing : Prop :=
  ∀ (c : CoreId) (k : Card) (s : State),
    let x := s.core c
    cardOf s x.theTask.card = some k → x.run = .bound → k.gang = false → x.records = [] → k.stops = false →
    let left := k.argCount - k.dealt + k.left.length
    (0 < left → s.hub.usable c = true → 0 < k.nbound →
      let n := max 1 ((left + 2 * k.nbound - 1) / (2 * k.nbound))
      ∃ t, exec (.CHUNK_REQUEST c) s = .next t ∧ t.mem = s.mem ∧
        t.core c = { x with records := (k.left ++ (List.range n).map (k.dealt + ·)).take n } ∧ (∀ l, l ≠ c → t.core l = s.core l) ∧
        cardOf t k.id = some { k with dealt := k.dealt + (n - k.left.length), left := k.left.drop n }) ∧
    (left = 0 ∨ s.hub.usable c = false → ∃ t, exec (.CHUNK_REQUEST c) s = .next t ∧ (t.core c).task = none ∧ (t.core c).run = .idle ∧
      ∀ l, l ≠ c → t.core l = s.core l)

/-- R18, R19, R23, R99, R101, R202: a bound task whose start condition holds starts: its argument record is in s1 and every other scalar register is 0, the
queue is empty, and its first position stands at the entry of its card, which is even (R77). A restored one
resumes where it was. -/
def Sys2Proof.Claims.TasksStart : Prop :=
  ∀ (c : CoreId) (k : Card) (s : State),
    let x := s.core c
    let index := if k.gang then x.theTask.index else x.records.headD 0
    let y := { x.startState k index s.now with records := x.records.drop 1 }
    s.mayStart c = true → cardOf s x.theTask.card = some k →
    (x.run = .bound → k.entry % 2 = 0 → (entryFetch s.mem y k.entry).toOption.isSome = true →
      ∃ t, exec (.TASK_START c) s = .next t ∧ t.mem = s.mem ∧ (∀ l, l ≠ c → t.core l = s.core l) ∧ (t.core c).run = .running ∧
        (∀ r, r < 32 → (t.core c).getS r = if r = 1 then BitVec.ofNat 64 (k.argBase + index * k.argSize) else 0) ∧
        (∀ i : Fin 16, (t.core c).q[i] = {}) ∧ (t.core c).fetch.pc.addr.toNat = k.entry ∧ (t.core c).sram = x.sram ∧ (t.core c).ember = {}) ∧
    (x.run ≠ .bound → ∃ t, exec (.TASK_START c) s = .next t ∧ t.mem = s.mem ∧ (t.core c).run = .running ∧ (t.core c).s = x.s ∧
      (t.core c).fetch = x.fetch ∧ (∀ l, l ≠ c → t.core l = s.core l))

/-- R39, R200, R209: a task that leaves frees its row groups; the core of a batch card takes its next record, that of a gang is free; a retired core is free
too, and the records it had are left for others (R340; log 117). R36, R418: a bound core that
misses two polls in a row is stopped and its physical core retired. -/
def Sys2Proof.Claims.TasksLeave : Prop :=
  (∀ (c : CoreId) (k : Card) (s : State),
    let x := s.core c
    s.retires c = true → cardOf s x.theTask.card = some k →
    ∃ t, exec (.TASK_RETIRE c) s = .next t ∧
      ((∀ g ∈ x.gst, x.theTask.breaches g.addr g.data = false) → ∀ l, l ≠ c → t.core l = s.core l) ∧ (t.core c).ember = {} ∧
      (k.gang = false → k.stops = false → s.hub.usable c = true →
        (t.core c).run = .bound ∧ (t.core c).task = x.task ∧ (t.core c).records = x.records) ∧
      (k.gang = true ∨ k.stops = true ∨ s.hub.usable c = false → (t.core c).run = .idle ∧ (t.core c).task = none) ∧
      (k.gang = false → k.stops = false → s.hub.usable c = false → (cardOf t k.id).map (·.left) = some (k.left ++ x.records))) ∧
  ∀ (c : CoreId) (p : Fin 72) (s : State),
    let x := s.phys p
    s.hub.map[c] = some p → (s.core c).task.isSome = true →
    exec (.CORE_POLL c true) s = .next (s.setPhys p { x with missed := 0 }) ∧
    (x.missed = 0 → exec (.CORE_POLL c false) s = .next (s.setPhys p { x with missed := 1 })) ∧
    (x.missed ≠ 0 → ∃ t, exec (.CORE_POLL c false) s = .next t ∧ t.mem = s.mem ∧ (t.phys p).retired = true ∧ (t.core c).run = .stopped)

/-- R254, R258, R332: when an instance completes, the live members of its unit have nothing left in their commit buffers and their decrements may be sent (R336), and the tag's completion count rises by
one; when every member of a gang stands at END, all of them have committed and leave END. R326, R327: the record of the card that ended first is written at
the ring's tail. -/
def Sys2Proof.Claims.Completions : Prop :=
  (∀ (card : Nat) (tag : Fin 9) (unit : Nat) (k : Card) (s : State), cardOf s card = some k → s.barrierDue k tag.val unit = true →
    ∃ t, exec (.BARRIER_COMPLETE card tag unit) s = .next t ∧ smithKept s t ∧
      (cardOf t card).map (fun k => k.cp tag.val unit) = some (k.cp tag.val unit + 1) ∧
      ∀ m ∈ s.liveMembers k tag.val unit, (t.core m.2).wbuf = [] ∧ (t.core m.2).spilt = [] ∧ (∀ g ∈ (t.core m.2).gst, g.plain = false) ∧
        ∀ d ∈ (t.core m.2).decs, d.2.2 = true) ∧
  (∀ (card : Nat) (k : Card) (s : State), cardOf s card = some k → s.gangEnds k = true →
    ∃ t, exec (.GANG_END_COMMIT card) s = .next t ∧
      ∀ m ∈ k.cores, (t.core m.2).run = .ending ∧ (t.core m.2).stall = none ∧ (t.core m.2).wbuf = [] ∧ (t.core m.2).s = (s.core m.2).s) ∧
  ∀ (f : FnId) (n : Nat) (rest : List Nat) (k : Card) (s : State),
    let x := s.func f
    let size := 2 ^ x.cqlog
    let tail := x.cqtail.toNat % size
    s.recordDue f = true → x.held = n :: rest → cardOf s n = some k → s.boot.minimal = false → x.cqlog ≤ 12 →
    ∃ t, exec (.COMPLETION_RECORD_WRITE f) s = .next t ∧ t.cores = s.cores ∧ t.mem = s.mem.write (x.cqbase.toNat + 32 * tail) (k.record x.cqphase) ∧
      (t.func f).held = rest ∧ (t.func f).cqtail.toNat = (tail + 1) % size ∧
      (t.func f).cqphase = (if tail + 1 = size then !x.cqphase else x.cqphase) ∧ cardOf t n = none

/-- R37, R38, R201, R202, R340, R341: a request for a core becomes pending on every member that has started; at the next boundary its core stops with its engines,
each of which ends a micro-step that has begun, which micro-steps have begun being the model's reading (log 79); once every member has stopped, the core's task is saved and the core is free. A saved task goes back to its own core with its registers, and its restore
count rises, a gang whole, where a task of its card could be bound (R24, R38, R43); a confidential one whose image has changed is stopped instead (R410). A core without a task moves to a spare of its die. The form in which a context is saved and where outside requests stand are the model's choice (log 2, log 20). -/
def Obligations.PreemptionAndRegrowth : Prop :=
  (∀ (c : CoreId) (s : State), (s.core c).run ≠ .preempting → (s.core c).preq = false → s.maySave c = true →
    ∃ t, exec (.PREEMPT_REQUEST c) s = .next t ∧ t.mem = s.mem ∧ smithKept s t ∧
      ∀ m ∈ s.stopSet c, (s.core m).started = true → (t.core m).preq = true) ∧
  (∀ (c : CoreId) (s : State), (s.core c).run ≠ .preempting → (s.core c).preq = true → (s.core c).atBoundary s.now = true → s.clock.phase = .issue →
    ∃ t, exec (.PREEMPT_REQUEST c) s = .next t ∧ t.mem = s.mem ∧ (t.core c).run = .preempting ∧ (t.core c).s = (s.core c).s ∧
      (∀ e : EngId, ((t.core c).eng[e]).queue = ((s.core c).eng[e]).queue ∧
        (s.midStep c e = false ∨ (engOf s c e).frozen = true → ((t.core c).eng[e]).stop = true) ∧
        (s.midStep c e = true → (engOf s c e).frozen = false → ((t.core c).eng[e]).halts = true)) ∧
      ((engOf s c 2).frozen = false → s.midStep c 2 = false → (t.core c).fills = []) ∧
      ∀ l, l ≠ c → t.core l = s.core l) ∧
  (∀ (c : CoreId) (k : Card) (s : State), (s.core c).run = .preempting → s.allStill c = true → s.hub.regrow = [] →
    cardOf s (s.core c).theTask.card = some k →
    let y := (s.core c).context
    ∃ t, exec (.PREEMPT_REQUEST c) s = .next t ∧ (t.core c).task = none ∧ (t.core c).run = .idle ∧
      t.mem = (s.putImage y.theTask (y.fullImage s c s.fresh.1) y.imageBytes k.key).mem ∧
      (cardOf t k.id).map (·.saved) = some (k.saved ++ [{ task := (s.core c).theTask.index, at_ := c, core := y, free := s.fresh.1 }])) ∧
  (∀ (c : CoreId) (card task : Nat) (k : Card) (x : Saved) (s : State), s.mayRestore k c = true → cardOf s card = some k → k.gang = false →
    k.saved.find? (fun x => x.task == task && x.at_ == c) = some x →
    let x := { x with core := { x.core with task := x.core.task.map s.hub.shown } }
    let stands := s.imageStands x k.key
    let y := if stands = true then x.core else x.core.fromImage (s.getImage x.core.theTask x.core.imageBytes)
    ∃ t, exec (.CONTEXT_RESTORE c card task) s = .next t ∧
      (k.key = none ∨ stands = true → (t.core c).task = x.core.task ∧ (t.core c).s = y.s ∧ (t.core c).q = y.q ∧ (t.core c).v = y.v ∧
        (t.core c).fetch = x.core.fetch ∧ (t.core c).run = .restoring y.csr.grant ∧
        (y.csr.grant = true → (t.core c).pwrReq.map (·.level) = some y.csr.level)) ∧
      (k.key ≠ none → stands = false → (t.core c).run = .stopped) ∧
      (cardOf t card).map (fun y => y.restored (k.part x.core.theTask c)) = some (k.restored (k.part x.core.theTask c) + 1)) ∧
  (∀ (c : CoreId) (card task : Nat) (k : Card) (s : State), cardOf s card = some k → k.gang = true → k.key = none →
    (k.saved.any fun x => x.task == task && x.at_ == c) = true → k.saved.length = k.cores.length →
    (∀ x ∈ k.saved, s.mayRestore k x.at_ = true ∧ x.core.task.isSome = true) → (k.saved.map (·.at_)).Nodup →
    ∃ t, exec (.CONTEXT_RESTORE c card task) s = .next t ∧ ∀ x ∈ k.saved, (t.core x.at_).task.map (·.index) = x.core.task.map (·.index)) ∧
  ∀ (c : CoreId) (p q : Fin 72) (s : State), s.hub.map[c] = some p → s.hub.spare (dieOf c) = some q → (s.core c).task = none →
    s.responds c = true → ∃ t, exec (.REGROWTH c) s = .next t ∧ t.mem = s.mem ∧ t.core c = { s.core c with sram := {} } ∧
      (∀ l, l ≠ c → t.core l = s.core l) ∧ t.hub.map[c] = some q ∧ (t.phys p).retired = true ∧
      dieOfPhys q = dieOf c ∧ (s.phys q).retired = false ∧ (∀ l : CoreId, s.hub.map[l] ≠ some q)

/-- R201, R158, R185, R324: the context image has its header, registers, result queue and CSR block at their places; written to a save area that is
mapped in one piece it leaves every other byte of memory; and the registers read back from it are those that were written. The free bytes of its parts of open
layout are the model's choice (log 20). -/
def Obligations.ContextImages : Prop :=
  (∀ (c : Core) (s : State) (l : CoreId) (n : Nat),
    let m := c.fullImage s l n
    m.wf = true ∧ m.readNat 0 4 = 1 ∧ m.readNat 4 4 = c.slots % 2 ^ 32 ∧ m.readNat 8 4 = c.ember.rows.length % 2 ^ 32 ∧
    m.readNat 12 4 = ofBool c.csr.h + 2 * ofBool c.theTask.conf ∧ m.readNat 16 8 = c.imageBytes % 2 ^ 64 ∧
    (∀ i : Fin 32, m.readNat (0x40 + 8 * i.val) 8 = (c.getS i.val).toNat) ∧
    (∀ i : Fin 16, m.readNat (0x140 + 8 * i.val) 8 = (c.q[i]).val.toNat) ∧
    (∀ i : Fin 24, m.readNat (0x200 + 8 * i.val) 8 = (csrRead s l c (savedCsrs.getD i.val 0)).toNat) ∧
    let d := c.fromImage m
    (∀ i : Fin 32, i ≠ 0 → d.s[i] = c.s[i]) ∧ (∀ i : Fin 16, (d.q[i]).val = (c.q[i]).val ∧ (d.q[i]).pend = (c.q[i]).pend) ∧
    d.csr.cause = c.csr.cause ∧ d.csr.tval = c.csr.tval ∧ d.csr.fpc = c.csr.fpc ∧ d.csr.npc = c.csr.npc ∧ d.csr.nnpc = c.csr.nnpc ∧
    d.csr.tscratch = c.csr.tscratch ∧ d.csr.stbase = c.csr.stbase ∧ d.csr.refcnt = c.csr.refcnt ∧ d.csr.frm = c.csr.frm ∧
    d.csr.h = c.csr.h ∧ d.loop.ldep = c.loop.ldep ∧ d.loop.lc = c.loop.lc) ∧
  ∀ (s : State) (t : Task) (img : Mem) (n p : Nat), s.mem.wf = true → s.mem.seed = none → img.wf = true → img.seed = none →
    (∀ i < n, s.areaAddr t (t.save + i) = some (p + i)) →
    let u := s.putImage t img n none
    u.cores = s.cores ∧ u.hub = s.hub ∧ (∀ i < n, u.mem.get (p + i) = img.get i) ∧ ∀ a, a < p ∨ p + n ≤ a → u.mem.get a = s.mem.get a

/-- R44, R339: at a sample point the wait-for edges are noted, and the tasks on a cycle of edges that stood at the last sample too have cause 0x18 pending;
between sample points nothing happens. -/
def Sys2Proof.Claims.DeadlockSamples : Prop :=
  ∀ s : State,
    (s.clock.stamp.toNat % 4096 ≠ 0 → exec .DEADLOCK_SAMPLE s = .next s) ∧
    (s.clock.stamp.toNat % 4096 = 0 → ∃ t, exec .DEADLOCK_SAMPLE s = .next t ∧ t.mem = s.mem ∧ t.hub.sample = s.edges ∧
      ∀ l : CoreId, onCycle (s.edges.filter fun e => s.hub.sample.contains e) l.val = true → (t.core l).pend18 = true)

namespace Sys2Proof.Claims

open Sys2Proof.Machine

/-! ### Host port -/

/-- A function that takes requests: enabled, with IDE established (R404, R411). -/
def takes (s : State) (f : FnId) : Prop := (s.func f).enabled = true ∧ (s.func f).ide = true

/-- A physical byte that no resident key holds. -/
def openAt (s : State) (a : Nat) : Prop := s.keyHolder a = none

/-- What a template keeps of a doubleword written to it: 520 bytes, then OWNER with bits 35:0 (R360). -/
def templateDword (w : Nat) (v : Word) : Word := if w < 65 then v else if w = 65 then BitVec.ofNat 64 (v.toNat % 2 ^ 36) else 0

end Sys2Proof.Claims

/-- R405, R415, R411: ring registers. EN and IEN follow their bits and LOG2N, held to 4 to 12 and in minimal mode to 4, follows only while EN is 0; a doorbell
moves TAIL over free entries alone; a head outside the ring is refused; BASE follows while EN is 0; `ringerr` is cleared by ones; a read-only register
ignores a write; hub ring memory takes a doubleword in minimal mode only. Without IDE a function takes none of them. -/
def Sys2Proof.Claims.RingRegisters : Prop :=
  ∀ (f : FnId) (v : Word) (s : State),
    let x := s.func f
    let log := let n := v.toNat % 16
      if s.boot.minimal = true ∨ n < 4 ∨ 12 < n then 4 else n
    let base : BitVec 40 := BitVec.ofNat 40 (v.toNat / 4096 % 2 ^ 28 * 4096)
    let t := v.toNat % 4096
    (takes s f →
      exec (.SQ_CTL_WRITE f v) s = .next (s.setFunc f { x with sqen := v.getLsbD 4, sqlog := if x.sqen then x.sqlog else log }) ∧
      exec (.CQ_CTL_WRITE f v) s = .next (s.setFunc f { x with
        cqen := v.getLsbD 4, cqien := v.getLsbD 5, cqlog := if x.cqen then x.cqlog else log, errCq := x.errCq || (x.cqen && log != x.cqlog) }) ∧
      (let n := 2 ^ x.sqlog
       x.sqlog ≤ 12 → x.sqhead.toNat < n → x.sqtail.toNat < n →
       exec (.SQ_DOORBELL f v) s = .next (s.setFunc f (
         if t < n ∧ (x.sqtail.toNat + n - x.sqhead.toNat) % n + (t + n - x.sqtail.toNat) % n < n then { x with sqtail := BitVec.ofNat 12 t }
         else { x with errSq := true }))) ∧
      exec (.CQ_HEAD_WRITE f v) s = .next (s.setFunc f (if t < 2 ^ x.cqlog then { x with cqhead := BitVec.ofNat 12 t } else { x with errCq := true })) ∧
      (s.boot.minimal = false → exec (.REGISTER_WRITE f .sqbase v) s = .next (s.setFunc f (if x.sqen then x else { x with sqbase := base })) ∧
        exec (.REGISTER_WRITE f .cqbase v) s = .next (s.setFunc f (if x.cqen then { x with errCq := true } else { x with cqbase := base }))) ∧
      exec (.REGISTER_WRITE f .ringerr v) s = .next (s.setFunc f { x with errSq := x.errSq && !v.getLsbD 0, errCq := x.errCq && !v.getLsbD 1 }) ∧
      (∀ i : Fin 4, exec (.REGISTER_WRITE f (.attnonce i) v) s = .next (s.setFunc f { x with nonce := x.nonce.set i v })) ∧
      (∀ i : Fin 2048, s.boot.minimal = false → exec (.REGISTER_WRITE f (.ring i) v) s = .next s) ∧
      (∀ i : Fin 2048, s.boot.minimal = true → ∃ y, exec (.REGISTER_WRITE f (.ring i) v) s = .next (s.setFunc f y) ∧ { y with ring := x.ring } = x ∧
        ∀ a, a < 16384 → y.ring.getD a 0 = if 8 * i.val ≤ a ∧ a < 8 * i.val + 8 then (leBytes 8 v.toNat).getD (a - 8 * i.val) 0 else x.ring.getD a 0) ∧
      ∀ r : HostReg, r = .sqhead ∨ r = .cqtail ∨ r = .bootwhy ∨ r = .elogtail → exec (.REGISTER_WRITE f r v) s = .next s) ∧
    (¬ takes s f → exec (.SQ_CTL_WRITE f v) s = .next s ∧ exec (.CQ_CTL_WRITE f v) s = .next s ∧ exec (.SQ_DOORBELL f v) s = .next s ∧
      exec (.CQ_HEAD_WRITE f v) s = .next s ∧ ∀ r, exec (.REGISTER_WRITE f r v) s = .next s)

/-- R404, R360, R241, R242: a host writes a doubleword of a template that it owns or nobody does, its reserved bits and bytes staying zero (R6); a refused write
changes no template and is logged. BAR 2 reads and writes the 8 bytes at a physical address of HBM; what a resident key holds is neither read in clear nor
written; past 1 TiB no such access exists. -/
def Sys2Proof.Claims.HostMemory : Prop :=
  (∀ (f : FnId) (n : Fin 1024) (w : Fin 72) (v : Word) (s : State),
    let old := s.hub.template n.val
    let owner := vget old 65 0
    takes s f → s.boot.minimal = false → ∃ t, exec (.HOST_TEMPLATE_WRITE f n w v) s = .next t ∧ t.mem = s.mem ∧ t.cores = s.cores ∧
      (owner.getLsbD 34 = false ∨ owner.toNat / 2 ^ 32 % 4 = f.val → t.hub.template n.val = vput old w.val (templateDword w.val v) ∧
        ∀ m, m ≠ n.val → t.hub.template m = s.hub.template m) ∧
      (owner.getLsbD 34 = true → owner.toNat / 2 ^ 32 % 4 ≠ f.val → t.hub.templates = s.hub.templates ∧
        t.hub.errlog.head?.map (fun e => (e.kind, e.unit)) = some (6, 8))) ∧
  (∀ (f : FnId) (a : Nat) (v : Word) (s : State),
    (2 ^ 40 < a + 8 → exec (.HOST_HBM_READ f a) s = .fault .beyondBar2 ∧ exec (.HOST_HBM_WRITE f a v) s = .fault .beyondBar2) ∧
    (a + 8 ≤ 2 ^ 40 → takes s f → s.boot.minimal = false →
      ((∀ i, i < 8 → openAt s (a + i)) → s.mem.poisonIn a 8 = none → ∃ t, exec (.HOST_HBM_READ f a) s = .next t ∧ t.mem = s.mem ∧ t.cores = s.cores ∧
        (t.func f).answer = BitVec.ofNat 64 (s.mem.readNat a 8)) ∧
      (openAt s a → openAt s (a + 7) → exec (.HOST_HBM_WRITE f a v) s = .next { s with mem := s.mem.write a (leBytes 8 v.toNat) }) ∧
      (∀ k, s.keyHolder a = some k → ∃ t, exec (.HOST_HBM_WRITE f a v) s = .next t ∧ t.mem = s.mem ∧ t.cores = s.cores ∧
        t.hub.errlog.head?.map (fun e => (e.kind, e.unit)) = some (6, 2))) ∧
    (a + 8 ≤ 2 ^ 40 → ¬ takes s f → exec (.HOST_HBM_READ f a) s = .next s ∧ exec (.HOST_HBM_WRITE f a v) s = .next s)) ∧
  ∀ (f : FnId) (s : State), exec (.IDE_ESTABLISH f) s = .next (if (s.func f).enabled then s.setFunc f { s.func f with ide := true } else s)

/-- R409, R413, R414: GO captures the nonce of its function and clears DONE unless a report is being built; the report that follows ends with the signature of its
384 bytes; writing 0xA5 to `startclr` clears the start counter. -/
def Sys2Proof.Claims.Attestation : Prop :=
  (∀ (f : FnId) (v : Word) (s : State), takes s f →
    exec (.ATTESTATION_GO f v) s = .next (
      if v.getLsbD 0 = true ∧ s.boot.signing = none then
        { s with boot := { s.boot with done := false, signing := some ((s.func f).nonce.toList.flatMap fun w => leBytes 8 w.toNat) } }
      else s)) ∧
  (∀ (nonce : List Byte) (s : State), s.boot.signing = some nonce → nonce.length = 32 →
    ∃ t body, exec .ATTESTATION_DONE s = .next t ∧ t.mem = s.mem ∧ t.cores = s.cores ∧ t.boot.done = true ∧ t.boot.signing = none ∧
      body.length = 384 ∧ t.boot.report = body ++ Config.deviceSign body ∧ (body.drop 16).take 32 = nonce) ∧
  (∀ s : State, s.boot.signing = none → exec .ATTESTATION_DONE s = .next s) ∧
  ∀ (f : FnId) (v : Word) (s : State), takes s f →
    exec (.STARTCLR_WRITE f v) s = .next (if v.toNat % 256 = 0xA5 then { s with boot := { s.boot with counter := 0 } } else s)

namespace Sys2Proof.Claims

open Sys2Proof.Machine

/-! ### The chorus -/

/-- A member of more than one forwards what it takes. -/
def forwards (s t : State) (o : ChorusOut) : Prop :=
  (¬ (∀ m ∈ s.chorus.members, m.idx = s.chorus.self ∨ ¬ (m.st = 1 ∨ m.st = 2 ∨ m.st = 3)) → t.chorus.out = s.chorus.out ++ [o])

/-- Neither HBM nor any core has changed. -/
def onlyChorus (s t : State) : Prop := t.mem = s.mem ∧ t.cores = s.cores

/-- A number follows the last one, `q`, of a sender (R370, R388): between them lie only the ADMITs that the sender sent before the tick of the message, which
reach their joiners alone, and none or some of those of that very tick (log 120). -/
def nextNumber (x : Member) (q : BitVec 32) (m : ChorusMsg) : Prop :=
  ∃ j, j ≤ (x.admits.filter (· == m.stamp.toNat)).length ∧
    m.seq = q + 1 + BitVec.ofNat 32 (x.admits.filter (· < m.stamp.toNat)).length + BitVec.ofNat 32 j

/-- A message is in order (R370): its sender is another member, its number follows the last one, and it is not late. -/
def inOrder (s : State) (m : ChorusMsg) : Prop :=
  s.chorus.joining = none ∧ s.chorus.leaving = false ∧ m.sender.toNat ≠ s.chorus.self ∧ s.tick ≤ m.stamp.toNat + s.chorus.dticks ∧
  ∃ x, s.chorus.members.find? (fun x => x.idx == m.sender.toNat && x.st != 4) = some x ∧ ∀ q, x.seq = some q → nextNumber x q m ∧ 2 ^ 31 ≤ (q - m.seq).toNat

/-- The members after a message in order: its sender's entry keeps its number and stamp, and then what the message does to it. -/
def heard (s : State) (m : ChorusMsg) (f : Member → Member) : List Member :=
  s.chorus.members.map fun (x : Member) =>
    if x.idx = m.sender.toNat then f (x.hear m) else x

/-- The declaration that a member's entry takes (R371): stamp tick, effective tick, ceiling, demand. -/
def declares (x : Member) (stamp effect ceil demand : Nat) : Member :=
  { x with decls := x.decls ++ [(stamp, effect, ceil, demand)], dtick := stamp, ceil, demand }

/-- The first switch tick at or after two delays past a stamp (R371). -/
def effectOf (s : State) (stamp : Nat) : Nat := (stamp + 2 * s.chorus.dticks + 255) / 256 * 256

/-- The package is in no chorus but its own (R364). -/
def single (s : State) : Prop := ∀ m ∈ s.chorus.members, m.idx = s.chorus.self ∨ ¬ (m.st = 1 ∨ m.st = 2 ∨ m.st = 3)

/-- A declaration of its own: the sequence number rises, its entry declares, and the message goes out unless the chorus is one; the entry of its coming index,
while it waits for its admission, stays as ADMIT gave it. -/
def declared (s t : State) (ceil demand effect : Nat) (o : ChorusMsg → ChorusOut) : Prop :=
  let c := min ceil Config.highestStep.val
  let m : ChorusMsg := { sender := BitVec.ofNat 10 s.chorus.self, seq := s.chorus.seq + 1, stamp := s.clock.tick, ceil := BitVec.ofNat 5 c
                         demand := BitVec.ofNat 16 demand }
  onlyChorus s t ∧ t.chorus.seq = s.chorus.seq + 1 ∧
  t.chorus.members = s.chorus.members.map (fun x => if x.idx = s.chorus.self then declares x s.tick effect c demand else x) ∧
  t.chorus.admitted = s.chorus.admitted ∧
  (single s → t.chorus.out = s.chorus.out) ∧ (¬ single s → t.chorus.out = s.chorus.out ++ [o m])

end Sys2Proof.Claims

/-- R370 to R375: a message in order enters its sender's entry: DECLARE and LIMIT a declaration with its effective tick, the first LEAVE the tick at which the
member leaves, LOST nothing more; a flooded JOIN adds a joiner with its admission tick, and notes the ADMIT that its sponsor will send then; each is forwarded.
A message that is late or leaves a gap makes the package leave. -/
def Sys2Proof.Claims.ChorusMessages : Prop :=
  ∀ (m : ChorusMsg) (wl at_ : BitVec 64) (lost : BitVec 10) (s : State),
    let st := m.stamp.toNat
    (inOrder s m →
      (∃ t, exec (.CHORUS_DECLARE m) s = .next t ∧ onlyChorus s t ∧ forwards s t (.declare m) ∧
        t.chorus.members = heard s m fun x => declares x st (effectOf s st) m.ceil.toNat m.demand.toNat) ∧
      (∃ t, exec (.CHORUS_LIMIT m wl) s = .next t ∧ onlyChorus s t ∧ forwards s t (.limit m wl.toNat) ∧
        t.chorus.members = heard s m fun x =>
          if wl.toNat < st + 2 * s.chorus.dticks then x else declares x st wl.toNat m.ceil.toNat m.demand.toNat) ∧
      (∃ t, exec (.CHORUS_LEAVE m) s = .next t ∧ onlyChorus s t ∧ forwards s t (.leave m) ∧
        t.chorus.members = heard s m fun x => if x.st = 3 then x else { x with st := 3, leaveAt := some (effectOf s st) }) ∧
      (∃ t, exec (.CHORUS_LOST m lost at_) s = .next t ∧ onlyChorus s t ∧ forwards s t (.lost m lost.toNat at_.toNat) ∧ t.chorus.members = heard s m id) ∧
      (∀ (linkid : BitVec 32) (d : BitVec 16), s.chorus.members.length < 1024 →
        ∃ t, exec (.CHORUS_JOIN m linkid d false) s = .next t ∧ onlyChorus s t ∧ forwards s t (.flood m linkid d.toNat) ∧
          ∃ x ∈ t.chorus.members, x.st = 1 ∧ x.linkid = linkid ∧ x.joinAt = some (effectOf s st) ∧ x.dtick = st ∧ x.ceil = m.ceil.toNat ∧
          ∃ y ∈ t.chorus.members, y.admits.getLast? = some (effectOf s st - s.chorus.dticks))) ∧
    (∀ x : Member, let y := x.hear m
      y.seq = some m.seq ∧ y.seen = x.seen ++ [st] ∧ (x.admits = [] → y.admits = []) ∧ y.idx = x.idx ∧ y.st = x.st ∧ y.decls = x.decls ∧
      y.leaveAt = x.leaveAt ∧ y.lostAt = x.lostAt ∧ y.joinAt = x.joinAt ∧ ∀ u ∈ y.admits, u ∈ x.admits ∧ st ≤ u) ∧
    (∀ x q, s.chorus.joining = none → s.chorus.leaving = false → m.sender.toNat ≠ s.chorus.self →
      s.chorus.members.find? (fun x => x.idx == m.sender.toNat && x.st != 4) = some x → x.seq = some q → 2 ^ 31 ≤ (q - m.seq).toNat →
      ¬ nextNumber x q m ∨ st + s.chorus.dticks < s.tick → ¬ single s →
      ∃ t, exec (.CHORUS_DECLARE m) s = .next t ∧ onlyChorus s t ∧ t.chorus.leaving = true ∧ t.chorus.members = s.chorus.members)

/-- R369, R371, R374, R375: what a package sends. DECLARE, and LIMIT where its tick is not too early, declare for the package itself; the first LEAVE gives its own entry
its tick, and a second one is not sent; JOIN leaves only a chorus of one that runs no card; a sponsor stamps and floods the JOIN of its neighbour. -/
def Sys2Proof.Claims.ChorusSends : Prop :=
  (∀ (c : BitVec 5) (d : BitVec 16) (s : State), s.chorus.leaving = false →
    ∃ t, exec (.DECLARE_SEND c d) s = .next t ∧ t.chorus.lastDecl = s.tick ∧ declared s t c.toNat d.toNat (effectOf s s.tick) .declare) ∧
  (∀ (c : BitVec 5) (d : BitVec 16) (wl : BitVec 64) (s : State), s.chorus.leaving = false →
    (s.tick + 2 * s.chorus.dticks ≤ wl.toNat → ∃ t, exec (.LIMIT_SEND c d wl) s = .next t ∧
      declared s t c.toNat d.toNat wl.toNat fun m => .limit m wl.toNat) ∧
    (wl.toNat < s.tick + 2 * s.chorus.dticks → exec (.LIMIT_SEND c d wl) s = .next s)) ∧
  (∀ s : State, (∃ m ∈ s.chorus.members, m.idx = s.chorus.self ∧ m.st = 3) → exec .LEAVE_SEND s = .next s) ∧
  (∀ s : State, ¬ single s → s.chorus.leaving = false → s.chorus.joining = none → (∀ m ∈ s.chorus.members, m.idx = s.chorus.self → m.st ≠ 3) →
    ∃ t, exec .LEAVE_SEND s = .next t ∧ onlyChorus s t ∧ t.chorus.seq = s.chorus.seq + 1 ∧ t.chorus.members = s.chorus.members.map fun x =>
      if x.idx = s.chorus.self then { x with st := 3, leaveAt := some (effectOf s s.tick) } else x) ∧
  (∀ (p : PortId) (c : BitVec 5) (d : BitVec 16) (s : State), single s → s.chorus.leaving = false → (∀ l, (s.core l).task = none) →
    ∃ t m, exec (.JOIN_SEND p c d) s = .next t ∧ onlyChorus s t ∧ t.chorus.sponsor = some p ∧ t.chorus.members = s.chorus.members ∧
      t.chorus.joinDecl = (min c.toNat Config.highestStep.val, d.toNat) ∧
      t.chorus.out = s.chorus.out ++ [.join p m (((s.chorus.members.find? (·.idx == s.chorus.self)).map (·.linkid)).getD 0) s.chorus.dticks]) ∧
  ∀ (m : ChorusMsg) (linkid : BitVec 32) (d : BitVec 16) (s : State), s.chorus.leaving = false → d.toNat = s.chorus.dticks →
    s.chorus.members.length < 1024 →
    ∃ t, exec (.CHORUS_JOIN m linkid d true) s = .next t ∧ onlyChorus s t ∧ t.chorus.seq = s.chorus.seq + 1 ∧
      ∃ x ∈ t.chorus.members, x.st = 1 ∧ x.mine = true ∧ x.linkid = linkid ∧ x.joinAt = some (effectOf s s.tick) ∧ x.dtick = s.tick

/-- R367, R368, R371, R373, R374, R364: a reference tick falls after 8 + step half-cycles; at a decision tick the members unheard for too long are marked lost from
its switch tick on; at a switch tick of a steady chorus the step becomes the lowest ceiling in force of its members; a package that must leave stands
alone from the next switch tick on, with step SAFE. A joiner takes the tick count of its ADMIT at once, and its index, stamp counter and step at the tick
that it names. The table is written only outside a chorus. Which step SAFE is (log 4) and what a joiner's table holds after an
ADMIT (log 84, log 111, log 120) are the model's reading. -/
def Obligations.ChorusTicks : Prop :=
  (∀ s : State, exec .REFERENCE_TICK s = .next (
    if 8 + s.chorus.step ≤ s.clock.sub then
      { s with clock := { s.clock with tick := s.clock.tick + 1, sub := s.clock.sub - (8 + s.chorus.step) } }
    else s)) ∧
  (∀ s : State,
    let w := s.tick + s.chorus.dticks
    (w % 256 ≠ 0 → exec .DECISION_TICK s = .next s) ∧
    (w % 256 = 0 → ∃ t, exec .DECISION_TICK s = .next t ∧ onlyChorus s t ∧ t.chorus.step = s.chorus.step ∧
      t.chorus.members.length = s.chorus.members.length ∧
      (∀ (i : Nat) (x : Member), s.chorus.members[i]? = some x → (∀ y ∈ s.chorus.members, y.idx = x.idx → y = x) →
        let last := (x.seen.filter fun u => u + 2 * s.chorus.dticks ≤ w).foldl max 0
        t.chorus.members[i]? = some (
          if x.idx ≠ s.chorus.self ∧ (x.st = 2 ∨ x.st = 3) ∧ x.lostAt = none ∧ last + 2 * s.chorus.dticks + 10000 < w then { x with lostAt := some w } else x)) ∧
      ∀ x ∈ s.chorus.members, x.st = 1 → x.mine = true → x.joinAt = some w → s.chorus.leaving = false → ¬ single s →
        ∃ m stampWa step ms, .admission m x.idx w s.tick stampWa step ms ∈ t.chorus.out ∧ m.sender = BitVec.ofNat 10 s.chorus.self ∧ m.stamp = s.clock.tick)) ∧
  (∀ s : State,
    let w := s.tick
    (w % 256 ≠ 0 → exec .SWITCH_TICK s = .next s) ∧
    (w % 256 = 0 → s.chorus.leaving = false → s.chorus.joining = none →
      (∀ m ∈ s.chorus.members, m.lostAt ≠ some w ∧ m.leaveAt ≠ some w ∧ m.joinAt ≠ some w) →
      (∀ m ∈ s.chorus.at_ w, ∃ d, m.inForce w = some d ∧ s.chorus.freshBy w ≤ d.1) →
      ∃ t, exec .SWITCH_TICK s = .next t ∧ onlyChorus s t ∧ t.chorus.step ≤ Config.highestStep.val ∧
        (∀ m ∈ s.chorus.at_ w, ∀ d, m.inForce w = some d → t.chorus.step ≤ d.2.2.1) ∧
        (t.chorus.step = Config.highestStep.val ∨ ∃ m ∈ s.chorus.at_ w, ∃ d, m.inForce w = some d ∧ d.2.2.1 = t.chorus.step)) ∧
    (w % 256 = 0 → s.chorus.leaving = true →
      ∃ t, exec .SWITCH_TICK s = .next t ∧ t.mem = s.mem ∧ smithKept s t ∧ t.chorus.leaving = false ∧ t.chorus.joining = none ∧
        t.chorus.step = s.chorus.safe ∧ ∀ m ∈ t.chorus.members, m.idx = s.chorus.self) ∧
    ∀ i stampWa step, w % 256 = 0 → s.chorus.leaving = false → s.chorus.joining = some (i, w, stampWa, step) →
      ∃ t, exec .SWITCH_TICK s = .next t ∧ t.mem = s.mem ∧ t.chorus.self = i ∧ t.chorus.joining = none ∧ t.chorus.step = step ∧
        t.clock.stamp = BitVec.ofNat 64 stampWa) ∧
  (∀ (self : BitVec 10) (tick wa stampWa : BitVec 64) (step : BitVec 5) (ms : List ChorusMsg) (s : State),
    s.chorus.sponsor.isSome = true → s.chorus.leaving = false →
    ∃ t, exec (.CHORUS_ADMIT self tick wa stampWa step ms) s = .next t ∧ onlyChorus s t ∧ t.clock.tick = tick ∧ t.chorus.sponsor = none ∧
      t.chorus.joining = some (self.toNat, wa.toNat, stampWa.toNat, step.toNat) ∧ t.chorus.members = s.chorus.members ∧
      (∃ y ∈ t.chorus.admitted, y.idx = self.toNat ∧ y.dtick = t.chorus.lastDecl) ∧
      ∀ x ∈ ms, x.sender ≠ self → ∃ y ∈ t.chorus.admitted, y.idx = x.sender.toNat ∧ y.seq = some x.seq ∧ y.ceil = x.ceil.toNat ∧ y.demand = x.demand.toNat ∧
        y.linkid = x.linkid ∧ y.st = (if x.state = 0 then 2 else x.state.toNat) ∧ y.joinAt = (if x.state = 1 then some x.due.toNat else none) ∧
        y.leaveAt = (if x.state = 3 then some x.due.toNat else none) ∧ y.lostAt = if x.state = 4 then some x.due.toNat else none) ∧
  ∀ (v : BitVec 32) (s : State),
    (single s →
      exec (.CHORUS_TABLE_WRITE .safe v) s = .next { s with chorus := { s.chorus with safe := v.toNat % 32 } } ∧
      exec (.CHORUS_TABLE_WRITE .dticks v) s = .next (
        if 16 ≤ v.toNat ∧ v.toNat ≤ 4000 then { s with chorus := { s.chorus with dticks := v.toNat } } else s) ∧
      exec (.CHORUS_TABLE_WRITE .rack v) s = .next { s with chorus := { s.chorus with rack := v.toNat } }) ∧
    (¬ single s → ∀ f, exec (.CHORUS_TABLE_WRITE f v) s = .next s)

namespace Sys2Proof.Claims

open Sys2Proof.Machine

/-- It is the turn of core `l` to issue: no event of the phase is left, and the core runs with no stop asked for and no trap pending (R191). -/
structure Issues (s : State) (l : CoreId) : Prop where
  todo : s.clock.todo = []
  fresh : s.clock.fresh = false
  phase : s.clock.phase = .issue
  turn : s.nextCore = some l
  run : (s.core l).run = .running
  preq : (s.core l).preq = false
  trap : (s.core l).pendingTrap = none

/-- The state in which core `l` takes its turn. -/
def turnOf (s : State) (l : CoreId) : State := { s with cur := l, clock := { s.clock with turn := l.val + 1 } }

/-- The vector register, first of its group, that an instruction writes when it issues. -/
def vdest : Instr → Option (BitVec 5)
  | .VADD d _ _ _ _ | .VSUB d _ _ _ _ | .VMUL d _ _ _ _ | .VFMA d _ _ _ _ | .VMIN d _ _ _ _ | .VMAX d _ _ _ _ | .VAND d _ _ _ _
  | .VOR d _ _ _ _ | .VXOR d _ _ _ _ | .VSHL d _ _ _ _ | .VSHR d _ _ _ _ | .VCMPEQ d _ _ _ _ | .VCMPNE d _ _ _ _ | .VCMPLT d _ _ _ _
  | .VCMPLE d _ _ _ _ | .VSEL d _ _ _ _ | .VNEG d _ _ _ | .VABS d _ _ _ | .VEXP2 d _ _ _ | .VLOG2 d _ _ _ | .VRCP d _ _ _ | .VRSQ d _ _ _
  | .VSQRT d _ _ _ | .VTANH d _ _ _ | .VSIGM d _ _ _ | .VFLOOR d _ _ _ | .VCVT d _ _ _ _ | .VCOAL d _ _ _ | .VMOV d _ _ _ | .VSCAN d _ _ _
  | .VNOT d _ _ _ | .VSPLAT d _ _ _ | .VIOTA d _ _ _ | .VSLICE d _ _ | .VCAT d _ _ | .VSETLEN d _ _ | .VINS d _ _ | .VPOP d _ _ _ => some d
  | _ => none

/-- The predicate register that an instruction writes when it issues. -/
def kdest : Instr → Option (BitVec 3)
  | .PSET k _ _ | .PCNT k _ | .PMIN k _ _ | .PALL k => some k
  | _ => none

/-- The instructions that write CSRs. -/
def setsCsr : Instr → Bool
  | .CSRW .. | .CSRS .. | .CSRC .. | .RETT | .PWRQ .. | .PWRL | .ETOUCH .. | .EALLOC .. => true
  | _ => false

/-- The instructions that enter a command, resume one or abandon one. -/
def setsEngines : Instr → Bool
  | .COPY .. | .COPYX .. | .COPYM .. | .COPYF .. | .COPYT .. | .COPYO .. | .EXPORT .. | .SACC .. | .SACCR .. | .ROWSM .. | .ROWNM .. | .ROWLN ..
  | .ROWMX .. | .MMA .. | .MZERO .. | .MSTORE .. | .MLOAD .. | .LXFER .. | .LRECV .. | .LRED .. | .LTOPK .. | .RETT | .END => true
  | _ => false

/-- The instructions that change the state of row groups. -/
def setsRows : Instr → Bool
  | .EALLOC .. | .EFREE .. | .ETOUCH .. | .ECLASS .. => true
  | _ => false

/-- The instructions that change a barrier tag. -/
def setsTags : Instr → Bool
  | .BAR .. | .BARA .. | .BARW .. | .BARX .. => true
  | _ => false

/-- What the execution of `i` leaves of the core that executes it: `c` before, `t` after. -/
def keeps (i : Instr) (c t : Core) : Prop :=
  t.task = c.task ∧ t.sram = c.sram ∧ t.tiles = c.tiles ∧
  (∀ r, (∀ m ∈ c.marks, m.dst ≠ r) → (∀ f ∈ c.fly, (∃ g ∈ c.fly, g.id = f.id ∧ c.doomed g = true) → f.dst ≠ r) → t.getS r = c.getS r) ∧
  (∀ r : Fin 32, (∀ d, vdest i = some d → r.val < d.toNat ∨ d.toNat + 6 ≤ r.val) → t.v[r] = c.v[r]) ∧
  (∀ r : Fin 8, (∀ d, kdest i = some d → r.val ≠ d.toNat) → t.k[r] = c.k[r]) ∧
  (setsRows i = false → t.ember = c.ember) ∧
  (setsEngines i = false → t.eng = c.eng ∧ t.fills = c.fills) ∧
  (setsCsr i = false → { t.csr with ev := c.csr.ev } = c.csr) ∧
  ((∀ a b, i ≠ .TDSET a b) → (∀ a b, i ≠ .TDCOPY a b) → (∀ a, i ≠ .TDCLR a) → t.td = c.td) ∧
  ((∀ a b, i ≠ .BSET a b) → t.b = c.b) ∧
  (setsTags i = false → (∀ x, c.stall ≠ some (.arrived x)) → t.tags = c.tags) ∧
  (t.shadow.queue, t.shadow.loop, t.shadow.fetch) = (c.shadow.queue, c.shadow.loop, c.shadow.fetch)

/-- The words of the spec's own examples and tables, with the instructions that they stand for. -/
def someWords : List (Nat × Instr) :=
  [ (0x00100181, .BLK_IMMEDIATE 3 4), (0xFC62, .C_ADDI 3 63), (0x00188209, .ADD 4 4 3), (0x0000819D, .LI 3 4), (0x0008A28B, .ADDI 5 5 1),
    (0xFF4801A3, .BNE 3 0 1 (BitVec.ofInt 11 (-6))), (0x00025857, .STAMP 1200), (0x08000003, .BRK), (0x7E07FF85, .WAIT 63 63 0 63),
    (0x0C200003, .SEQW 0 4), (0x00000207, .CSRR 4 0), (0x40392007, .CSRW 0 9 7), (0xF20411B9, .VSEL 3 1 2 0 1), (0x424C543F, .VLDFF 8 5 6 1 1),
    (0x0010A141, .PSET 2 5 2), (0x00206043, .EALLOC 3 4), (0x060062C3, .EAGE 5 3), (0x04188045, .TDCOPY 4 3), (0x0200A345, .TDGET 6 5),
    (0x080859C7, .COPY 19 5 2 1), (0x08286049, .SACC 6 10 1), (0xA21C81CB, .ROWLN 3 8 7 20), (0x280102CD, .MMA 1 1 2 0 16 1 0),
    (0x010090CF, .MSTORE 1 9), (0x1210014F, .MLOAD 2 4 2), (0x02006051, .BARA 3), (0x0C30A051, .SPATCH 5 6), (0x04000253, .PWRG 4),
    (0x1A1468D5, .LRED 1 6 5 3) ]

/-- The state of a core that holds no task. -/
def idle (c : Core) : Prop :=
  c.task = none ∧ c.run = .idle ∧ c.fly = [] ∧ c.csr.h = false ∧ c.csr.cause = 0 ∧ c.csr.frm = 0 ∧ c.csr.vmg = 1 ∧ c.csr.grp = 1 ∧
  c.csr.grant = false ∧ c.csr.level = 0 ∧ c.loop.ldep = 0 ∧ (∀ r : Fin 32, c.v[r] = { fmt := 1, runs := [] }) ∧
  c.td = Vector.replicate 64 0 ∧ c.b = Vector.replicate 16 0 ∧ c.ember.rows = [] ∧ c.wbuf = [] ∧ ∀ e : Fin 6, c.eng[e].queue = []

end Sys2Proof.Claims

/-- R93, R105, R109, R110: a step in which a core issues is the execution of the instruction that its unit decodes to; one that finds a fault of
the decoding takes it, one of a reduction the fault of its group size.
An annulled position is an event. A stall that has ended is an event of its own (R33). -/
def Sys2Proof.Claims.StepRunsTheInstruction : Prop :=
  ∀ (s : State) (l : CoreId), Issues s l →
    ((s.core l).fetch.pc.ann = true → step s = exec (.ANNULLED_POSITION l) (turnOf s l)) ∧
    ((s.core l).fetch.pc.ann = false →
      (∀ i, (s.core l).stall = none → fateAt s.mem (s.core l) = .instr i → step s = exec i (turnOf s l)) ∧
      (∀ r p, (s.core l).stall = none → fateAt s.mem (s.core l) = .illegal r p → step s = exec (.ILLEGAL_INSTRUCTION l r p) (turnOf s l)) ∧
      (∀ code tval, (s.core l).stall = none → fateAt s.mem (s.core l) = .fault code tval →
        step s = .next ((turnOf s l).setCore l ((s.core l).raise code tval none false s.now))) ∧
      (∀ v, (s.core l).stall = none → fateAt s.mem (s.core l) = .group v → step s = .next ((turnOf s l).setCore l
        (if (s.core l).fetch.layout 4 .plain then (s.core l).raise 0x05 (s.core l).fetch.pc.addr none false s.now
         else (s.core l).raise 0x0E v none false s.now))) ∧
      ∀ i k t, (s.core l).stall = some k → fateAt s.mem (s.core l) = .instr i → exec i (turnOf s l) = .next t →
        step s = if (t.core l).stall = none ∧ k.released = true then
          (match k with | .counters _ => exec (.WAIT_CONDITION_MET l) s | _ => exec (.ISSUE_STALL_RELEASE l) s) else .next t)

/-- The model's order of events (log 1, log 2, log 10): an event of the schedule is the execution of its row of the opcode table, an outside event
whose cycle has come is executed at the start of a cycle, a decrement of another package joins those of this one (R336), and a soft error whose cycle has come happens there before it. -/
def Sys2Proof.Claims.StepRunsTheEvents : Prop :=
  (∀ (s : State) (e : Event) (rest : List Event), s.clock.todo = e :: rest →
    ∃ i : Instr, (encode i).1 = 0 ∧ step s = exec i { s with clock := { s.clock with todo := rest } }) ∧
  (∀ (s : State) (t : Nat) (u : Upset) (rest : List (Nat × Upset)), s.clock.todo = [] → s.clock.fresh = true → s.clock.phase = .edge →
    s.upsets = (t, u) :: rest → t ≤ s.now → step s = .next ({ s with upsets := rest }.suffer u)) ∧
  ∀ (s : State) (t : Nat) (i : Instr) (rest : List (Nat × Instr)), s.clock.todo = [] → s.clock.fresh = true → s.clock.phase = .edge →
    (∀ x, s.upsets.head? = some x → s.now < x.1) → s.inputs = (t, i) :: rest → t ≤ s.now →
    (isOutside i = true → (∀ c, i ≠ .DEP_DECREMENT c) → step s = exec i { s with inputs := rest }) ∧
    ∀ c, i = .DEP_DECREMENT c → step s = .next { s with inputs := rest, hub := { s.hub with sent := s.hub.sent ++ [c] } }

/-- R77, R93: a position whose bytes decode to a well-formed instruction meets no fault of the decoding. -/
def Obligations.WellFormedWordsRun : Prop :=
  ∀ (m : Mem) (c : Core) (size w : Nat) (i : Instr), wordAt m c.theTask c.loop c.fetch.pc.addr.toNat = .ok (size, w) →
    prefixShape size w = false → (c.fetch.pc.tgt = true → isHeader m c.theTask c.loop c.fetch.pc.addr.toNat = true) →
    decode w = .instr i → i.wellFormed = true → fateAt m c = .instr i

/-- R77, R84 to R91: decoding the word of an instruction gives the instruction back, with every operand at every value, and the word has the
size that its first parcel says. -/
def Obligations.DecodeInvertsEncode : Prop :=
  ∀ i : Instr, (encode i).1 ≠ 0 →
    (encode i).2 < 2 ^ (encode i).1 ∧ (encode i).1 = sizeOfParcel (encode i).2 ∧ decode (encode i).2 = .instr i

/-- Words written out from the encoding tables decode to the instructions they stand for (R78, R79, R86 to R90). -/
def Obligations.WordsDecode : Prop := ∀ x ∈ someWords, decode x.1 = .instr x.2

/-- R99: `s0` reads 0 and a write of it is discarded; any other register reads what was written last, and no other register changes. -/
def Obligations.NamedRegisters : Prop :=
  ∀ (c : Core) (r : Nat) (v : Word), c.getS 0 = 0 ∧ c.setS 0 v = c ∧
    (0 < r → r < 32 → (c.setS r v).getS r = v) ∧ ∀ k, k ≠ r → (c.setS r v).getS k = c.getS k

/-- The values that the spec gives for device reset: R368 (clocks, chorus), R213, R362, R405, R415, and the state of a core without a task
(R138, R187, R210, R349). A value that the spec does not give is no part of this. -/
def Obligations.ResetState : Prop :=
  let s := State.reset
  s.clock.stamp = 0 ∧ s.clock.tick = 0 ∧ (∀ l : CoreId, idle (s.core l)) ∧ s.chorus.members.length = 1 ∧ s.chorus.self = 0 ∧
  s.chorus.dticks = 16 ∧ s.chorus.step = s.chorus.safe ∧ s.hub.cards = [] ∧ s.hub.map = mapReset ∧ s.life.table = lifeReset ∧
  (∀ d : DieId, (s.die d).ramp = rampReset) ∧ (∀ f : FnId, (s.func f).sqen = false ∧ (s.func f).cqen = false ∧ (s.func f).sqlog = 4)

/-- The memories of the machine at reset have their canonical form. That a byte that nothing has written reads as 0 is the model's choice (log 6). -/
def Obligations.ResetMemories : Prop := State.reset.memWf

/-- Every step keeps the canonical form of HBM and host memory, of Ember and operand SRAM of every core, and of saved contexts. -/
def Obligations.StepsKeepMemories : Prop := ∀ s t : State, s.memWf → step s = .next t → t.memWf

/-- The frame of the instructions of Smith: what the execution of an instruction word leaves unchanged, whether it completes, stalls or
faults. No instruction writes a named register or memory when it issues; only a deferred fault that is taken clears its register (R131), SPAWN may
spill a card to memory (R331). -/
def Obligations.InstructionsKeep : Prop :=
  ∀ (i : Instr) (s t : State), (encode i).1 ≠ 0 → exec i s = .next t →
    ((∀ a, i ≠ .SPAWN a) → t.mem = s.mem) ∧ t.inputs = s.inputs ∧ t.upsets = s.upsets ∧ t.chorus = s.chorus ∧ t.life = s.life ∧
    (∀ l : CoreId, l ≠ s.cur → t.core l = { s.core l with feeds := (t.core l).feeds }) ∧ keeps i (me s) (t.core s.cur)

/-! ### Forms that complete

What each form needs of the state and its operands in order to answer a next state, with the first thing that its own effect does there. What else it does
and leaves is said above. -/

/-- R188, R196: RETT completes in the handler, the CSR instructions wherever their sources can be read and the task may write the CSR. -/
def Sys2Proof.Claims.CsrAndReturnFormsComplete : Prop :=
  (∀ s : State, runs s 4 .rett = true → (me s).csr.h = true →
    ∃ t, exec .RETT s = .next t ∧ (t.core s.cur).csr.h = false ∧ (t.core s.cur).fetch.pc.addr = (me s).csr.fpc) ∧
  ∀ (d a : BitVec 6) (k : BitVec 11) (s : State) (x : Word) (c : Core) (n : Fetch × Loop), plain s 4 n →
    let done (t : State) : Prop := (t.core s.cur).fetch = n.1 ∧
      ∃ f ∈ (t.core s.cur).fly, f.dst = d.toNat ∧ f.val = csrRead s s.cur (me s) k.toNat ∧ f.due = some (s.now + 1)
    (reads (me s) [0] [] d.toNat [x] c → ∃ t, exec (.CSRR d k) s = .next t ∧ done t) ∧
    (reads (me s) [a.toNat] [] d.toNat [x] c → csrRefuses (me s) k.toNat = false →
      (∃ t, exec (.CSRW d a k) s = .next t ∧ done t) ∧ (∃ t, exec (.CSRS d a k) s = .next t ∧ done t) ∧ ∃ t, exec (.CSRC d a k) s = .next t ∧ done t)

/-- R275, R314, R237, R393 to R395, R193, R199, R215, R214, R211: the events of engines, ports, traps and lifetimes complete where what they wait for has come. -/
def Sys2Proof.Claims.CoreEventsComplete : Prop :=
  (∀ (c l : CoreId) (e : EngId) (f : Fin 8) (y : (Nat × Nat) × Eng) (s : State),
    ((s.core c).feeds[f]).elems.length < 64 → ((s.core c).feeds[f]).took.1 ≠ s.now → s.deliverer c f.val = some (l, e) → s.nextElem l e = some y →
    ∃ t, exec (.FEED_ELEMENT_ENTRY c f) s = .next t ∧ ((s.core c).feeds[f]).count < ((t.core c).feeds[f]).count) ∧
  (∀ (c : CoreId) (e : EngId) (cmd : Cmd) (rest : List Cmd) (n : Nat) (s : State), (engOf s c e).queue = cmd :: rest → cmd.miss = none →
    (engOf s c e).begun = none → cmd.stamp = some n → n ≤ s.clock.stamp.toNat →
    ∃ t, exec (.SCHEDULE_MISS c e) s = .next t ∧ (engOf t c e).queue.head?.map (·.miss) = some (some s.clock.stamp)) ∧
  (∀ (c : CoreId) (e : EngId) (ln : Line) (p : Nat) (s : State), (engOf s c e).got = [ln] → ln.waits s.now = true →
    translate s.mem (s.core c).theTask ln.addr needRd = some p →
    ∃ t, exec (.GLOBAL_READ_RETURN c e) s = .next t ∧ (engOf t c e).got.map (·.bytes) = [s.mem.read p 64]) ∧
  (∀ (c : CoreId) (cmd : Cmd) (rest : List Cmd) (s : State),
    let x := engOf s c 5
    x.queue = cmd :: rest → x.active = true → x.begun.isSome = true → x.sub = 0 → cmd.sends = true →
    ((s.port cmd.port).sent.filter (·.dst == cmd.peer)).length < 64 → (cmd.rel = true → (s.core c).mayRelease s.now cmd.prog = true) →
    (s.sendStep c x cmd).1 = none →
    ∃ t, exec (.LINK_FLIT_SEND c) s = .next t ∧ (t.port cmd.port).sent.length = (s.port cmd.port).sent.length + 1 ∧ (engOf t c 5).micro = x.micro + 1) ∧
  (∀ (p : PortId) (f : Flit) (s : State),
    let x := s.port p
    x.trained = true → x.skip.contains (f.src, f.dst, f.chan) = false → (x.store.filter (·.dst == f.dst)).length < 64 →
    ∃ t, exec (.LINK_FLIT_ARRIVAL p f true) s = .next t ∧ (t.port p).store = x.store ++ [f]) ∧
  (∀ (c : CoreId) (cmd : Cmd) (f : Flit) (s : State), s.linkTakes c = some (cmd, f) → (s.recvStep c (engOf s c 5) cmd f).1 = none →
    ∃ t, exec (.LINK_FLIT_RECEIVE c) s = .next t ∧ (engOf t c 5).flits = (engOf s c 5).flits ++ [f]) ∧
  (∀ (p : PortId) (n : BitVec 10) (s : State), ∃ t, exec (.LINK_TRAIN p true n) s = .next t ∧ (t.port p).trained = true) ∧
  (∀ (c : CoreId) (code : Byte) (tval : Word) (eng : Option EngId) (ss : Bool) (s : State), (s.core c).run = .running →
    (s.core c).pendingTrap = some (code, tval, eng, ss) →
    ∃ t, exec (.TRAP_ENTRY c code tval eng ss) s = .next t ∧ (t.core c).run = .entering code tval eng ss) ∧
  (∀ (c : CoreId) (a b : Word) (dst due : Nat) (s : State), (s.core c).run = .service a b dst due → due ≤ s.now →
    ∃ t, exec (.SYSTEM_SERVICE c) s = .next t ∧ (t.core c).run = .running) ∧
  (∀ (c : CoreId) (q : Rewrite) (rest : List Rewrite) (s : State), (s.core c).ember.queue = q :: rest → q.begun = none → q.ready ≤ s.now →
    ∃ t, exec (.REFRESH_REWRITE c) s = .next t ∧ (t.core c).ember.queue.head?.bind (·.begun) = some s.now) ∧
  (∀ (c : CoreId) (q : Rewrite) (rest : List Rewrite) (s : State), (s.core c).ember.queue = q :: rest → (s.core c).ember.rewritten s.now = true →
    (s.core c).ember.bound ≠ some s.now → ∃ t, exec (.REWRITE_END c) s = .next t ∧ (t.core c).ember.queue = rest) ∧
  ∀ (t0 t1 t2 t3 : Byte) (s : State), ∃ t, exec (.AGE_TICK_BOUNDARY t0 t1 t2 t3) s = .next t ∧
    ∀ l : CoreId, (t.core l).ember.bound = some s.now

/-- R18 to R44, R322 to R332, R326, R240: the events of the hub and of Salamander's choices complete where what they need holds. -/
def Sys2Proof.Claims.HubEventsComplete : Prop :=
  (∀ (c : CoreId) (s : State), s.retires c = true → ∃ t, exec (.TASK_RETIRE c) s = .next t ∧ (t.core c).ember = {}) ∧
  (∀ (c : CoreId) (k : Card) (s : State), cardOf s (s.core c).theTask.card = some k → (s.core c).run = .bound → k.gang = false →
    (s.core c).records = [] → k.stops = false → 0 < k.argCount - k.dealt + k.left.length → s.hub.usable c = true → 0 < k.nbound →
    ∃ t, exec (.CHUNK_REQUEST c) s = .next t ∧ (t.core c).records ≠ []) ∧
  (∀ (f : FnId) (ch : CardChoice) (s : State), s.hasEntry f = true → s.boot.minimal = false →
    ∃ t, exec (.JOB_CARD_ACCEPT (.ring f) ch) s = .next t ∧ t.hub.nextCard = s.hub.nextCard + 1) ∧
  (∀ (c : BitVec 12) (s : State), -2147483648 < counter s c.toNat → ∃ t, exec (.DEP_DECREMENT c) s = .next t ∧
    counter t c.toNat = counter s c.toNat - 1) ∧
  (∀ (n : Nat) (rest : List Nat) (s : State), s.hub.spill = n :: rest → s.hub.pool.length < 224 →
    ∃ t, exec (.SPILL_CARD_RETURN n) s = .next t ∧ t.hub.spill = rest) ∧
  (∀ (card : Nat) (k : Card) (cores : List (Nat × CoreId)) (start launch : BitVec 64) (span : List (BitVec 10)) (s : State),
    cardOf s card = some k → s.mayBind k cores (!span.isEmpty) = true →
    ∃ t, exec (.BIND card cores start launch span) s = .next t ∧ (cardOf t card).map (·.st) = some .running) ∧
  (∀ (c : CoreId) (k : Card) (s : State), s.mayStart c = true → cardOf s (s.core c).theTask.card = some k → (s.core c).run ≠ .bound →
    ∃ t, exec (.TASK_START c) s = .next t ∧ (t.core c).run = .running) ∧
  (∀ (n : Nat) (k : Card) (s : State), cardOf s n = some k → k.st = .waiting → k.prio < 6 → k.prio + k.risen < 6 →
    k.since + 200000 * (k.risen + 1) ≤ s.tick → ∃ t, exec (.PRIORITY_AGEING n) s = .next t ∧ (cardOf t n).map (·.risen) = some (k.risen + 1)) ∧
  (∀ (c : CoreId) (s : State), (s.core c).run ≠ .preempting → (s.core c).preq = true → (s.core c).atBoundary s.now = true → s.clock.phase = .issue →
    ∃ t, exec (.PREEMPT_REQUEST c) s = .next t ∧ (t.core c).run = .preempting) ∧
  (∀ (c : CoreId) (card task : Nat) (k : Card) (x : Saved) (s : State), s.mayRestore k c = true → cardOf s card = some k → k.gang = false →
    k.saved.find? (fun x => x.task == task && x.at_ == c) = some x →
    ∃ t, exec (.CONTEXT_RESTORE c card task) s = .next t ∧ (t.core c).run ≠ .idle) ∧
  (∀ (c : CoreId) (p q : Fin 72) (s : State), s.hub.map[c] = some p → s.hub.spare (dieOf c) = some q → (s.core c).task = none → s.responds c = true →
    ∃ t, exec (.REGROWTH c) s = .next t ∧ t.hub.map[c] = some q) ∧
  (∀ (c : CoreId) (p : Fin 72) (s : State), s.hub.map[c] = some p → (s.core c).task.isSome = true →
    ∃ t, exec (.CORE_POLL c true) s = .next t ∧ (t.phys p).missed = 0) ∧
  (∀ s : State, s.clock.stamp.toNat % 4096 = 0 → ∃ t, exec .DEADLOCK_SAMPLE s = .next t ∧ t.hub.sample = s.edges) ∧
  (∀ (card : Nat) (tag : Fin 9) (unit : Nat) (k : Card) (s : State), cardOf s card = some k → s.barrierDue k tag.val unit = true →
    ∃ t, exec (.BARRIER_COMPLETE card tag unit) s = .next t ∧ (cardOf t card).map (fun k => k.cp tag.val unit) = some (k.cp tag.val unit + 1)) ∧
  (∀ (card : Nat) (k : Card) (s : State), cardOf s card = some k → s.gangEnds k = true →
    ∃ t, exec (.GANG_END_COMMIT card) s = .next t ∧ ∀ m ∈ k.cores, (t.core m.2).run = .ending) ∧
  (∀ (f : FnId) (n : Nat) (rest : List Nat) (s : State), s.recordDue f = true → (s.func f).held = n :: rest →
    ∃ t, exec (.COMPLETION_RECORD_WRITE f) s = .next t ∧ (t.func f).held = rest) ∧
  (∀ (i : BitVec 12) (s : State), ∃ t, exec (.ASID_INVALIDATE i) s = .next t ∧ i.toNat ∈ t.hub.invalid) ∧
  ∀ (c : CoreId) (r : Fin 8) (s : State), ∃ t, exec (.RESERVATION_SET_ASIDE c r) s = .next t ∧ t.hub.resv[c] = r

/-- R404 to R415: the host's accesses complete on a function that takes requests, start-up where its attempt stands. -/
def Sys2Proof.Claims.HostEventsComplete : Prop :=
  (∀ (f : FnId) (v : Word) (s : State), takes s f →
    (∃ t, exec (.SQ_CTL_WRITE f v) s = .next t ∧ (t.func f).sqen = v.getLsbD 4) ∧
    (∃ t, exec (.CQ_CTL_WRITE f v) s = .next t ∧ (t.func f).cqen = v.getLsbD 4) ∧
    (v.toNat % 4096 < 2 ^ (s.func f).cqlog → ∃ t, exec (.CQ_HEAD_WRITE f v) s = .next t ∧ (t.func f).cqhead.toNat = v.toNat % 4096) ∧
    (let x := s.func f
     let n := 2 ^ x.sqlog
     x.sqlog ≤ 12 → x.sqhead.toNat < n → x.sqtail.toNat < n → v.toNat % 4096 < n →
     (x.sqtail.toNat + n - x.sqhead.toNat) % n + (v.toNat % 4096 + n - x.sqtail.toNat) % n < n →
     ∃ t, exec (.SQ_DOORBELL f v) s = .next t ∧ (t.func f).sqtail.toNat = v.toNat % 4096) ∧
    (∀ i : Fin 4, ∃ t, exec (.REGISTER_WRITE f (.attnonce i) v) s = .next t ∧ (t.func f).nonce[i] = v) ∧
    (v.getLsbD 0 = true → s.boot.signing = none → ∃ t, exec (.ATTESTATION_GO f v) s = .next t ∧ t.boot.signing.isSome = true) ∧
    (v.toNat % 256 = 0xA5 → ∃ t, exec (.STARTCLR_WRITE f v) s = .next t ∧ t.boot.counter = 0)) ∧
  (∀ (f : FnId) (n : Fin 1024) (w : Fin 72) (v : Word) (s : State), takes s f → s.boot.minimal = false →
    (vget (s.hub.template n.val) 65 0).getLsbD 34 = false →
    ∃ t, exec (.HOST_TEMPLATE_WRITE f n w v) s = .next t ∧ vget (t.hub.template n.val) w.val 0 = templateDword w.val v) ∧
  (∀ (f : FnId) (a : Nat) (v : Word) (s : State), a + 8 ≤ 2 ^ 40 → takes s f → s.boot.minimal = false → (∀ i, i < 8 → openAt s (a + i)) →
    (s.mem.poisonIn a 8 = none → ∃ t, exec (.HOST_HBM_READ f a) s = .next t ∧ (t.func f).answer = BitVec.ofNat 64 (s.mem.readNat a 8)) ∧
    ∃ t, exec (.HOST_HBM_WRITE f a v) s = .next t ∧ t.mem = s.mem.write a (leBytes 8 v.toNat)) ∧
  (∀ (nonce : List Byte) (s : State), s.boot.signing = some nonce → ∃ t, exec .ATTESTATION_DONE s = .next t ∧ t.boot.done = true) ∧
  (∀ (f : FnId) (s : State), (s.func f).enabled = true → ∃ t, exec (.IDE_ESTABLISH f) s = .next t ∧ (t.func f).ide = true) ∧
  (∀ (t0 t1 t2 t3 : Byte) (s : State), ∃ t, exec (.DEVICE_RESET t0 t1 t2 t3) s = .next t ∧ t.boot.stage = 1) ∧
  (∀ (r : StageResult) (s : State), s.boot.failed = false → s.boot.stage < 8 → s.boot.failure r = none →
    ∃ t, exec (.BOOT_STAGE r) s = .next t ∧ s.boot.stage < t.boot.stage) ∧
  (∀ s : State, s.boot.failed = false → s.boot.stage < 8 → s.boot.began + 1000000000 < s.tick →
    ∃ t, exec .BOOT_STAGE_TIMEOUT s = .next t ∧ t.boot.failed = true) ∧
  ∀ s : State, ∃ t, exec .STANDBY_POWER_LOSS s = .next t ∧ t.boot.counter = 0

/-- R213, R362, R378, R379, R385, R386: the events of lifetimes and power complete where they have something to do. -/
def Sys2Proof.Claims.PowerEventsComplete : Prop :=
  (∀ (band cls : Fin 8) (v : Byte) (s : State), band.val < 6 →
    ∃ t, exec (.TEMP_TABLE_WRITE band cls v) s = .next t ∧ t.life.pending.length = s.life.pending.length + 1) ∧
  (∀ (d : DieId) (r : Vector (BitVec 16) 16) (s : State), (∀ i : Fin 16, 16 ≤ r[i].toNat ∧ r[i].toNat ≤ 4096) →
    (∀ i j : Fin 16, i ≤ j → r[i].toNat ≤ r[j].toNat) → ∃ t, exec (.RAMP_TABLE_WRITE d r) s = .next t ∧ (t.die d).next = some r) ∧
  (∀ (d : DieId) (r : Vector (BitVec 16) 16) (s : State), (s.die d).next = some r → (s.die d).act = 0 → (s.die d).c = 0 → (s.die d).i = 0 →
    ∃ t, exec (.RAMP_TABLE_APPLY d) s = .next t ∧ (t.die d).ramp = r) ∧
  (∀ (d : DieId) (u : BitVec 13) (s : State), 256 ≤ u.toNat → u.toNat ≤ 4096 → ∃ t, exec (.DIE_BUDGET_WRITE d u) s = .next t ∧ (t.die d).u = u.toNat) ∧
  (∀ (p : Fin 72) (s : State), (∀ l : CoreId, s.hub.map[l] = some p → (s.core l).task = none) → (s.phys p).gated = none →
    ∃ t, exec (.CORE_GATE p) s = .next t ∧ (t.phys p).gated = some s.tick) ∧
  (∀ (p : Fin 72) (g : Nat) (s : State), (s.phys p).gated = some g → s.tick - g < 20 →
    ∃ t, exec (.CORE_WAKE_REQUEST p) s = .next t ∧ (t.phys p).gated = none) ∧
  (∀ (p : Fin 72) (g w : Nat) (s : State), (s.phys p).gated = some g → (s.phys p).wake = some w → 200 ≤ s.tick - g →
    ∃ t, exec (.GATE_HOLD_END p) s = .next t ∧ p ∈ (t.die (dieOfPhys p)).wakes) ∧
  (∀ (d : DieId) (p : Fin 72) (rest : List (Fin 72)) (s : State), (s.die d).wakes = p :: rest → (∀ w, (s.die d).lastWake = some w → 50 ≤ s.tick - w) →
    ∃ t, exec (.WAKE_START d) s = .next t ∧ (t.phys p).gated = none) ∧
  (∀ (d : DieId) (n : Nat) (s : State), 4 ≤ n → ∃ t, exec (.VOLTAGE_ADJUST d n) s = .next t ∧ (t.die d).volt = (s.die d).volt - 1) ∧
  (∀ (d : DieId) (at_ : Nat) (s : State), (s.die d).retAt = some at_ → ∃ t, exec (.VOLTAGE_RETURN d) s = .next t ∧ (t.die d).volt = 0) ∧
  ∀ (d : DieId) (at_ : Nat) (s : State), (s.die d).offUntil = some at_ → at_ ≤ s.tick →
    ∃ t, exec (.UNDERVOLT_REENABLE d) s = .next t ∧ (t.die d).offUntil = none

/-- R364, R367 to R375: the messages, the sends and the ticks of the chorus complete where they are due. -/
def Sys2Proof.Claims.ChorusEventsComplete : Prop :=
  (∀ s : State, 8 + s.chorus.step ≤ s.clock.sub → ∃ t, exec .REFERENCE_TICK s = .next t ∧ t.clock.tick = s.clock.tick + 1) ∧
  (∀ s : State, (s.tick + s.chorus.dticks) % 256 = 0 → ∃ t, exec .DECISION_TICK s = .next t ∧ t.chorus.next = (t.chorus.withNext s.tick).next) ∧
  (∀ s : State, s.tick % 256 = 0 → s.chorus.leaving = true → ∃ t, exec .SWITCH_TICK s = .next t ∧ t.chorus.leaving = false) ∧
  (∀ (m : ChorusMsg) (wl at_ : BitVec 64) (lost : BitVec 10) (s : State), inOrder s m →
    let took (t : State) : Prop := ∃ x ∈ t.chorus.members, x.idx = m.sender.toNat ∧ x.seq = some m.seq
    (∃ t, exec (.CHORUS_DECLARE m) s = .next t ∧ took t) ∧ (∃ t, exec (.CHORUS_LIMIT m wl) s = .next t ∧ took t) ∧
    (∃ t, exec (.CHORUS_LEAVE m) s = .next t ∧ took t) ∧ ∃ t, exec (.CHORUS_LOST m lost at_) s = .next t ∧ took t) ∧
  (∀ (m : ChorusMsg) (linkid : BitVec 32) (d : BitVec 16) (s : State), s.chorus.leaving = false → d.toNat = s.chorus.dticks →
    ∃ t, exec (.CHORUS_JOIN m linkid d true) s = .next t ∧ t.chorus.seq = s.chorus.seq + 1) ∧
  (∀ (self : BitVec 10) (tick wa stampWa : BitVec 64) (step : BitVec 5) (ms : List ChorusMsg) (s : State),
    s.chorus.sponsor.isSome = true → s.chorus.leaving = false →
    ∃ t, exec (.CHORUS_ADMIT self tick wa stampWa step ms) s = .next t ∧ t.clock.tick = tick ∧ t.chorus.joining.isSome = true) ∧
  (∀ (c : BitVec 5) (d : BitVec 16) (wl : BitVec 64) (s : State), s.chorus.leaving = false →
    (∃ t, exec (.DECLARE_SEND c d) s = .next t ∧ t.chorus.seq = s.chorus.seq + 1) ∧
    (s.tick + 2 * s.chorus.dticks ≤ wl.toNat → ∃ t, exec (.LIMIT_SEND c d wl) s = .next t ∧ t.chorus.seq = s.chorus.seq + 1)) ∧
  (∀ (p : PortId) (c : BitVec 5) (d : BitVec 16) (s : State), single s → s.chorus.leaving = false → (∀ l, (s.core l).task = none) →
    ∃ t, exec (.JOIN_SEND p c d) s = .next t ∧ t.chorus.sponsor = some p) ∧
  (∀ s : State, ¬ single s → s.chorus.leaving = false → (∀ m ∈ s.chorus.members, m.idx = s.chorus.self → m.st ≠ 3) →
    ∃ t, exec .LEAVE_SEND s = .next t ∧ t.chorus.seq = s.chorus.seq + 1) ∧
  ∀ (v : BitVec 32) (s : State), single s → ∃ t, exec (.CHORUS_TABLE_WRITE .safe v) s = .next t ∧ t.chorus.safe = v.toNat % 32

/-! ### Statements in parts -/

/-- R105, R120 to R122: the ALU instructions on registers push the results that the tables above give; and what every ALU and floating-point form does that has to wait for a source (R103, R107, R276). -/
def Obligations.AluRegisterForms : Prop := AluOfTwoSources ∧ SelAndBfi ∧ AluOfOneSource ∧ ScalarInterlocks

/-- R90, R123, R124: the immediate forms, LI and LUI, and the 16-bit forms that expand to ALU instructions. -/
def Obligations.AluImmediateForms : Prop := AluImmediates ∧ AluShortForms

/-- R132, R133, R135: the scalar floating-point instructions but divide and square root. -/
def Obligations.ScalarFloat : Prop := FloatOfTwoSources ∧ FloatMultiplyAdd ∧ FloatOfOneSource

/-- R109, R110, R125, R126: branches, J, JAL, JALR and C.J. That the two positions after a branch that is not taken are delay slots too is the model's reading (log 36). -/
def Obligations.BranchesAndJumps : Prop := Branches ∧ Jumps ∧ JumpToRegister

/-- R109, R115, R117: the fetch state advances; headers and NOP complete. -/
def Obligations.FetchAndHeaders : Prop := FetchAdvances ∧ HeadersAndNop

/-- R128 to R130: scalar stores at issue, and the faults of a scalar access. That the address is read before the data (log 35), that a global store becomes its unit's most recent translation (log 60), and the free time of its walk (log 9) are the model's. -/
def Obligations.StoresAndAccessFaults : Prop := Stores ∧ AccessFaults

/-- R187, R188: the CSR instructions, and what a write of each CSR stores. -/
def Obligations.CsrReadsAndWrites : Prop := CsrAccess ∧ CsrWrites

/-- R91, R92, R183: the predicate instructions and the two prefixes. -/
def Obligations.PredicatesAndPrefixes : Prop := Predicates ∧ Prefixes

/-- R199: BRK, C.BRK, YIELD and TRAP. -/
def Obligations.BreakpointsYieldAndTrap : Prop := Breakpoints ∧ YieldAndTrap

/-- R249, R271 to R273: WAIT, C.WAIT, SEQW, WAITV and FENCE. -/
def Obligations.WaitsAndFences : Prop := WaitForCounters ∧ WaitForSequence ∧ WaitForValue ∧ Fences

/-- R336 to R338: DEPDEC, SPATCH and SPAWN. The times within the rules' limits are free (log 9); that a member of STATE 3 is still in the chorus is the model's reading (log 85). -/
def Obligations.DependenceAndSpawn : Prop := DependenceDecrement ∧ TemplatePatch ∧ Spawn

/-- R351, R352: the TD instructions. That TDCOPY takes operand SRAM and global memory at issue (log 24) and lands at a free time (log 9) is the model's. -/
def Obligations.Descriptors : Prop := DescriptorsAndBounds ∧ DescriptorCopy

/-- R221 to R225: the EMB instructions. -/
def Obligations.RowGroupInstructions : Prop := RowGroups ∧ RowGroupStates ∧ RowGroupAge

/-- R161 to R168: the elementwise vector instructions. -/
def Obligations.VectorElementwise : Prop := VectorOfTwoSources ∧ VectorOfOneSource

/-- R168, R169, R173 to R175: VCOAL, VSCAN and the instructions that build vectors. -/
def Obligations.CoalesceScanAndBuilding : Prop := CoalesceAndScan ∧ VectorBuilding

/-- R170 to R172, R174: the VRED instructions with a scalar result. -/
def Obligations.ReductionsAndQueries : Prop := Reductions ∧ VectorQueries

/-- R176 to R182: the VMEM instructions at issue. A value that the spec leaves open is a free one (log 5, log 12). The rank of VPOP's parity fault (log 42), how it is counted (log 43), and which slots its occupancy counts (log 124) are the model's reading. -/
def Obligations.VectorMemoryAndPop : Prop := VectorMemory ∧ VectorPop

/-- R277 to R287, R288 to R292, R316, R394, R396: the commands of Tongs, Swage, Temper, Anvil and the link engine at issue. The order of checks inside one order of R279 and the descriptor that a bad pair names (log 16, log 130), a neighbour of STATE 3 (log 85), GRP = 3 of an EBX source (log 113) and the rank of a descriptor's parity fault (log 132) are the model's reading. -/
def Obligations.QueuedCommands : Prop := CopyCommands ∧ SwageAndRowCommands ∧ AnvilCommands ∧ LinkCommands

/-- R105, R127, R131, R205, R237: results land, reads of Ember return, and a global load takes its value; that its value is fixed when its walk completes and lands at a free time is the model's choice (log 9, log 25). -/
def Obligations.LoadsLand : Prop := ResultLands ∧ EmberReadsLand ∧ GlobalLoadFixed

/-- R156, R157, R176 to R182: the end of a vector instruction, and what its accesses leave. A value that the spec leaves open is a free one (log 5, log 12). -/
def Obligations.VectorOccupancyEnds : Prop := VectorEnds ∧ StridedLoadResult ∧ VectorStoresLand

/-- R130, R205 to R207, R215: the banks grant their requests by rank, exposed stores enter the hold registers, which drain into the array, and the refresh unit rewrites it. -/
def Obligations.EmberStoresLand : Prop := ExposedStoresWrite ∧ HoldDrains ∧ Refreshes ∧ EmberArbitration

/-- R256, R257, R262: stores are accepted and lines commit. The order and the times among those the rules allow are the model's (log 8, log 9, log 23). -/
def Obligations.GlobalStoresLand : Prop := StoresAreMade ∧ LinesCommit

/-- R189 to R194: asynchronous causes and trap entry. That a single step ranks after every other asynchronous cause is the model's reading (log 40). -/
def Obligations.TrapsAreTaken : Prop := AsynchronousTraps ∧ TrapEntry

/-- R33, R93, R110, R199: annulled positions, illegal instructions, the ends of stalls, and Salamander's answers. -/
def Obligations.PositionsAndServices : Prop := PositionEvents ∧ SystemServices

/-- R264 to R267: a command reaches the head of its queue and leaves it. That an entry without parity faults after the lease check is the model's reading (log 42). -/
def Obligations.CommandsEnterAndLeave : Prop := CommandsReachTheHead ∧ CommandsComplete

/-- R275, R237, R314, R315: elements enter feeds, global reads return to engines, and schedule misses are found. -/
def Obligations.FeedsAndEngineReads : Prop := FeedsFill ∧ EngineReadsAndMisses

/-- R281, R293, R317 to R319: the line, row and tile writes of engines. That the rows MLOAD has not yet written keep their bytes under the new format is the model's reading (log 50). -/
def Obligations.EngineWrites : Prop := EngineLineWrites ∧ TileRowsLoad

/-- R290, R291, R293: Swage's updates and Temper's timetable. -/
def Obligations.SwageAndTemperWork : Prop := SwageUpdates ∧ TemperTimetable

/-- R296, R309, R310: a pass begins and ends. A result that the spec leaves open is a free value (log 5); that a poisoned B line names the address of its poisoned word is the model's reading (log 17). -/
def Obligations.AnvilPasses : Prop := PassesBegin ∧ PassesEnd

/-- R216, R362, R378, R379, R385, R386: Bellows, the ramp table, gating and undervolting. That a die budget outside 256 to 4,096 is ignored is the model's reading (log 64). -/
def Obligations.DiesAndPower : Prop := BellowsSteps ∧ DieTables ∧ GatingAndVoltage

/-- R213, R214, R354, R412 to R414: lifetimes, age ticks and the stages of start-up. That the start counter is kept when stage 7 of a minimal-mode start completes (log 33), when a stage has outlasted its limit (log 95), what device reset keeps of memory (log 96) and the reason with which stage 3 refuses an image (log 116) are the model's. -/
def Obligations.LifetimesAndStartUp : Prop := Lifetimes ∧ StartUp

/-- R30, R322 to R331: cards are accepted, dependence counters count, and the hub's records. That spilled cards return in one order and leave 32 entries free is the model's choice (log 121). -/
def Obligations.CardsAndRecords : Prop := CardsAccepted ∧ HubRecords

/-- R20, R21, R323: tasks are bound and records dealt. That the records of a retired core are dealt to others is the model's choice (log 117). -/
def Obligations.BindingAndDealing : Prop := Binding ∧ Dealing

/-- R200, R232, R258, R267: a task starts and retires. That the records of a retired core are left for others is the model's choice (log 117). -/
def Obligations.TasksStartAndLeave : Prop := TasksStart ∧ TasksLeave

/-- R326, R327, R332, R333, R339: barriers, gangs and cards complete, and the deadlock detector. That the 'while' of an edge is a progress number equal at two samples is the model's reading (log 77). -/
def Obligations.CompletionsAndDeadlock : Prop := Completions ∧ DeadlockSamples

/-- R404, R405, R409, R415: rings, host memory and attestation. The hash and the signature are functions without a body (log 14). Refused heads and bases (log 88), the entries of refused host writes (log 89), functions without IDE (log 90) and the access size of ring memory (log 91) are the model's reading. -/
def Obligations.HostFunctions : Prop := RingRegisters ∧ HostMemory ∧ Attestation

/-- R370 to R376: messages of the chorus. The LINKID of an outgoing JOIN (log 84), numbers already seen and unknown senders (log 83, log 111) and how an ADMIT's number is told from a gap (log 120) are the model's reading. -/
def Obligations.ChorusMessagesAndSends : Prop := ChorusMessages ∧ ChorusSends

/-- R204, R346, R386, R416: soft errors, and what a consumer does with an entry without parity. -/
def Obligations.LostParityAndSoftErrors : Prop := LostParity ∧ SoftErrors

/-- R200, R332, R335: END, and the barrier instructions. -/
def Obligations.BarriersAndEnd : Prop := EndOfTask ∧ Barriers

/-- What the forms need in order to complete: RETT, the CSR instructions, and the events of engines, ports, traps and lifetimes. -/
def Obligations.FormsOfCoresComplete : Prop := CsrAndReturnFormsComplete ∧ CoreEventsComplete ∧ PowerEventsComplete

/-- What the events of the hub, of Salamander, of the host and of start-up need in order to complete. -/
def Obligations.FormsOfTheHubComplete : Prop := HubEventsComplete ∧ HostEventsComplete

/-- What the events of the chorus need in order to complete. -/
def Obligations.FormsOfTheChorusComplete : Prop := ChorusEventsComplete

/-- R93, R105, R109, R110, log 1, log 2 and log 10: what a step executes. -/
def Obligations.StepRuns : Prop := StepRunsTheInstruction ∧ StepRunsTheEvents
end

