-- ==== Sys2Proof/Laws/Memory.lean ====
section
/-! SUPPORT. Reading after writing, and that every memory operation keeps the canonical form. -/

namespace Sys2Proof.Machine

/-! ### One byte -/

/-- An address below every entry reads the background. -/
theorem cellGet_lt {bg : Nat → Byte} : ∀ {l : List Host.Cell} {k a : Nat}, cellsWf bg (some k) l = true → a ≤ k → cellGet bg l a = bg a
  | [], _, _, _, _ => rfl
  | (j, v) :: t, k, a, h, ha => by
    simp only [cellsWf, Bool.and_eq_true, decide_eq_true_eq] at h
    have : j ≠ a := by omega
    simp only [cellGet, this, if_false]
    exact cellGet_lt h.2 (by omega)

/-- A byte that was put is read back. -/
theorem cellGet_put_same {bg : Nat → Byte} : ∀ {l : List Host.Cell} {lo : Option Nat} (a : Nat) (b : Byte), cellsWf bg lo l = true →
    cellGet bg (cellPut bg l a b) a = b
  | [], _, a, b, _ => by
    unfold cellPut; split
    · rename_i h; simp [cellGet, h]
    · simp [cellGet]
  | (k, v) :: t, lo, a, b, h => by
    simp only [cellsWf, Bool.and_eq_true] at h
    unfold cellPut
    by_cases h1 : k < a
    · have : k ≠ a := by omega
      simp [h1, cellGet, this, cellGet_put_same a b h.2]
    · by_cases h2 : k = a
      · subst h2
        by_cases h3 : b = bg k
        · simp [h3, cellGet_lt h.2]
        · simp [h3, cellGet]
      · by_cases h3 : b = bg a
        · simp [h1, h2, h3, cellGet, cellGet_lt h.2 (show a ≤ k by omega)]
        · simp [h1, h2, h3, cellGet]

/-- Other bytes keep their values. -/
theorem cellGet_put_ne {bg : Nat → Byte} : ∀ {l : List Host.Cell} {lo : Option Nat} {a x : Nat} (b : Byte), cellsWf bg lo l = true → x ≠ a →
    cellGet bg (cellPut bg l a b) x = cellGet bg l x
  | [], _, a, x, b, _, hx => by
    unfold cellPut; split
    · rfl
    · simp [cellGet, Ne.symm hx]
  | (k, v) :: t, lo, a, x, b, h, hx => by
    simp only [cellsWf, Bool.and_eq_true] at h
    unfold cellPut
    by_cases h1 : k < a
    · simp only [h1, if_true, cellGet, cellGet_put_ne b h.2 hx]
    · by_cases h2 : k = a
      · subst h2
        by_cases h3 : b = bg k
        · simp [h3, cellGet, Ne.symm hx]
        · simp [h3, cellGet, Ne.symm hx]
      · by_cases h3 : b = bg a
        · simp [h1, h2, h3]
        · simp [h1, h2, h3, cellGet, Ne.symm hx]

/-- Putting a byte keeps the canonical form. -/
theorem cellsWf_put {bg : Nat → Byte} : ∀ {l : List Host.Cell} {lo : Option Nat} (a : Nat) (b : Byte), (∀ j, lo = some j → j < a) →
    cellsWf bg lo l = true → cellsWf bg lo (cellPut bg l a b) = true
  | [], lo, a, b, hl, _ => by
    unfold cellPut; split
    · rfl
    · cases lo <;> simp_all [cellsWf]
  | (k, v) :: t, lo, a, b, hl, h => by
    simp only [cellsWf, Bool.and_eq_true] at h
    unfold cellPut
    by_cases h1 : k < a
    · simp only [h1, if_true, cellsWf, Bool.and_eq_true]
      exact ⟨h.1, cellsWf_put a b (by simp_all) h.2⟩
    · by_cases h2 : k = a
      · subst h2
        by_cases h3 : b = bg k
        · simp only [Nat.lt_irrefl, h3, if_true, if_false]
          clear h1
          cases t with
          | nil => rfl
          | cons c t =>
            obtain ⟨j, w⟩ := c
            simp only [cellsWf, Bool.and_eq_true, decide_eq_true_eq] at h ⊢
            refine ⟨⟨?_, h.2.1.2⟩, h.2.2⟩
            cases lo with
            | none => rfl
            | some m => have := hl m rfl; simp; omega
        · simp only [Nat.lt_irrefl, h3, if_true, if_false, cellsWf, Bool.and_eq_true]
          exact ⟨⟨h.1.1, by simpa using h3⟩, h.2⟩
      · by_cases h3 : b = bg a
        · simp only [h1, h2, h3, if_true, if_false, cellsWf, Bool.and_eq_true]; exact h
        · simp only [h1, h2, h3, if_false, cellsWf, Bool.and_eq_true, decide_eq_true_eq]
          refine ⟨⟨?_, by simpa using h3⟩, ⟨by omega, h.1.2⟩, h.2⟩
          cases lo with
          | none => rfl
          | some m => simpa using hl m rfl

/-! ### Several bytes -/

/-- A write keeps the canonical form. -/
theorem cellsWf_write {bg : Nat → Byte} : ∀ (bs : List (Option Byte)) {l : List Host.Cell} (a : Nat), cellsWf bg none l = true →
    cellsWf bg none (cellsWrite bg l a bs) = true
  | [], _, _, h => h
  | none :: t, _, a, h => cellsWf_write t (a + 1) h
  | some b :: t, _, a, h => cellsWf_write t (a + 1) (cellsWf_put a b (by simp) h)

/-- What a byte reads after a write: the byte written there, or what stood there. -/
theorem cellGet_write {bg : Nat → Byte} : ∀ (bs : List (Option Byte)) {l : List Host.Cell} (a x : Nat), cellsWf bg none l = true →
    cellGet bg (cellsWrite bg l a bs) x = (if a ≤ x then (bs[x - a]?.join).getD (cellGet bg l x) else cellGet bg l x)
  | [], _, a, x, _ => by simp [cellsWrite]
  | none :: t, l, a, x, h => by
    rw [cellsWrite, cellGet_write t (a + 1) x h]
    by_cases h1 : a + 1 ≤ x
    · have e : x - a = (x - (a + 1)) + 1 := by omega
      simp [h1, show a ≤ x by omega, e]
    · by_cases h2 : x = a
      · subst h2; simp [show ¬ x + 1 ≤ x by omega]
      · simp [h1, show ¬ a ≤ x by omega]
  | some b :: t, l, a, x, h => by
    rw [cellsWrite, cellGet_write t (a + 1) x (cellsWf_put a b (by simp) h)]
    by_cases h2 : x = a
    · subst h2; simp [cellGet_put_same x b h, show ¬ x + 1 ≤ x by omega]
    · rw [cellGet_put_ne b h h2]
      by_cases h1 : a + 1 ≤ x
      · have e : x - a = (x - (a + 1)) + 1 := by omega
        simp [h1, show a ≤ x by omega, e]
      · simp [h1, show ¬ a ≤ x by omega]

/-- Keeping only some entries keeps the canonical form. -/
theorem cellsWf_filter {bg : Nat → Byte} (p : Host.Cell → Bool) : ∀ {l : List Host.Cell} {lo : Option Nat}, cellsWf bg lo l = true →
    cellsWf bg lo (l.filter p) = true
  | [], _, _ => rfl
  | (k, v) :: t, lo, h => by
    have h' := h
    simp only [cellsWf, Bool.and_eq_true] at h
    by_cases hp : p (k, v) = true
    · simp only [List.filter, hp, cellsWf, Bool.and_eq_true]
      exact ⟨h.1, cellsWf_filter p h.2⟩
    · simp only [List.filter, hp]
      refine cellsWf_filter p ?_
      cases t with
      | nil => rfl
      | cons c t =>
        obtain ⟨j, w⟩ := c
        simp only [cellsWf, Bool.and_eq_true, decide_eq_true_eq] at h ⊢
        refine ⟨⟨?_, h.2.1.2⟩, h.2.2⟩
        cases lo with
        | none => rfl
        | some m => simp only [decide_eq_true_eq] at h ⊢; omega

/-! ### Memories -/

theorem Mem.wf_empty : ({} : Mem).wf = true := rfl

theorem Mem.wf_writeMask {m : Mem} (h : m.wf = true) (a : Nat) (bs : List (Option Byte)) : (m.writeMask a bs).wf = true := cellsWf_write bs a h

theorem Mem.wf_write {m : Mem} (h : m.wf = true) (a : Nat) (bs : List Byte) : (m.write a bs).wf = true := Mem.wf_writeMask h a _

theorem Mem.wf_erase {m : Mem} (h : m.wf = true) (a n : Nat) : (m.erase a n).wf = true := cellsWf_filter _ h

theorem Mem.wf_poison {m : Mem} (h : m.wf = true) (a : Nat) : (m.poison a).wf = true := h

theorem Mem.wf_weaken {m : Mem} (h : m.wf = true) (a : Nat) : (m.weaken a).wf = true := h

/-- A byte that a write covers reads as written. -/
theorem Mem.get_write_inside {m : Mem} (h : m.wf = true) (a : Nat) (bs : List Byte) (i : Nat) (hi : i < bs.length) :
    (m.write a bs).get (a + i) = bs[i] := by
  show cellGet m.back (cellsWrite m.back m.cells a (bs.map some)) (a + i) = _
  rw [cellGet_write _ a _ h]
  simp [hi]

/-- A byte that a write does not cover reads as before. -/
theorem Mem.get_write_outside {m : Mem} (h : m.wf = true) (a : Nat) (bs : List Byte) (x : Nat) (hx : x < a ∨ a + bs.length ≤ x) :
    (m.write a bs).get x = m.get x := by
  show cellGet m.back (cellsWrite m.back m.cells a (bs.map some)) x = cellGet m.back m.cells x
  rw [cellGet_write _ a _ h]
  split
  · rw [List.getElem?_eq_none (by simp; omega)]; rfl
  · rfl

end Sys2Proof.Machine
end

