-- ==== Sys2Proof/Laws/Image.lean ====
section
/-! SUPPORT. What writing a context image does (R201): it keeps the canonical form of memory and changes memory alone. -/

namespace Sys2Proof.Machine

theorem Mem.wf_foldl_write {α : Type} (f : α → Nat) (g : α → List Byte) : ∀ (l : List α) {m : Mem}, m.wf = true →
    (l.foldl (fun m x => m.write (f x) (g x)) m).wf = true
  | [], _, h => h
  | _ :: t, _, h => Mem.wf_foldl_write f g t (Mem.wf_write h _ _)

/-- The image of a context has the canonical form. -/
theorem Core.image_wf (c : Core) (s : State) (l : CoreId) (n : Nat) : (c.image s l n).wf = true :=
  Mem.wf_foldl_write _ _ _ Mem.wf_empty

theorem Core.fullImage_wf (c : Core) (s : State) (l : CoreId) (n : Nat) : (c.fullImage s l n).wf = true :=
  Mem.wf_foldl_write _ _ _ (c.image_wf s l n)

/-- Writing a piece of an image keeps the canonical form. -/
theorem Mem.wf_putImage {m : Mem} (h : m.wf = true) (p n : Nat) (img : Mem) (off : Nat) (key : Option Nat) :
    (m.putImage p n img off key).wf = true := by
  unfold Mem.putImage
  cases key with
  | none => exact Mem.wf_foldl_write _ _ _ (Mem.wf_erase h p n)
  | some k => exact Mem.wf_foldl_write _ _ _ (Mem.wf_erase h p n)

theorem Mem.wf_foldl_putImage (img : Mem) (key : Option Nat) : ∀ (l : List (Nat × Nat × Nat)) {m : Mem}, m.wf = true →
    (l.foldl (fun m x => m.putImage x.1 x.2.2 img x.2.1 key) m).wf = true
  | [], _, h => h
  | _ :: t, _, h => Mem.wf_foldl_putImage img key t (Mem.wf_putImage h _ _ _ _ _)

/-- A context image written to a save area leaves memory in canonical form. -/
theorem State.wf_putImage {s : State} (h : s.mem.wf = true) (t : Task) (img : Mem) (n : Nat) (key : Option Nat) :
    (s.putImage t img n key).mem.wf = true := Mem.wf_foldl_putImage img key _ h

/-- Nothing but memory changes. -/
theorem State.putImage_frame (s : State) (t : Task) (img : Mem) (n : Nat) (key : Option Nat) :
    s.putImage t img n key = { s with mem := (s.putImage t img n key).mem } := rfl

end Sys2Proof.Machine
end

