-- ==== Sys2Proof/Laws/State.lean ====
section
/-! SUPPORT. One lemma per field for the updates of the state and of a core: what each leaves unchanged, and what it writes. -/

namespace Sys2Proof.Machine

/-! ### Vectors by number -/

@[simp] theorem vget_vput_same {α : Type} {n : Nat} (v : Vector α n) (i : Nat) (x d : α) (h : i < n) : vget (vput v i x) i d = x := by
  simp [vget, vput, h]

@[simp] theorem vget_vput_ne {α : Type} {n : Nat} (v : Vector α n) (i j : Nat) (x d : α) (h : i ≠ j) :
    vget (vput v i x) j d = vget v j d := by
  simp [vget, vput, h]

/-! ### Updates of the state -/

@[simp] theorem State.core_setCore (s : State) (l : CoreId) (c : Core) : (s.setCore l c).core l = c := by
  simp [State.core, State.setCore]

theorem State.core_setCore_ne (s : State) (l m : CoreId) (c : Core) (h : m ≠ l) : (s.setCore l c).core m = s.core m := by
  simp only [State.core, State.setCore]
  have h' : l.val ≠ m.val := fun e => h (Fin.ext e.symm)
  exact Vector.getElem_set_ne _ _ h'

@[simp] theorem State.setCore_setCore (s : State) (l : CoreId) (c d : Core) : (s.setCore l c).setCore l d = s.setCore l d := by
  simp [State.setCore]

theorem State.core_modCore (s : State) (l : CoreId) (f : Core → Core) : (s.modCore l f).core l = f (s.core l) := by
  simp [State.modCore]

@[simp] theorem State.now_eq (s : State) : s.now = s.clock.now := rfl

@[simp] theorem State.setCore_inputs (s : State) (l : CoreId) (c : Core) : (s.setCore l c).inputs = s.inputs := rfl
@[simp] theorem State.setCore_upsets (s : State) (l : CoreId) (c : Core) : (s.setCore l c).upsets = s.upsets := rfl
@[simp] theorem State.setCore_clock (s : State) (l : CoreId) (c : Core) : (s.setCore l c).clock = s.clock := rfl
@[simp] theorem State.setCore_cur (s : State) (l : CoreId) (c : Core) : (s.setCore l c).cur = s.cur := rfl
@[simp] theorem State.setCore_mem (s : State) (l : CoreId) (c : Core) : (s.setCore l c).mem = s.mem := rfl
@[simp] theorem State.setCore_hub (s : State) (l : CoreId) (c : Core) : (s.setCore l c).hub = s.hub := rfl
@[simp] theorem State.setCore_dies (s : State) (l : CoreId) (c : Core) : (s.setCore l c).dies = s.dies := rfl
@[simp] theorem State.setCore_life (s : State) (l : CoreId) (c : Core) : (s.setCore l c).life = s.life := rfl
@[simp] theorem State.setCore_chorus (s : State) (l : CoreId) (c : Core) : (s.setCore l c).chorus = s.chorus := rfl
@[simp] theorem State.setCore_ports (s : State) (l : CoreId) (c : Core) : (s.setCore l c).ports = s.ports := rfl
@[simp] theorem State.setCore_funcs (s : State) (l : CoreId) (c : Core) : (s.setCore l c).funcs = s.funcs := rfl
@[simp] theorem State.setCore_boot (s : State) (l : CoreId) (c : Core) : (s.setCore l c).boot = s.boot := rfl

@[simp] theorem State.modCore_inputs (s : State) (l : CoreId) (f : Core → Core) : (s.modCore l f).inputs = s.inputs := rfl
@[simp] theorem State.modCore_upsets (s : State) (l : CoreId) (f : Core → Core) : (s.modCore l f).upsets = s.upsets := rfl
@[simp] theorem State.modCore_clock (s : State) (l : CoreId) (f : Core → Core) : (s.modCore l f).clock = s.clock := rfl
@[simp] theorem State.modCore_cur (s : State) (l : CoreId) (f : Core → Core) : (s.modCore l f).cur = s.cur := rfl
@[simp] theorem State.modCore_mem (s : State) (l : CoreId) (f : Core → Core) : (s.modCore l f).mem = s.mem := rfl
@[simp] theorem State.modCore_hub (s : State) (l : CoreId) (f : Core → Core) : (s.modCore l f).hub = s.hub := rfl
@[simp] theorem State.modCore_dies (s : State) (l : CoreId) (f : Core → Core) : (s.modCore l f).dies = s.dies := rfl
@[simp] theorem State.modCore_life (s : State) (l : CoreId) (f : Core → Core) : (s.modCore l f).life = s.life := rfl
@[simp] theorem State.modCore_chorus (s : State) (l : CoreId) (f : Core → Core) : (s.modCore l f).chorus = s.chorus := rfl
@[simp] theorem State.modCore_ports (s : State) (l : CoreId) (f : Core → Core) : (s.modCore l f).ports = s.ports := rfl
@[simp] theorem State.modCore_funcs (s : State) (l : CoreId) (f : Core → Core) : (s.modCore l f).funcs = s.funcs := rfl
@[simp] theorem State.modCore_boot (s : State) (l : CoreId) (f : Core → Core) : (s.modCore l f).boot = s.boot := rfl

@[simp] theorem State.setDie_inputs (s : State) (d : DieId) (x : Die) : (s.setDie d x).inputs = s.inputs := rfl
@[simp] theorem State.setDie_upsets (s : State) (d : DieId) (x : Die) : (s.setDie d x).upsets = s.upsets := rfl
@[simp] theorem State.setDie_clock (s : State) (d : DieId) (x : Die) : (s.setDie d x).clock = s.clock := rfl
@[simp] theorem State.setDie_cur (s : State) (d : DieId) (x : Die) : (s.setDie d x).cur = s.cur := rfl
@[simp] theorem State.setDie_mem (s : State) (d : DieId) (x : Die) : (s.setDie d x).mem = s.mem := rfl
@[simp] theorem State.setDie_cores (s : State) (d : DieId) (x : Die) : (s.setDie d x).cores = s.cores := rfl
@[simp] theorem State.setDie_hub (s : State) (d : DieId) (x : Die) : (s.setDie d x).hub = s.hub := rfl
@[simp] theorem State.setDie_life (s : State) (d : DieId) (x : Die) : (s.setDie d x).life = s.life := rfl
@[simp] theorem State.setDie_chorus (s : State) (d : DieId) (x : Die) : (s.setDie d x).chorus = s.chorus := rfl
@[simp] theorem State.setDie_ports (s : State) (d : DieId) (x : Die) : (s.setDie d x).ports = s.ports := rfl
@[simp] theorem State.setDie_funcs (s : State) (d : DieId) (x : Die) : (s.setDie d x).funcs = s.funcs := rfl
@[simp] theorem State.setDie_boot (s : State) (d : DieId) (x : Die) : (s.setDie d x).boot = s.boot := rfl

@[simp] theorem State.setPort_inputs (s : State) (p : PortId) (x : Port) : (s.setPort p x).inputs = s.inputs := rfl
@[simp] theorem State.setPort_upsets (s : State) (p : PortId) (x : Port) : (s.setPort p x).upsets = s.upsets := rfl
@[simp] theorem State.setPort_clock (s : State) (p : PortId) (x : Port) : (s.setPort p x).clock = s.clock := rfl
@[simp] theorem State.setPort_cur (s : State) (p : PortId) (x : Port) : (s.setPort p x).cur = s.cur := rfl
@[simp] theorem State.setPort_mem (s : State) (p : PortId) (x : Port) : (s.setPort p x).mem = s.mem := rfl
@[simp] theorem State.setPort_cores (s : State) (p : PortId) (x : Port) : (s.setPort p x).cores = s.cores := rfl
@[simp] theorem State.setPort_hub (s : State) (p : PortId) (x : Port) : (s.setPort p x).hub = s.hub := rfl
@[simp] theorem State.setPort_dies (s : State) (p : PortId) (x : Port) : (s.setPort p x).dies = s.dies := rfl
@[simp] theorem State.setPort_life (s : State) (p : PortId) (x : Port) : (s.setPort p x).life = s.life := rfl
@[simp] theorem State.setPort_chorus (s : State) (p : PortId) (x : Port) : (s.setPort p x).chorus = s.chorus := rfl
@[simp] theorem State.setPort_funcs (s : State) (p : PortId) (x : Port) : (s.setPort p x).funcs = s.funcs := rfl
@[simp] theorem State.setPort_boot (s : State) (p : PortId) (x : Port) : (s.setPort p x).boot = s.boot := rfl

@[simp] theorem State.setFunc_inputs (s : State) (f : FnId) (x : Func) : (s.setFunc f x).inputs = s.inputs := rfl
@[simp] theorem State.setFunc_upsets (s : State) (f : FnId) (x : Func) : (s.setFunc f x).upsets = s.upsets := rfl
@[simp] theorem State.setFunc_clock (s : State) (f : FnId) (x : Func) : (s.setFunc f x).clock = s.clock := rfl
@[simp] theorem State.setFunc_cur (s : State) (f : FnId) (x : Func) : (s.setFunc f x).cur = s.cur := rfl
@[simp] theorem State.setFunc_mem (s : State) (f : FnId) (x : Func) : (s.setFunc f x).mem = s.mem := rfl
@[simp] theorem State.setFunc_cores (s : State) (f : FnId) (x : Func) : (s.setFunc f x).cores = s.cores := rfl
@[simp] theorem State.setFunc_hub (s : State) (f : FnId) (x : Func) : (s.setFunc f x).hub = s.hub := rfl
@[simp] theorem State.setFunc_dies (s : State) (f : FnId) (x : Func) : (s.setFunc f x).dies = s.dies := rfl
@[simp] theorem State.setFunc_life (s : State) (f : FnId) (x : Func) : (s.setFunc f x).life = s.life := rfl
@[simp] theorem State.setFunc_chorus (s : State) (f : FnId) (x : Func) : (s.setFunc f x).chorus = s.chorus := rfl
@[simp] theorem State.setFunc_ports (s : State) (f : FnId) (x : Func) : (s.setFunc f x).ports = s.ports := rfl
@[simp] theorem State.setFunc_boot (s : State) (f : FnId) (x : Func) : (s.setFunc f x).boot = s.boot := rfl

@[simp] theorem State.setHub_inputs (s : State) (h : Hub) : (s.setHub h).inputs = s.inputs := rfl
@[simp] theorem State.setHub_upsets (s : State) (h : Hub) : (s.setHub h).upsets = s.upsets := rfl
@[simp] theorem State.setHub_clock (s : State) (h : Hub) : (s.setHub h).clock = s.clock := rfl
@[simp] theorem State.setHub_cur (s : State) (h : Hub) : (s.setHub h).cur = s.cur := rfl
@[simp] theorem State.setHub_mem (s : State) (h : Hub) : (s.setHub h).mem = s.mem := rfl
@[simp] theorem State.setHub_cores (s : State) (h : Hub) : (s.setHub h).cores = s.cores := rfl
@[simp] theorem State.setHub_dies (s : State) (h : Hub) : (s.setHub h).dies = s.dies := rfl
@[simp] theorem State.setHub_life (s : State) (h : Hub) : (s.setHub h).life = s.life := rfl
@[simp] theorem State.setHub_chorus (s : State) (h : Hub) : (s.setHub h).chorus = s.chorus := rfl
@[simp] theorem State.setHub_ports (s : State) (h : Hub) : (s.setHub h).ports = s.ports := rfl
@[simp] theorem State.setHub_funcs (s : State) (h : Hub) : (s.setHub h).funcs = s.funcs := rfl
@[simp] theorem State.setHub_boot (s : State) (h : Hub) : (s.setHub h).boot = s.boot := rfl

@[simp] theorem State.setHub_hub (s : State) (h : Hub) : (s.setHub h).hub = h := rfl

@[simp] theorem State.setClock_inputs (s : State) (f : Clock → Clock) : (s.setClock f).inputs = s.inputs := rfl
@[simp] theorem State.setClock_upsets (s : State) (f : Clock → Clock) : (s.setClock f).upsets = s.upsets := rfl
@[simp] theorem State.setClock_cur (s : State) (f : Clock → Clock) : (s.setClock f).cur = s.cur := rfl
@[simp] theorem State.setClock_mem (s : State) (f : Clock → Clock) : (s.setClock f).mem = s.mem := rfl
@[simp] theorem State.setClock_cores (s : State) (f : Clock → Clock) : (s.setClock f).cores = s.cores := rfl
@[simp] theorem State.setClock_hub (s : State) (f : Clock → Clock) : (s.setClock f).hub = s.hub := rfl
@[simp] theorem State.setClock_dies (s : State) (f : Clock → Clock) : (s.setClock f).dies = s.dies := rfl
@[simp] theorem State.setClock_life (s : State) (f : Clock → Clock) : (s.setClock f).life = s.life := rfl
@[simp] theorem State.setClock_chorus (s : State) (f : Clock → Clock) : (s.setClock f).chorus = s.chorus := rfl
@[simp] theorem State.setClock_ports (s : State) (f : Clock → Clock) : (s.setClock f).ports = s.ports := rfl
@[simp] theorem State.setClock_funcs (s : State) (f : Clock → Clock) : (s.setClock f).funcs = s.funcs := rfl
@[simp] theorem State.setClock_boot (s : State) (f : Clock → Clock) : (s.setClock f).boot = s.boot := rfl

@[simp] theorem State.setClock_clock (s : State) (f : Clock → Clock) : (s.setClock f).clock = f s.clock := rfl

/-! ### Updates of a core -/

theorem Core.setS_eq (c : Core) (r : Nat) (v : Word) : c.setS r v = { c with s := (c.setS r v).s } := by
  unfold Core.setS; split <;> rfl

@[simp] theorem Core.setS_run (c : Core) (r : Nat) (v : Word) : (c.setS r v).run = c.run := (congrArg Core.run (c.setS_eq r v)).trans rfl
@[simp] theorem Core.setS_task (c : Core) (r : Nat) (v : Word) : (c.setS r v).task = c.task := (congrArg Core.task (c.setS_eq r v)).trans rfl
@[simp] theorem Core.setS_q (c : Core) (r : Nat) (v : Word) : (c.setS r v).q = c.q := (congrArg Core.q (c.setS_eq r v)).trans rfl
@[simp] theorem Core.setS_fly (c : Core) (r : Nat) (v : Word) : (c.setS r v).fly = c.fly := (congrArg Core.fly (c.setS_eq r v)).trans rfl
@[simp] theorem Core.setS_marks (c : Core) (r : Nat) (v : Word) : (c.setS r v).marks = c.marks := (congrArg Core.marks (c.setS_eq r v)).trans rfl
@[simp] theorem Core.setS_fetch (c : Core) (r : Nat) (v : Word) : (c.setS r v).fetch = c.fetch := (congrArg Core.fetch (c.setS_eq r v)).trans rfl
@[simp] theorem Core.setS_loop (c : Core) (r : Nat) (v : Word) : (c.setS r v).loop = c.loop := (congrArg Core.loop (c.setS_eq r v)).trans rfl
@[simp] theorem Core.setS_pfx (c : Core) (r : Nat) (v : Word) : (c.setS r v).pfx = c.pfx := (congrArg Core.pfx (c.setS_eq r v)).trans rfl
@[simp] theorem Core.setS_stall (c : Core) (r : Nat) (v : Word) : (c.setS r v).stall = c.stall := (congrArg Core.stall (c.setS_eq r v)).trans rfl
@[simp] theorem Core.setS_parked (c : Core) (r : Nat) (v : Word) : (c.setS r v).parked = c.parked := (congrArg Core.parked (c.setS_eq r v)).trans rfl
@[simp] theorem Core.setS_samples (c : Core) (r : Nat) (v : Word) : (c.setS r v).samples = c.samples := (congrArg Core.samples (c.setS_eq r v)).trans rfl
@[simp] theorem Core.setS_wait (c : Core) (r : Nat) (v : Word) : (c.setS r v).wait = c.wait := (congrArg Core.wait (c.setS_eq r v)).trans rfl
@[simp] theorem Core.setS_ready (c : Core) (r : Nat) (v : Word) : (c.setS r v).ready = c.ready := (congrArg Core.ready (c.setS_eq r v)).trans rfl
@[simp] theorem Core.setS_late (c : Core) (r : Nat) (v : Word) : (c.setS r v).late = c.late := (congrArg Core.late (c.setS_eq r v)).trans rfl
@[simp] theorem Core.setS_nextId (c : Core) (r : Nat) (v : Word) : (c.setS r v).nextId = c.nextId := (congrArg Core.nextId (c.setS_eq r v)).trans rfl
@[simp] theorem Core.setS_csr (c : Core) (r : Nat) (v : Word) : (c.setS r v).csr = c.csr := (congrArg Core.csr (c.setS_eq r v)).trans rfl
@[simp] theorem Core.setS_shadow (c : Core) (r : Nat) (v : Word) : (c.setS r v).shadow = c.shadow := (congrArg Core.shadow (c.setS_eq r v)).trans rfl
@[simp] theorem Core.setS_land (c : Core) (r : Nat) (v : Word) : (c.setS r v).land = c.land := (congrArg Core.land (c.setS_eq r v)).trans rfl
@[simp] theorem Core.setS_expiry (c : Core) (r : Nat) (v : Word) : (c.setS r v).expiry = c.expiry := (congrArg Core.expiry (c.setS_eq r v)).trans rfl
@[simp] theorem Core.setS_pend18 (c : Core) (r : Nat) (v : Word) : (c.setS r v).pend18 = c.pend18 := (congrArg Core.pend18 (c.setS_eq r v)).trans rfl
@[simp] theorem Core.setS_pend19 (c : Core) (r : Nat) (v : Word) : (c.setS r v).pend19 = c.pend19 := (congrArg Core.pend19 (c.setS_eq r v)).trans rfl
@[simp] theorem Core.setS_stepOf (c : Core) (r : Nat) (v : Word) : (c.setS r v).stepOf = c.stepOf := (congrArg Core.stepOf (c.setS_eq r v)).trans rfl
@[simp] theorem Core.setS_preq (c : Core) (r : Nat) (v : Word) : (c.setS r v).preq = c.preq := (congrArg Core.preq (c.setS_eq r v)).trans rfl
@[simp] theorem Core.setS_stood (c : Core) (r : Nat) (v : Word) : (c.setS r v).stood = c.stood := (congrArg Core.stood (c.setS_eq r v)).trans rfl
@[simp] theorem Core.setS_exposed (c : Core) (r : Nat) (v : Word) : (c.setS r v).exposed = c.exposed := (congrArg Core.exposed (c.setS_eq r v)).trans rfl
@[simp] theorem Core.setS_reads (c : Core) (r : Nat) (v : Word) : (c.setS r v).reads = c.reads := (congrArg Core.reads (c.setS_eq r v)).trans rfl
@[simp] theorem Core.setS_vbusy (c : Core) (r : Nat) (v : Word) : (c.setS r v).vbusy = c.vbusy := (congrArg Core.vbusy (c.setS_eq r v)).trans rfl
@[simp] theorem Core.setS_v (c : Core) (r : Nat) (v : Word) : (c.setS r v).v = c.v := (congrArg Core.v (c.setS_eq r v)).trans rfl
@[simp] theorem Core.setS_k (c : Core) (r : Nat) (v : Word) : (c.setS r v).k = c.k := (congrArg Core.k (c.setS_eq r v)).trans rfl
@[simp] theorem Core.setS_ember (c : Core) (r : Nat) (v : Word) : (c.setS r v).ember = c.ember := (congrArg Core.ember (c.setS_eq r v)).trans rfl
@[simp] theorem Core.setS_sram (c : Core) (r : Nat) (v : Word) : (c.setS r v).sram = c.sram := (congrArg Core.sram (c.setS_eq r v)).trans rfl
@[simp] theorem Core.setS_wbuf (c : Core) (r : Nat) (v : Word) : (c.setS r v).wbuf = c.wbuf := (congrArg Core.wbuf (c.setS_eq r v)).trans rfl
@[simp] theorem Core.setS_spilt (c : Core) (r : Nat) (v : Word) : (c.setS r v).spilt = c.spilt := (congrArg Core.spilt (c.setS_eq r v)).trans rfl
@[simp] theorem Core.setS_gst (c : Core) (r : Nat) (v : Word) : (c.setS r v).gst = c.gst := (congrArg Core.gst (c.setS_eq r v)).trans rfl
@[simp] theorem Core.setS_closes (c : Core) (r : Nat) (v : Word) : (c.setS r v).closes = c.closes := (congrArg Core.closes (c.setS_eq r v)).trans rfl
@[simp] theorem Core.setS_eng (c : Core) (r : Nat) (v : Word) : (c.setS r v).eng = c.eng := (congrArg Core.eng (c.setS_eq r v)).trans rfl
@[simp] theorem Core.setS_fills (c : Core) (r : Nat) (v : Word) : (c.setS r v).fills = c.fills := (congrArg Core.fills (c.setS_eq r v)).trans rfl
@[simp] theorem Core.setS_feeds (c : Core) (r : Nat) (v : Word) : (c.setS r v).feeds = c.feeds := (congrArg Core.feeds (c.setS_eq r v)).trans rfl
@[simp] theorem Core.setS_tiles (c : Core) (r : Nat) (v : Word) : (c.setS r v).tiles = c.tiles := (congrArg Core.tiles (c.setS_eq r v)).trans rfl
@[simp] theorem Core.setS_td (c : Core) (r : Nat) (v : Word) : (c.setS r v).td = c.td := (congrArg Core.td (c.setS_eq r v)).trans rfl
@[simp] theorem Core.setS_b (c : Core) (r : Nat) (v : Word) : (c.setS r v).b = c.b := (congrArg Core.b (c.setS_eq r v)).trans rfl
@[simp] theorem Core.setS_tags (c : Core) (r : Nat) (v : Word) : (c.setS r v).tags = c.tags := (congrArg Core.tags (c.setS_eq r v)).trans rfl
@[simp] theorem Core.setS_decs (c : Core) (r : Nat) (v : Word) : (c.setS r v).decs = c.decs := (congrArg Core.decs (c.setS_eq r v)).trans rfl
@[simp] theorem Core.setS_pwrReq (c : Core) (r : Nat) (v : Word) : (c.setS r v).pwrReq = c.pwrReq := (congrArg Core.pwrReq (c.setS_eq r v)).trans rfl
@[simp] theorem Core.setS_pwrRet (c : Core) (r : Nat) (v : Word) : (c.setS r v).pwrRet = c.pwrRet := (congrArg Core.pwrRet (c.setS_eq r v)).trans rfl
@[simp] theorem Core.setS_last (c : Core) (r : Nat) (v : Word) : (c.setS r v).last = c.last := (congrArg Core.last (c.setS_eq r v)).trans rfl
@[simp] theorem Core.setS_records (c : Core) (r : Nat) (v : Word) : (c.setS r v).records = c.records := (congrArg Core.records (c.setS_eq r v)).trans rfl
@[simp] theorem Core.setS_strike (c : Core) (r : Nat) (v : Word) : (c.setS r v).strike = c.strike := (congrArg Core.strike (c.setS_eq r v)).trans rfl
@[simp] theorem Core.setS_residue (c : Core) (r : Nat) (v : Word) : (c.setS r v).residue = c.residue := (congrArg Core.residue (c.setS_eq r v)).trans rfl
@[simp] theorem Core.setS_born (c : Core) (r : Nat) (v : Word) : (c.setS r v).born = c.born := (congrArg Core.born (c.setS_eq r v)).trans rfl

theorem Core.count_eq (c : Core) (i n : Nat) : c.count i n = { c with csr := (c.count i n).csr } := by
  unfold Core.count; split <;> rfl

@[simp] theorem Core.count_run (c : Core) (i n : Nat) : (c.count i n).run = c.run := (congrArg Core.run (c.count_eq i n)).trans rfl
@[simp] theorem Core.count_task (c : Core) (i n : Nat) : (c.count i n).task = c.task := (congrArg Core.task (c.count_eq i n)).trans rfl
@[simp] theorem Core.count_s (c : Core) (i n : Nat) : (c.count i n).s = c.s := (congrArg Core.s (c.count_eq i n)).trans rfl
@[simp] theorem Core.count_q (c : Core) (i n : Nat) : (c.count i n).q = c.q := (congrArg Core.q (c.count_eq i n)).trans rfl
@[simp] theorem Core.count_fly (c : Core) (i n : Nat) : (c.count i n).fly = c.fly := (congrArg Core.fly (c.count_eq i n)).trans rfl
@[simp] theorem Core.count_marks (c : Core) (i n : Nat) : (c.count i n).marks = c.marks := (congrArg Core.marks (c.count_eq i n)).trans rfl
@[simp] theorem Core.count_fetch (c : Core) (i n : Nat) : (c.count i n).fetch = c.fetch := (congrArg Core.fetch (c.count_eq i n)).trans rfl
@[simp] theorem Core.count_loop (c : Core) (i n : Nat) : (c.count i n).loop = c.loop := (congrArg Core.loop (c.count_eq i n)).trans rfl
@[simp] theorem Core.count_pfx (c : Core) (i n : Nat) : (c.count i n).pfx = c.pfx := (congrArg Core.pfx (c.count_eq i n)).trans rfl
@[simp] theorem Core.count_stall (c : Core) (i n : Nat) : (c.count i n).stall = c.stall := (congrArg Core.stall (c.count_eq i n)).trans rfl
@[simp] theorem Core.count_parked (c : Core) (i n : Nat) : (c.count i n).parked = c.parked := (congrArg Core.parked (c.count_eq i n)).trans rfl
@[simp] theorem Core.count_samples (c : Core) (i n : Nat) : (c.count i n).samples = c.samples := (congrArg Core.samples (c.count_eq i n)).trans rfl
@[simp] theorem Core.count_wait (c : Core) (i n : Nat) : (c.count i n).wait = c.wait := (congrArg Core.wait (c.count_eq i n)).trans rfl
@[simp] theorem Core.count_ready (c : Core) (i n : Nat) : (c.count i n).ready = c.ready := (congrArg Core.ready (c.count_eq i n)).trans rfl
@[simp] theorem Core.count_late (c : Core) (i n : Nat) : (c.count i n).late = c.late := (congrArg Core.late (c.count_eq i n)).trans rfl
@[simp] theorem Core.count_nextId (c : Core) (i n : Nat) : (c.count i n).nextId = c.nextId := (congrArg Core.nextId (c.count_eq i n)).trans rfl
@[simp] theorem Core.count_shadow (c : Core) (i n : Nat) : (c.count i n).shadow = c.shadow := (congrArg Core.shadow (c.count_eq i n)).trans rfl
@[simp] theorem Core.count_land (c : Core) (i n : Nat) : (c.count i n).land = c.land := (congrArg Core.land (c.count_eq i n)).trans rfl
@[simp] theorem Core.count_expiry (c : Core) (i n : Nat) : (c.count i n).expiry = c.expiry := (congrArg Core.expiry (c.count_eq i n)).trans rfl
@[simp] theorem Core.count_pend18 (c : Core) (i n : Nat) : (c.count i n).pend18 = c.pend18 := (congrArg Core.pend18 (c.count_eq i n)).trans rfl
@[simp] theorem Core.count_pend19 (c : Core) (i n : Nat) : (c.count i n).pend19 = c.pend19 := (congrArg Core.pend19 (c.count_eq i n)).trans rfl
@[simp] theorem Core.count_stepOf (c : Core) (i n : Nat) : (c.count i n).stepOf = c.stepOf := (congrArg Core.stepOf (c.count_eq i n)).trans rfl
@[simp] theorem Core.count_preq (c : Core) (i n : Nat) : (c.count i n).preq = c.preq := (congrArg Core.preq (c.count_eq i n)).trans rfl
@[simp] theorem Core.count_stood (c : Core) (i n : Nat) : (c.count i n).stood = c.stood := (congrArg Core.stood (c.count_eq i n)).trans rfl
@[simp] theorem Core.count_exposed (c : Core) (i n : Nat) : (c.count i n).exposed = c.exposed := (congrArg Core.exposed (c.count_eq i n)).trans rfl
@[simp] theorem Core.count_reads (c : Core) (i n : Nat) : (c.count i n).reads = c.reads := (congrArg Core.reads (c.count_eq i n)).trans rfl
@[simp] theorem Core.count_vbusy (c : Core) (i n : Nat) : (c.count i n).vbusy = c.vbusy := (congrArg Core.vbusy (c.count_eq i n)).trans rfl
@[simp] theorem Core.count_v (c : Core) (i n : Nat) : (c.count i n).v = c.v := (congrArg Core.v (c.count_eq i n)).trans rfl
@[simp] theorem Core.count_k (c : Core) (i n : Nat) : (c.count i n).k = c.k := (congrArg Core.k (c.count_eq i n)).trans rfl
@[simp] theorem Core.count_ember (c : Core) (i n : Nat) : (c.count i n).ember = c.ember := (congrArg Core.ember (c.count_eq i n)).trans rfl
@[simp] theorem Core.count_sram (c : Core) (i n : Nat) : (c.count i n).sram = c.sram := (congrArg Core.sram (c.count_eq i n)).trans rfl
@[simp] theorem Core.count_wbuf (c : Core) (i n : Nat) : (c.count i n).wbuf = c.wbuf := (congrArg Core.wbuf (c.count_eq i n)).trans rfl
@[simp] theorem Core.count_spilt (c : Core) (i n : Nat) : (c.count i n).spilt = c.spilt := (congrArg Core.spilt (c.count_eq i n)).trans rfl
@[simp] theorem Core.count_gst (c : Core) (i n : Nat) : (c.count i n).gst = c.gst := (congrArg Core.gst (c.count_eq i n)).trans rfl
@[simp] theorem Core.count_closes (c : Core) (i n : Nat) : (c.count i n).closes = c.closes := (congrArg Core.closes (c.count_eq i n)).trans rfl
@[simp] theorem Core.count_eng (c : Core) (i n : Nat) : (c.count i n).eng = c.eng := (congrArg Core.eng (c.count_eq i n)).trans rfl
@[simp] theorem Core.count_fills (c : Core) (i n : Nat) : (c.count i n).fills = c.fills := (congrArg Core.fills (c.count_eq i n)).trans rfl
@[simp] theorem Core.count_feeds (c : Core) (i n : Nat) : (c.count i n).feeds = c.feeds := (congrArg Core.feeds (c.count_eq i n)).trans rfl
@[simp] theorem Core.count_tiles (c : Core) (i n : Nat) : (c.count i n).tiles = c.tiles := (congrArg Core.tiles (c.count_eq i n)).trans rfl
@[simp] theorem Core.count_td (c : Core) (i n : Nat) : (c.count i n).td = c.td := (congrArg Core.td (c.count_eq i n)).trans rfl
@[simp] theorem Core.count_b (c : Core) (i n : Nat) : (c.count i n).b = c.b := (congrArg Core.b (c.count_eq i n)).trans rfl
@[simp] theorem Core.count_tags (c : Core) (i n : Nat) : (c.count i n).tags = c.tags := (congrArg Core.tags (c.count_eq i n)).trans rfl
@[simp] theorem Core.count_decs (c : Core) (i n : Nat) : (c.count i n).decs = c.decs := (congrArg Core.decs (c.count_eq i n)).trans rfl
@[simp] theorem Core.count_pwrReq (c : Core) (i n : Nat) : (c.count i n).pwrReq = c.pwrReq := (congrArg Core.pwrReq (c.count_eq i n)).trans rfl
@[simp] theorem Core.count_pwrRet (c : Core) (i n : Nat) : (c.count i n).pwrRet = c.pwrRet := (congrArg Core.pwrRet (c.count_eq i n)).trans rfl
@[simp] theorem Core.count_last (c : Core) (i n : Nat) : (c.count i n).last = c.last := (congrArg Core.last (c.count_eq i n)).trans rfl
@[simp] theorem Core.count_records (c : Core) (i n : Nat) : (c.count i n).records = c.records := (congrArg Core.records (c.count_eq i n)).trans rfl
@[simp] theorem Core.count_strike (c : Core) (i n : Nat) : (c.count i n).strike = c.strike := (congrArg Core.strike (c.count_eq i n)).trans rfl
@[simp] theorem Core.count_residue (c : Core) (i n : Nat) : (c.count i n).residue = c.residue := (congrArg Core.residue (c.count_eq i n)).trans rfl
@[simp] theorem Core.count_born (c : Core) (i n : Nat) : (c.count i n).born = c.born := (congrArg Core.born (c.count_eq i n)).trans rfl

@[simp] theorem Core.setE_run (c : Core) (e : EngId) (x : Eng) : (c.setE e x).run = c.run := rfl
@[simp] theorem Core.setE_task (c : Core) (e : EngId) (x : Eng) : (c.setE e x).task = c.task := rfl
@[simp] theorem Core.setE_s (c : Core) (e : EngId) (x : Eng) : (c.setE e x).s = c.s := rfl
@[simp] theorem Core.setE_q (c : Core) (e : EngId) (x : Eng) : (c.setE e x).q = c.q := rfl
@[simp] theorem Core.setE_fly (c : Core) (e : EngId) (x : Eng) : (c.setE e x).fly = c.fly := rfl
@[simp] theorem Core.setE_marks (c : Core) (e : EngId) (x : Eng) : (c.setE e x).marks = c.marks := rfl
@[simp] theorem Core.setE_fetch (c : Core) (e : EngId) (x : Eng) : (c.setE e x).fetch = c.fetch := rfl
@[simp] theorem Core.setE_loop (c : Core) (e : EngId) (x : Eng) : (c.setE e x).loop = c.loop := rfl
@[simp] theorem Core.setE_pfx (c : Core) (e : EngId) (x : Eng) : (c.setE e x).pfx = c.pfx := rfl
@[simp] theorem Core.setE_stall (c : Core) (e : EngId) (x : Eng) : (c.setE e x).stall = c.stall := rfl
@[simp] theorem Core.setE_parked (c : Core) (e : EngId) (x : Eng) : (c.setE e x).parked = c.parked := rfl
@[simp] theorem Core.setE_samples (c : Core) (e : EngId) (x : Eng) : (c.setE e x).samples = c.samples := rfl
@[simp] theorem Core.setE_wait (c : Core) (e : EngId) (x : Eng) : (c.setE e x).wait = c.wait := rfl
@[simp] theorem Core.setE_ready (c : Core) (e : EngId) (x : Eng) : (c.setE e x).ready = c.ready := rfl
@[simp] theorem Core.setE_late (c : Core) (e : EngId) (x : Eng) : (c.setE e x).late = c.late := rfl
@[simp] theorem Core.setE_nextId (c : Core) (e : EngId) (x : Eng) : (c.setE e x).nextId = c.nextId := rfl
@[simp] theorem Core.setE_csr (c : Core) (e : EngId) (x : Eng) : (c.setE e x).csr = c.csr := rfl
@[simp] theorem Core.setE_shadow (c : Core) (e : EngId) (x : Eng) : (c.setE e x).shadow = c.shadow := rfl
@[simp] theorem Core.setE_land (c : Core) (e : EngId) (x : Eng) : (c.setE e x).land = c.land := rfl
@[simp] theorem Core.setE_expiry (c : Core) (e : EngId) (x : Eng) : (c.setE e x).expiry = c.expiry := rfl
@[simp] theorem Core.setE_pend18 (c : Core) (e : EngId) (x : Eng) : (c.setE e x).pend18 = c.pend18 := rfl
@[simp] theorem Core.setE_pend19 (c : Core) (e : EngId) (x : Eng) : (c.setE e x).pend19 = c.pend19 := rfl
@[simp] theorem Core.setE_stepOf (c : Core) (e : EngId) (x : Eng) : (c.setE e x).stepOf = c.stepOf := rfl
@[simp] theorem Core.setE_preq (c : Core) (e : EngId) (x : Eng) : (c.setE e x).preq = c.preq := rfl
@[simp] theorem Core.setE_stood (c : Core) (e : EngId) (x : Eng) : (c.setE e x).stood = c.stood := rfl
@[simp] theorem Core.setE_exposed (c : Core) (e : EngId) (x : Eng) : (c.setE e x).exposed = c.exposed := rfl
@[simp] theorem Core.setE_reads (c : Core) (e : EngId) (x : Eng) : (c.setE e x).reads = c.reads := rfl
@[simp] theorem Core.setE_vbusy (c : Core) (e : EngId) (x : Eng) : (c.setE e x).vbusy = c.vbusy := rfl
@[simp] theorem Core.setE_v (c : Core) (e : EngId) (x : Eng) : (c.setE e x).v = c.v := rfl
@[simp] theorem Core.setE_k (c : Core) (e : EngId) (x : Eng) : (c.setE e x).k = c.k := rfl
@[simp] theorem Core.setE_ember (c : Core) (e : EngId) (x : Eng) : (c.setE e x).ember = c.ember := rfl
@[simp] theorem Core.setE_sram (c : Core) (e : EngId) (x : Eng) : (c.setE e x).sram = c.sram := rfl
@[simp] theorem Core.setE_wbuf (c : Core) (e : EngId) (x : Eng) : (c.setE e x).wbuf = c.wbuf := rfl
@[simp] theorem Core.setE_spilt (c : Core) (e : EngId) (x : Eng) : (c.setE e x).spilt = c.spilt := rfl
@[simp] theorem Core.setE_gst (c : Core) (e : EngId) (x : Eng) : (c.setE e x).gst = c.gst := rfl
@[simp] theorem Core.setE_closes (c : Core) (e : EngId) (x : Eng) : (c.setE e x).closes = c.closes := rfl
@[simp] theorem Core.setE_fills (c : Core) (e : EngId) (x : Eng) : (c.setE e x).fills = c.fills := rfl
@[simp] theorem Core.setE_feeds (c : Core) (e : EngId) (x : Eng) : (c.setE e x).feeds = c.feeds := rfl
@[simp] theorem Core.setE_tiles (c : Core) (e : EngId) (x : Eng) : (c.setE e x).tiles = c.tiles := rfl
@[simp] theorem Core.setE_td (c : Core) (e : EngId) (x : Eng) : (c.setE e x).td = c.td := rfl
@[simp] theorem Core.setE_b (c : Core) (e : EngId) (x : Eng) : (c.setE e x).b = c.b := rfl
@[simp] theorem Core.setE_tags (c : Core) (e : EngId) (x : Eng) : (c.setE e x).tags = c.tags := rfl
@[simp] theorem Core.setE_decs (c : Core) (e : EngId) (x : Eng) : (c.setE e x).decs = c.decs := rfl
@[simp] theorem Core.setE_pwrReq (c : Core) (e : EngId) (x : Eng) : (c.setE e x).pwrReq = c.pwrReq := rfl
@[simp] theorem Core.setE_pwrRet (c : Core) (e : EngId) (x : Eng) : (c.setE e x).pwrRet = c.pwrRet := rfl
@[simp] theorem Core.setE_last (c : Core) (e : EngId) (x : Eng) : (c.setE e x).last = c.last := rfl
@[simp] theorem Core.setE_records (c : Core) (e : EngId) (x : Eng) : (c.setE e x).records = c.records := rfl
@[simp] theorem Core.setE_strike (c : Core) (e : EngId) (x : Eng) : (c.setE e x).strike = c.strike := rfl
@[simp] theorem Core.setE_residue (c : Core) (e : EngId) (x : Eng) : (c.setE e x).residue = c.residue := rfl
@[simp] theorem Core.setE_born (c : Core) (e : EngId) (x : Eng) : (c.setE e x).born = c.born := rfl

@[simp] theorem Core.pushFly_run (c : Core) (f : Fly) : (c.pushFly f).run = c.run := by unfold Core.pushFly; rfl
@[simp] theorem Core.pushFly_task (c : Core) (f : Fly) : (c.pushFly f).task = c.task := by unfold Core.pushFly; rfl
@[simp] theorem Core.pushFly_s (c : Core) (f : Fly) : (c.pushFly f).s = c.s := by unfold Core.pushFly; rfl
@[simp] theorem Core.pushFly_marks (c : Core) (f : Fly) : (c.pushFly f).marks = c.marks := by unfold Core.pushFly; rfl
@[simp] theorem Core.pushFly_fetch (c : Core) (f : Fly) : (c.pushFly f).fetch = c.fetch := by unfold Core.pushFly; rfl
@[simp] theorem Core.pushFly_loop (c : Core) (f : Fly) : (c.pushFly f).loop = c.loop := by unfold Core.pushFly; rfl
@[simp] theorem Core.pushFly_pfx (c : Core) (f : Fly) : (c.pushFly f).pfx = c.pfx := by unfold Core.pushFly; rfl
@[simp] theorem Core.pushFly_stall (c : Core) (f : Fly) : (c.pushFly f).stall = c.stall := by unfold Core.pushFly; rfl
@[simp] theorem Core.pushFly_parked (c : Core) (f : Fly) : (c.pushFly f).parked = c.parked := by unfold Core.pushFly; rfl
@[simp] theorem Core.pushFly_samples (c : Core) (f : Fly) : (c.pushFly f).samples = c.samples := by unfold Core.pushFly; rfl
@[simp] theorem Core.pushFly_wait (c : Core) (f : Fly) : (c.pushFly f).wait = c.wait := by unfold Core.pushFly; rfl
@[simp] theorem Core.pushFly_ready (c : Core) (f : Fly) : (c.pushFly f).ready = c.ready := by unfold Core.pushFly; rfl
@[simp] theorem Core.pushFly_late (c : Core) (f : Fly) : (c.pushFly f).late = c.late := by unfold Core.pushFly; rfl
@[simp] theorem Core.pushFly_csr (c : Core) (f : Fly) : (c.pushFly f).csr = c.csr := by unfold Core.pushFly; rfl
@[simp] theorem Core.pushFly_shadow (c : Core) (f : Fly) : (c.pushFly f).shadow = c.shadow := by unfold Core.pushFly; rfl
@[simp] theorem Core.pushFly_land (c : Core) (f : Fly) : (c.pushFly f).land = c.land := by unfold Core.pushFly; rfl
@[simp] theorem Core.pushFly_expiry (c : Core) (f : Fly) : (c.pushFly f).expiry = c.expiry := by unfold Core.pushFly; rfl
@[simp] theorem Core.pushFly_pend18 (c : Core) (f : Fly) : (c.pushFly f).pend18 = c.pend18 := by unfold Core.pushFly; rfl
@[simp] theorem Core.pushFly_pend19 (c : Core) (f : Fly) : (c.pushFly f).pend19 = c.pend19 := by unfold Core.pushFly; rfl
@[simp] theorem Core.pushFly_stepOf (c : Core) (f : Fly) : (c.pushFly f).stepOf = c.stepOf := by unfold Core.pushFly; rfl
@[simp] theorem Core.pushFly_preq (c : Core) (f : Fly) : (c.pushFly f).preq = c.preq := by unfold Core.pushFly; rfl
@[simp] theorem Core.pushFly_stood (c : Core) (f : Fly) : (c.pushFly f).stood = c.stood := by unfold Core.pushFly; rfl
@[simp] theorem Core.pushFly_exposed (c : Core) (f : Fly) : (c.pushFly f).exposed = c.exposed := by unfold Core.pushFly; rfl
@[simp] theorem Core.pushFly_reads (c : Core) (f : Fly) : (c.pushFly f).reads = c.reads := by unfold Core.pushFly; rfl
@[simp] theorem Core.pushFly_vbusy (c : Core) (f : Fly) : (c.pushFly f).vbusy = c.vbusy := by unfold Core.pushFly; rfl
@[simp] theorem Core.pushFly_v (c : Core) (f : Fly) : (c.pushFly f).v = c.v := by unfold Core.pushFly; rfl
@[simp] theorem Core.pushFly_k (c : Core) (f : Fly) : (c.pushFly f).k = c.k := by unfold Core.pushFly; rfl
@[simp] theorem Core.pushFly_ember (c : Core) (f : Fly) : (c.pushFly f).ember = c.ember := by unfold Core.pushFly; rfl
@[simp] theorem Core.pushFly_sram (c : Core) (f : Fly) : (c.pushFly f).sram = c.sram := by unfold Core.pushFly; rfl
@[simp] theorem Core.pushFly_wbuf (c : Core) (f : Fly) : (c.pushFly f).wbuf = c.wbuf := by unfold Core.pushFly; rfl
@[simp] theorem Core.pushFly_spilt (c : Core) (f : Fly) : (c.pushFly f).spilt = c.spilt := by unfold Core.pushFly; rfl
@[simp] theorem Core.pushFly_gst (c : Core) (f : Fly) : (c.pushFly f).gst = c.gst := by unfold Core.pushFly; rfl
@[simp] theorem Core.pushFly_closes (c : Core) (f : Fly) : (c.pushFly f).closes = c.closes := by unfold Core.pushFly; rfl
@[simp] theorem Core.pushFly_eng (c : Core) (f : Fly) : (c.pushFly f).eng = c.eng := by unfold Core.pushFly; rfl
@[simp] theorem Core.pushFly_fills (c : Core) (f : Fly) : (c.pushFly f).fills = c.fills := by unfold Core.pushFly; rfl
@[simp] theorem Core.pushFly_feeds (c : Core) (f : Fly) : (c.pushFly f).feeds = c.feeds := by unfold Core.pushFly; rfl
@[simp] theorem Core.pushFly_tiles (c : Core) (f : Fly) : (c.pushFly f).tiles = c.tiles := by unfold Core.pushFly; rfl
@[simp] theorem Core.pushFly_td (c : Core) (f : Fly) : (c.pushFly f).td = c.td := by unfold Core.pushFly; rfl
@[simp] theorem Core.pushFly_b (c : Core) (f : Fly) : (c.pushFly f).b = c.b := by unfold Core.pushFly; rfl
@[simp] theorem Core.pushFly_tags (c : Core) (f : Fly) : (c.pushFly f).tags = c.tags := by unfold Core.pushFly; rfl
@[simp] theorem Core.pushFly_decs (c : Core) (f : Fly) : (c.pushFly f).decs = c.decs := by unfold Core.pushFly; rfl
@[simp] theorem Core.pushFly_pwrReq (c : Core) (f : Fly) : (c.pushFly f).pwrReq = c.pwrReq := by unfold Core.pushFly; rfl
@[simp] theorem Core.pushFly_pwrRet (c : Core) (f : Fly) : (c.pushFly f).pwrRet = c.pwrRet := by unfold Core.pushFly; rfl
@[simp] theorem Core.pushFly_last (c : Core) (f : Fly) : (c.pushFly f).last = c.last := by unfold Core.pushFly; rfl
@[simp] theorem Core.pushFly_records (c : Core) (f : Fly) : (c.pushFly f).records = c.records := by unfold Core.pushFly; rfl
@[simp] theorem Core.pushFly_strike (c : Core) (f : Fly) : (c.pushFly f).strike = c.strike := by unfold Core.pushFly; rfl
@[simp] theorem Core.pushFly_residue (c : Core) (f : Fly) : (c.pushFly f).residue = c.residue := by unfold Core.pushFly; rfl
@[simp] theorem Core.pushFly_born (c : Core) (f : Fly) : (c.pushFly f).born = c.born := by unfold Core.pushFly; rfl

@[simp] theorem Core.pushFly_fly (c : Core) (f : Fly) : (c.pushFly f).fly = c.fly ++ [{ f with id := c.nextId }] := rfl
@[simp] theorem Core.pushFly_q (c : Core) (f : Fly) : (c.pushFly f).q = pushQ c.q { val := 0, pend := some c.nextId } := rfl
@[simp] theorem Core.pushFly_nextId (c : Core) (f : Fly) : (c.pushFly f).nextId = c.nextId + 1 := rfl

@[simp] theorem Core.push_run (c : Core) (d : Nat) (v : Word) (due : Nat) : (c.push d v due).run = c.run := c.pushFly_run _
@[simp] theorem Core.push_task (c : Core) (d : Nat) (v : Word) (due : Nat) : (c.push d v due).task = c.task := c.pushFly_task _
@[simp] theorem Core.push_s (c : Core) (d : Nat) (v : Word) (due : Nat) : (c.push d v due).s = c.s := c.pushFly_s _
@[simp] theorem Core.push_marks (c : Core) (d : Nat) (v : Word) (due : Nat) : (c.push d v due).marks = c.marks := c.pushFly_marks _
@[simp] theorem Core.push_fetch (c : Core) (d : Nat) (v : Word) (due : Nat) : (c.push d v due).fetch = c.fetch := c.pushFly_fetch _
@[simp] theorem Core.push_loop (c : Core) (d : Nat) (v : Word) (due : Nat) : (c.push d v due).loop = c.loop := c.pushFly_loop _
@[simp] theorem Core.push_pfx (c : Core) (d : Nat) (v : Word) (due : Nat) : (c.push d v due).pfx = c.pfx := c.pushFly_pfx _
@[simp] theorem Core.push_stall (c : Core) (d : Nat) (v : Word) (due : Nat) : (c.push d v due).stall = c.stall := c.pushFly_stall _
@[simp] theorem Core.push_parked (c : Core) (d : Nat) (v : Word) (due : Nat) : (c.push d v due).parked = c.parked := c.pushFly_parked _
@[simp] theorem Core.push_samples (c : Core) (d : Nat) (v : Word) (due : Nat) : (c.push d v due).samples = c.samples := c.pushFly_samples _
@[simp] theorem Core.push_wait (c : Core) (d : Nat) (v : Word) (due : Nat) : (c.push d v due).wait = c.wait := c.pushFly_wait _
@[simp] theorem Core.push_ready (c : Core) (d : Nat) (v : Word) (due : Nat) : (c.push d v due).ready = c.ready := c.pushFly_ready _
@[simp] theorem Core.push_late (c : Core) (d : Nat) (v : Word) (due : Nat) : (c.push d v due).late = c.late := c.pushFly_late _
@[simp] theorem Core.push_csr (c : Core) (d : Nat) (v : Word) (due : Nat) : (c.push d v due).csr = c.csr := c.pushFly_csr _
@[simp] theorem Core.push_shadow (c : Core) (d : Nat) (v : Word) (due : Nat) : (c.push d v due).shadow = c.shadow := c.pushFly_shadow _
@[simp] theorem Core.push_land (c : Core) (d : Nat) (v : Word) (due : Nat) : (c.push d v due).land = c.land := c.pushFly_land _
@[simp] theorem Core.push_expiry (c : Core) (d : Nat) (v : Word) (due : Nat) : (c.push d v due).expiry = c.expiry := c.pushFly_expiry _
@[simp] theorem Core.push_pend18 (c : Core) (d : Nat) (v : Word) (due : Nat) : (c.push d v due).pend18 = c.pend18 := c.pushFly_pend18 _
@[simp] theorem Core.push_pend19 (c : Core) (d : Nat) (v : Word) (due : Nat) : (c.push d v due).pend19 = c.pend19 := c.pushFly_pend19 _
@[simp] theorem Core.push_stepOf (c : Core) (d : Nat) (v : Word) (due : Nat) : (c.push d v due).stepOf = c.stepOf := c.pushFly_stepOf _
@[simp] theorem Core.push_preq (c : Core) (d : Nat) (v : Word) (due : Nat) : (c.push d v due).preq = c.preq := c.pushFly_preq _
@[simp] theorem Core.push_stood (c : Core) (d : Nat) (v : Word) (due : Nat) : (c.push d v due).stood = c.stood := c.pushFly_stood _
@[simp] theorem Core.push_exposed (c : Core) (d : Nat) (v : Word) (due : Nat) : (c.push d v due).exposed = c.exposed := c.pushFly_exposed _
@[simp] theorem Core.push_reads (c : Core) (d : Nat) (v : Word) (due : Nat) : (c.push d v due).reads = c.reads := c.pushFly_reads _
@[simp] theorem Core.push_vbusy (c : Core) (d : Nat) (v : Word) (due : Nat) : (c.push d v due).vbusy = c.vbusy := c.pushFly_vbusy _
@[simp] theorem Core.push_v (c : Core) (d : Nat) (v : Word) (due : Nat) : (c.push d v due).v = c.v := c.pushFly_v _
@[simp] theorem Core.push_k (c : Core) (d : Nat) (v : Word) (due : Nat) : (c.push d v due).k = c.k := c.pushFly_k _
@[simp] theorem Core.push_ember (c : Core) (d : Nat) (v : Word) (due : Nat) : (c.push d v due).ember = c.ember := c.pushFly_ember _
@[simp] theorem Core.push_sram (c : Core) (d : Nat) (v : Word) (due : Nat) : (c.push d v due).sram = c.sram := c.pushFly_sram _
@[simp] theorem Core.push_wbuf (c : Core) (d : Nat) (v : Word) (due : Nat) : (c.push d v due).wbuf = c.wbuf := c.pushFly_wbuf _
@[simp] theorem Core.push_spilt (c : Core) (d : Nat) (v : Word) (due : Nat) : (c.push d v due).spilt = c.spilt := c.pushFly_spilt _
@[simp] theorem Core.push_gst (c : Core) (d : Nat) (v : Word) (due : Nat) : (c.push d v due).gst = c.gst := c.pushFly_gst _
@[simp] theorem Core.push_closes (c : Core) (d : Nat) (v : Word) (due : Nat) : (c.push d v due).closes = c.closes := c.pushFly_closes _
@[simp] theorem Core.push_eng (c : Core) (d : Nat) (v : Word) (due : Nat) : (c.push d v due).eng = c.eng := c.pushFly_eng _
@[simp] theorem Core.push_fills (c : Core) (d : Nat) (v : Word) (due : Nat) : (c.push d v due).fills = c.fills := c.pushFly_fills _
@[simp] theorem Core.push_feeds (c : Core) (d : Nat) (v : Word) (due : Nat) : (c.push d v due).feeds = c.feeds := c.pushFly_feeds _
@[simp] theorem Core.push_tiles (c : Core) (d : Nat) (v : Word) (due : Nat) : (c.push d v due).tiles = c.tiles := c.pushFly_tiles _
@[simp] theorem Core.push_td (c : Core) (d : Nat) (v : Word) (due : Nat) : (c.push d v due).td = c.td := c.pushFly_td _
@[simp] theorem Core.push_b (c : Core) (d : Nat) (v : Word) (due : Nat) : (c.push d v due).b = c.b := c.pushFly_b _
@[simp] theorem Core.push_tags (c : Core) (d : Nat) (v : Word) (due : Nat) : (c.push d v due).tags = c.tags := c.pushFly_tags _
@[simp] theorem Core.push_decs (c : Core) (d : Nat) (v : Word) (due : Nat) : (c.push d v due).decs = c.decs := c.pushFly_decs _
@[simp] theorem Core.push_pwrReq (c : Core) (d : Nat) (v : Word) (due : Nat) : (c.push d v due).pwrReq = c.pwrReq := c.pushFly_pwrReq _
@[simp] theorem Core.push_pwrRet (c : Core) (d : Nat) (v : Word) (due : Nat) : (c.push d v due).pwrRet = c.pwrRet := c.pushFly_pwrRet _
@[simp] theorem Core.push_last (c : Core) (d : Nat) (v : Word) (due : Nat) : (c.push d v due).last = c.last := c.pushFly_last _
@[simp] theorem Core.push_records (c : Core) (d : Nat) (v : Word) (due : Nat) : (c.push d v due).records = c.records := c.pushFly_records _
@[simp] theorem Core.push_strike (c : Core) (d : Nat) (v : Word) (due : Nat) : (c.push d v due).strike = c.strike := c.pushFly_strike _
@[simp] theorem Core.push_residue (c : Core) (d : Nat) (v : Word) (due : Nat) : (c.push d v due).residue = c.residue := c.pushFly_residue _
@[simp] theorem Core.push_born (c : Core) (d : Nat) (v : Word) (due : Nat) : (c.push d v due).born = c.born := c.pushFly_born _

@[simp] theorem Core.push_fly (c : Core) (d : Nat) (v : Word) (due : Nat) :
    (c.push d v due).fly = c.fly ++ [{ id := c.nextId, dst := d, val := v, due := some due }] := rfl
@[simp] theorem Core.push_q (c : Core) (d : Nat) (v : Word) (due : Nat) : (c.push d v due).q = pushQ c.q { val := 0, pend := some c.nextId } := rfl
@[simp] theorem Core.push_nextId (c : Core) (d : Nat) (v : Word) (due : Nat) : (c.push d v due).nextId = c.nextId + 1 := rfl

@[simp] theorem Core.moved_run (c : Core) (now : Nat) (fl : Fetch) (lp : Loop) : (c.moved now fl lp).run = c.run := Core.count_run _ _ _
@[simp] theorem Core.moved_task (c : Core) (now : Nat) (fl : Fetch) (lp : Loop) : (c.moved now fl lp).task = c.task := Core.count_task _ _ _
@[simp] theorem Core.moved_s (c : Core) (now : Nat) (fl : Fetch) (lp : Loop) : (c.moved now fl lp).s = c.s := Core.count_s _ _ _
@[simp] theorem Core.moved_q (c : Core) (now : Nat) (fl : Fetch) (lp : Loop) : (c.moved now fl lp).q = c.q := Core.count_q _ _ _
@[simp] theorem Core.moved_fly (c : Core) (now : Nat) (fl : Fetch) (lp : Loop) : (c.moved now fl lp).fly = c.fly := Core.count_fly _ _ _
@[simp] theorem Core.moved_marks (c : Core) (now : Nat) (fl : Fetch) (lp : Loop) : (c.moved now fl lp).marks = c.marks := Core.count_marks _ _ _
@[simp] theorem Core.moved_parked (c : Core) (now : Nat) (fl : Fetch) (lp : Loop) : (c.moved now fl lp).parked = c.parked := Core.count_parked _ _ _
@[simp] theorem Core.moved_late (c : Core) (now : Nat) (fl : Fetch) (lp : Loop) : (c.moved now fl lp).late = c.late := Core.count_late _ _ _
@[simp] theorem Core.moved_nextId (c : Core) (now : Nat) (fl : Fetch) (lp : Loop) : (c.moved now fl lp).nextId = c.nextId := Core.count_nextId _ _ _
@[simp] theorem Core.moved_shadow (c : Core) (now : Nat) (fl : Fetch) (lp : Loop) : (c.moved now fl lp).shadow = c.shadow := Core.count_shadow _ _ _
@[simp] theorem Core.moved_land (c : Core) (now : Nat) (fl : Fetch) (lp : Loop) : (c.moved now fl lp).land = c.land := Core.count_land _ _ _
@[simp] theorem Core.moved_expiry (c : Core) (now : Nat) (fl : Fetch) (lp : Loop) : (c.moved now fl lp).expiry = c.expiry := Core.count_expiry _ _ _
@[simp] theorem Core.moved_pend18 (c : Core) (now : Nat) (fl : Fetch) (lp : Loop) : (c.moved now fl lp).pend18 = c.pend18 := Core.count_pend18 _ _ _
@[simp] theorem Core.moved_pend19 (c : Core) (now : Nat) (fl : Fetch) (lp : Loop) : (c.moved now fl lp).pend19 = c.pend19 := Core.count_pend19 _ _ _
@[simp] theorem Core.moved_stepOf (c : Core) (now : Nat) (fl : Fetch) (lp : Loop) : (c.moved now fl lp).stepOf = c.stepOf := Core.count_stepOf _ _ _
@[simp] theorem Core.moved_preq (c : Core) (now : Nat) (fl : Fetch) (lp : Loop) : (c.moved now fl lp).preq = c.preq := Core.count_preq _ _ _
@[simp] theorem Core.moved_stood (c : Core) (now : Nat) (fl : Fetch) (lp : Loop) : (c.moved now fl lp).stood = c.stood := Core.count_stood _ _ _
@[simp] theorem Core.moved_exposed (c : Core) (now : Nat) (fl : Fetch) (lp : Loop) : (c.moved now fl lp).exposed = c.exposed := Core.count_exposed _ _ _
@[simp] theorem Core.moved_reads (c : Core) (now : Nat) (fl : Fetch) (lp : Loop) : (c.moved now fl lp).reads = c.reads := Core.count_reads _ _ _
@[simp] theorem Core.moved_vbusy (c : Core) (now : Nat) (fl : Fetch) (lp : Loop) : (c.moved now fl lp).vbusy = c.vbusy := Core.count_vbusy _ _ _
@[simp] theorem Core.moved_v (c : Core) (now : Nat) (fl : Fetch) (lp : Loop) : (c.moved now fl lp).v = c.v := Core.count_v _ _ _
@[simp] theorem Core.moved_k (c : Core) (now : Nat) (fl : Fetch) (lp : Loop) : (c.moved now fl lp).k = c.k := Core.count_k _ _ _
@[simp] theorem Core.moved_ember (c : Core) (now : Nat) (fl : Fetch) (lp : Loop) : (c.moved now fl lp).ember = c.ember := Core.count_ember _ _ _
@[simp] theorem Core.moved_sram (c : Core) (now : Nat) (fl : Fetch) (lp : Loop) : (c.moved now fl lp).sram = c.sram := Core.count_sram _ _ _
@[simp] theorem Core.moved_wbuf (c : Core) (now : Nat) (fl : Fetch) (lp : Loop) : (c.moved now fl lp).wbuf = c.wbuf := Core.count_wbuf _ _ _
@[simp] theorem Core.moved_spilt (c : Core) (now : Nat) (fl : Fetch) (lp : Loop) : (c.moved now fl lp).spilt = c.spilt := Core.count_spilt _ _ _
@[simp] theorem Core.moved_gst (c : Core) (now : Nat) (fl : Fetch) (lp : Loop) : (c.moved now fl lp).gst = c.gst := Core.count_gst _ _ _
@[simp] theorem Core.moved_closes (c : Core) (now : Nat) (fl : Fetch) (lp : Loop) : (c.moved now fl lp).closes = c.closes := Core.count_closes _ _ _
@[simp] theorem Core.moved_eng (c : Core) (now : Nat) (fl : Fetch) (lp : Loop) : (c.moved now fl lp).eng = c.eng := Core.count_eng _ _ _
@[simp] theorem Core.moved_fills (c : Core) (now : Nat) (fl : Fetch) (lp : Loop) : (c.moved now fl lp).fills = c.fills := Core.count_fills _ _ _
@[simp] theorem Core.moved_feeds (c : Core) (now : Nat) (fl : Fetch) (lp : Loop) : (c.moved now fl lp).feeds = c.feeds := Core.count_feeds _ _ _
@[simp] theorem Core.moved_tiles (c : Core) (now : Nat) (fl : Fetch) (lp : Loop) : (c.moved now fl lp).tiles = c.tiles := Core.count_tiles _ _ _
@[simp] theorem Core.moved_td (c : Core) (now : Nat) (fl : Fetch) (lp : Loop) : (c.moved now fl lp).td = c.td := Core.count_td _ _ _
@[simp] theorem Core.moved_b (c : Core) (now : Nat) (fl : Fetch) (lp : Loop) : (c.moved now fl lp).b = c.b := Core.count_b _ _ _
@[simp] theorem Core.moved_tags (c : Core) (now : Nat) (fl : Fetch) (lp : Loop) : (c.moved now fl lp).tags = c.tags := Core.count_tags _ _ _
@[simp] theorem Core.moved_decs (c : Core) (now : Nat) (fl : Fetch) (lp : Loop) : (c.moved now fl lp).decs = c.decs := Core.count_decs _ _ _
@[simp] theorem Core.moved_pwrReq (c : Core) (now : Nat) (fl : Fetch) (lp : Loop) : (c.moved now fl lp).pwrReq = c.pwrReq := Core.count_pwrReq _ _ _
@[simp] theorem Core.moved_pwrRet (c : Core) (now : Nat) (fl : Fetch) (lp : Loop) : (c.moved now fl lp).pwrRet = c.pwrRet := Core.count_pwrRet _ _ _
@[simp] theorem Core.moved_last (c : Core) (now : Nat) (fl : Fetch) (lp : Loop) : (c.moved now fl lp).last = c.last := Core.count_last _ _ _
@[simp] theorem Core.moved_records (c : Core) (now : Nat) (fl : Fetch) (lp : Loop) : (c.moved now fl lp).records = c.records := Core.count_records _ _ _
@[simp] theorem Core.moved_strike (c : Core) (now : Nat) (fl : Fetch) (lp : Loop) : (c.moved now fl lp).strike = c.strike := Core.count_strike _ _ _
@[simp] theorem Core.moved_residue (c : Core) (now : Nat) (fl : Fetch) (lp : Loop) : (c.moved now fl lp).residue = c.residue := Core.count_residue _ _ _
@[simp] theorem Core.moved_born (c : Core) (now : Nat) (fl : Fetch) (lp : Loop) : (c.moved now fl lp).born = c.born := Core.count_born _ _ _
@[simp] theorem Core.moved_fetch (c : Core) (now : Nat) (fl : Fetch) (lp : Loop) : (c.moved now fl lp).fetch = fl := Core.count_fetch _ _ _
@[simp] theorem Core.moved_loop (c : Core) (now : Nat) (fl : Fetch) (lp : Loop) : (c.moved now fl lp).loop = lp := Core.count_loop _ _ _
@[simp] theorem Core.moved_pfx (c : Core) (now : Nat) (fl : Fetch) (lp : Loop) : (c.moved now fl lp).pfx = none := Core.count_pfx _ _ _
@[simp] theorem Core.moved_stall (c : Core) (now : Nat) (fl : Fetch) (lp : Loop) : (c.moved now fl lp).stall = none := Core.count_stall _ _ _
@[simp] theorem Core.moved_wait (c : Core) (now : Nat) (fl : Fetch) (lp : Loop) : (c.moved now fl lp).wait = none := Core.count_wait _ _ _
@[simp] theorem Core.moved_samples (c : Core) (now : Nat) (fl : Fetch) (lp : Loop) : (c.moved now fl lp).samples = 0 := Core.count_samples _ _ _
@[simp] theorem Core.moved_ready (c : Core) (now : Nat) (fl : Fetch) (lp : Loop) : (c.moved now fl lp).ready = now + 1 := Core.count_ready _ _ _

theorem Core.stepped_eq (c d : Core) : c.stepped d = { c with stepOf := (c.stepped d).stepOf } := by
  unfold Core.stepped; split <;> rfl

@[simp] theorem Core.stepped_run (c d : Core) : (c.stepped d).run = c.run := (congrArg Core.run (c.stepped_eq d)).trans rfl
@[simp] theorem Core.stepped_task (c d : Core) : (c.stepped d).task = c.task := (congrArg Core.task (c.stepped_eq d)).trans rfl
@[simp] theorem Core.stepped_s (c d : Core) : (c.stepped d).s = c.s := (congrArg Core.s (c.stepped_eq d)).trans rfl
@[simp] theorem Core.stepped_q (c d : Core) : (c.stepped d).q = c.q := (congrArg Core.q (c.stepped_eq d)).trans rfl
@[simp] theorem Core.stepped_fly (c d : Core) : (c.stepped d).fly = c.fly := (congrArg Core.fly (c.stepped_eq d)).trans rfl
@[simp] theorem Core.stepped_marks (c d : Core) : (c.stepped d).marks = c.marks := (congrArg Core.marks (c.stepped_eq d)).trans rfl
@[simp] theorem Core.stepped_fetch (c d : Core) : (c.stepped d).fetch = c.fetch := (congrArg Core.fetch (c.stepped_eq d)).trans rfl
@[simp] theorem Core.stepped_loop (c d : Core) : (c.stepped d).loop = c.loop := (congrArg Core.loop (c.stepped_eq d)).trans rfl
@[simp] theorem Core.stepped_pfx (c d : Core) : (c.stepped d).pfx = c.pfx := (congrArg Core.pfx (c.stepped_eq d)).trans rfl
@[simp] theorem Core.stepped_stall (c d : Core) : (c.stepped d).stall = c.stall := (congrArg Core.stall (c.stepped_eq d)).trans rfl
@[simp] theorem Core.stepped_parked (c d : Core) : (c.stepped d).parked = c.parked := (congrArg Core.parked (c.stepped_eq d)).trans rfl
@[simp] theorem Core.stepped_samples (c d : Core) : (c.stepped d).samples = c.samples := (congrArg Core.samples (c.stepped_eq d)).trans rfl
@[simp] theorem Core.stepped_wait (c d : Core) : (c.stepped d).wait = c.wait := (congrArg Core.wait (c.stepped_eq d)).trans rfl
@[simp] theorem Core.stepped_ready (c d : Core) : (c.stepped d).ready = c.ready := (congrArg Core.ready (c.stepped_eq d)).trans rfl
@[simp] theorem Core.stepped_late (c d : Core) : (c.stepped d).late = c.late := (congrArg Core.late (c.stepped_eq d)).trans rfl
@[simp] theorem Core.stepped_nextId (c d : Core) : (c.stepped d).nextId = c.nextId := (congrArg Core.nextId (c.stepped_eq d)).trans rfl
@[simp] theorem Core.stepped_csr (c d : Core) : (c.stepped d).csr = c.csr := (congrArg Core.csr (c.stepped_eq d)).trans rfl
@[simp] theorem Core.stepped_shadow (c d : Core) : (c.stepped d).shadow = c.shadow := (congrArg Core.shadow (c.stepped_eq d)).trans rfl
@[simp] theorem Core.stepped_land (c d : Core) : (c.stepped d).land = c.land := (congrArg Core.land (c.stepped_eq d)).trans rfl
@[simp] theorem Core.stepped_expiry (c d : Core) : (c.stepped d).expiry = c.expiry := (congrArg Core.expiry (c.stepped_eq d)).trans rfl
@[simp] theorem Core.stepped_pend18 (c d : Core) : (c.stepped d).pend18 = c.pend18 := (congrArg Core.pend18 (c.stepped_eq d)).trans rfl
@[simp] theorem Core.stepped_pend19 (c d : Core) : (c.stepped d).pend19 = c.pend19 := (congrArg Core.pend19 (c.stepped_eq d)).trans rfl
@[simp] theorem Core.stepped_preq (c d : Core) : (c.stepped d).preq = c.preq := (congrArg Core.preq (c.stepped_eq d)).trans rfl
@[simp] theorem Core.stepped_stood (c d : Core) : (c.stepped d).stood = c.stood := (congrArg Core.stood (c.stepped_eq d)).trans rfl
@[simp] theorem Core.stepped_exposed (c d : Core) : (c.stepped d).exposed = c.exposed := (congrArg Core.exposed (c.stepped_eq d)).trans rfl
@[simp] theorem Core.stepped_reads (c d : Core) : (c.stepped d).reads = c.reads := (congrArg Core.reads (c.stepped_eq d)).trans rfl
@[simp] theorem Core.stepped_vbusy (c d : Core) : (c.stepped d).vbusy = c.vbusy := (congrArg Core.vbusy (c.stepped_eq d)).trans rfl
@[simp] theorem Core.stepped_v (c d : Core) : (c.stepped d).v = c.v := (congrArg Core.v (c.stepped_eq d)).trans rfl
@[simp] theorem Core.stepped_k (c d : Core) : (c.stepped d).k = c.k := (congrArg Core.k (c.stepped_eq d)).trans rfl
@[simp] theorem Core.stepped_ember (c d : Core) : (c.stepped d).ember = c.ember := (congrArg Core.ember (c.stepped_eq d)).trans rfl
@[simp] theorem Core.stepped_sram (c d : Core) : (c.stepped d).sram = c.sram := (congrArg Core.sram (c.stepped_eq d)).trans rfl
@[simp] theorem Core.stepped_wbuf (c d : Core) : (c.stepped d).wbuf = c.wbuf := (congrArg Core.wbuf (c.stepped_eq d)).trans rfl
@[simp] theorem Core.stepped_spilt (c d : Core) : (c.stepped d).spilt = c.spilt := (congrArg Core.spilt (c.stepped_eq d)).trans rfl
@[simp] theorem Core.stepped_gst (c d : Core) : (c.stepped d).gst = c.gst := (congrArg Core.gst (c.stepped_eq d)).trans rfl
@[simp] theorem Core.stepped_closes (c d : Core) : (c.stepped d).closes = c.closes := (congrArg Core.closes (c.stepped_eq d)).trans rfl
@[simp] theorem Core.stepped_eng (c d : Core) : (c.stepped d).eng = c.eng := (congrArg Core.eng (c.stepped_eq d)).trans rfl
@[simp] theorem Core.stepped_fills (c d : Core) : (c.stepped d).fills = c.fills := (congrArg Core.fills (c.stepped_eq d)).trans rfl
@[simp] theorem Core.stepped_feeds (c d : Core) : (c.stepped d).feeds = c.feeds := (congrArg Core.feeds (c.stepped_eq d)).trans rfl
@[simp] theorem Core.stepped_tiles (c d : Core) : (c.stepped d).tiles = c.tiles := (congrArg Core.tiles (c.stepped_eq d)).trans rfl
@[simp] theorem Core.stepped_td (c d : Core) : (c.stepped d).td = c.td := (congrArg Core.td (c.stepped_eq d)).trans rfl
@[simp] theorem Core.stepped_b (c d : Core) : (c.stepped d).b = c.b := (congrArg Core.b (c.stepped_eq d)).trans rfl
@[simp] theorem Core.stepped_tags (c d : Core) : (c.stepped d).tags = c.tags := (congrArg Core.tags (c.stepped_eq d)).trans rfl
@[simp] theorem Core.stepped_decs (c d : Core) : (c.stepped d).decs = c.decs := (congrArg Core.decs (c.stepped_eq d)).trans rfl
@[simp] theorem Core.stepped_pwrReq (c d : Core) : (c.stepped d).pwrReq = c.pwrReq := (congrArg Core.pwrReq (c.stepped_eq d)).trans rfl
@[simp] theorem Core.stepped_pwrRet (c d : Core) : (c.stepped d).pwrRet = c.pwrRet := (congrArg Core.pwrRet (c.stepped_eq d)).trans rfl
@[simp] theorem Core.stepped_last (c d : Core) : (c.stepped d).last = c.last := (congrArg Core.last (c.stepped_eq d)).trans rfl
@[simp] theorem Core.stepped_records (c d : Core) : (c.stepped d).records = c.records := (congrArg Core.records (c.stepped_eq d)).trans rfl
@[simp] theorem Core.stepped_strike (c d : Core) : (c.stepped d).strike = c.strike := (congrArg Core.strike (c.stepped_eq d)).trans rfl
@[simp] theorem Core.stepped_residue (c d : Core) : (c.stepped d).residue = c.residue := (congrArg Core.residue (c.stepped_eq d)).trans rfl
@[simp] theorem Core.stepped_born (c d : Core) : (c.stepped d).born = c.born := (congrArg Core.born (c.stepped_eq d)).trans rfl

end Sys2Proof.Machine
end

