-- ==== Sys2Proof/Laws/Ops.lean ====
section
/-! SUPPORT. What the shared operations of Smith can do: reading sources, pushing, and performing a position. -/

namespace Sys2Proof.Machine

open Sys2Proof.Claims

/-! ### Sources -/

/-- A feed that pops changes its elements alone. -/
theorem Core.popFeed_ok {c c' : Core} {n : Nat} {e : Nat × Nat} (h : c.popFeed n = .ok (e, c')) : c' = { c with feeds := c'.feeds } := by
  unfold Core.popFeed at h
  dsimp only at h
  split at h
  · split at h
    · simp at h
    · simp only [Except.ok.injEq, Prod.mk.injEq] at h; rw [← h.2]
  · split at h <;> simp at h

/-- Reading a source changes the feeds alone. -/
theorem Core.source_ok {c c' : Core} {x : Nat} {v : Word} (h : c.source x = .ok (v, c')) : c' = { c with feeds := c'.feeds } := by
  unfold Core.source at h
  split at h
  · simp only [Except.ok.injEq, Prod.mk.injEq] at h; rw [← h.2]
  · split at h
    · simp only [Except.ok.injEq, Prod.mk.injEq] at h; rw [← h.2]
    · split at h
      · simp at h
      · rename_i f e c1 he
        simp only [Except.ok.injEq, Prod.mk.injEq] at h
        rw [← h.2]; exact Core.popFeed_ok he

/-- A source that is no feed changes nothing. -/
theorem Core.source_reg (c : Core) {x : Nat} (h : x < 48) :
    c.source x = .ok (if x < 32 then c.getS x else (vget c.q (x - 32) {}).val, c) := by
  unfold Core.source; split
  · rfl
  · simp

/-- Reading sources changes the feeds alone. -/
theorem readAll_ok : ∀ {xs : List Nat} {c c' : Core} {vs : List Word}, readAll c xs = some (vs, c') → c' = { c with feeds := c'.feeds }
  | [], c, c', vs, h => by simp only [readAll, Option.some.injEq, Prod.mk.injEq] at h; rw [← h.2]
  | x :: t, c, c', vs, h => by
    simp only [readAll] at h
    cases e : c.source x with
    | error _ => simp [e] at h
    | ok r =>
      obtain ⟨v, c1⟩ := r
      simp only [e, Option.map_eq_some_iff] at h
      obtain ⟨⟨ws, c2⟩, h2, h3⟩ := h
      simp only [Prod.mk.injEq] at h3
      obtain ⟨-, rfl⟩ := h3
      have a := Core.source_ok e
      have b := readAll_ok h2
      rw [b, a]

/-- What reading sources leaves unchanged. -/
theorem reads_feeds {c c' : Core} {xs beside : List Nat} {d : Nat} {vs : List Word} (h : reads c xs beside d vs c') :
    c' = { c with feeds := c'.feeds } := readAll_ok h.2

theorem reads_fetch {c c' : Core} {xs beside : List Nat} {d : Nat} {vs : List Word} (h : reads c xs beside d vs c') : c'.fetch = c.fetch := by
  rw [reads_feeds h]

/-- An operation without sources, when it can be performed. -/
theorem with0_of_reads {c c' : Core} {regs : List Nat} {d : Nat} (h : reads c [] regs d [] c') (k : Core → Act) : with0 c regs d k = k c' := by
  obtain ⟨h1, h2⟩ := h
  simp only [readAll, Option.some.injEq, Prod.mk.injEq, true_and] at h2
  subst h2
  unfold with0
  rw [show regs = [] ++ regs from rfl, h1]

/-- An operation with one source, when it can be performed. -/
theorem with1_of_reads {c c' : Core} {a : Nat} {regs : List Nat} {d : Nat} {x : Word} (h : reads c [a] regs d [x] c') (k : Core → Word → Act) :
    with1 c a regs d k = k c' x := by
  obtain ⟨h1, h2⟩ := h
  unfold with1
  rw [show a :: regs = [a] ++ regs from rfl, h1]
  simp only [readAll] at h2
  cases e : c.source a with
  | error _ => simp [e] at h2
  | ok r => simp [e] at h2; obtain ⟨rfl, rfl⟩ := h2; rfl

/-- An operation with two sources, when it can be performed. -/
theorem with2_of_reads {c c' : Core} {a b : Nat} {regs : List Nat} {d : Nat} {x y : Word} (h : reads c [a, b] regs d [x, y] c')
    (k : Core → Word → Word → Act) : with2 c a b regs d k = k c' x y := by
  obtain ⟨h1, h2⟩ := h
  unfold with2
  rw [show a :: b :: regs = [a, b] ++ regs from rfl, h1]
  simp only [readAll] at h2
  cases e : c.source a with
  | error _ => simp [e] at h2
  | ok r =>
    cases e2 : r.2.source b with
    | error _ => simp [e, e2] at h2
    | ok r2 => simp [e, e2] at h2; obtain ⟨⟨rfl, rfl⟩, rfl⟩ := h2; simp [e2]

/-- What reading two sources can give: a halt, or the rest of the position on the core after the reads. -/
theorem with2_cases (c : Core) (a b : Nat) (regs : List Nat) (d : Nat) (k : Core → Word → Word → Act) :
    (∃ h, with2 c a b regs d k = .halt h) ∨
    ∃ x y c', reads c [a, b] regs d [x, y] c' ∧ with2 c a b regs d k = k c' x y := by
  unfold with2
  cases h : c.hazard (a :: b :: regs) d with
  | some x => exact .inl ⟨x, rfl⟩
  | none =>
    cases e : c.source a with
    | error h => exact .inl ⟨h, by simp⟩
    | ok r =>
      obtain ⟨x, c1⟩ := r
      cases e2 : c1.source b with
      | error h => exact .inl ⟨h, by simp [e2]⟩
      | ok r => exact .inr ⟨x, r.1, r.2, ⟨h, by simp [readAll, e, e2]⟩, by simp [e2]⟩

/-- What reading one source can give. -/
theorem with1_cases (c : Core) (a : Nat) (regs : List Nat) (d : Nat) (k : Core → Word → Act) :
    (∃ h, with1 c a regs d k = .halt h) ∨ ∃ x c', reads c [a] regs d [x] c' ∧ with1 c a regs d k = k c' x := by
  unfold with1
  cases h : c.hazard (a :: regs) d with
  | some x => exact .inl ⟨x, rfl⟩
  | none =>
    cases e : c.source a with
    | error h => exact .inl ⟨h, by simp⟩
    | ok r => exact .inr ⟨r.1, r.2, ⟨h, by simp [readAll, e]⟩, by simp⟩

/-- What an operation without sources can give. -/
theorem with0_cases (c : Core) (regs : List Nat) (d : Nat) (k : Core → Act) :
    (∃ h, with0 c regs d k = .halt h) ∨ (reads c [] regs d [] c ∧ with0 c regs d k = k c) := by
  unfold with0
  cases h : c.hazard regs d with
  | some x => exact .inl ⟨x, rfl⟩
  | none => exact .inr ⟨⟨h, rfl⟩, rfl⟩

/-! ### Performing a position -/

@[simp] theorem State.halted_stall (s : State) (k : Stall) : s.halted (.stall k) = s.setCore s.cur { s.core s.cur with stall := some k } := rfl

@[simp] theorem State.halted_fault (s : State) (code : Byte) (tval : Word) :
    s.halted (.fault code tval) = s.setCore s.cur ((s.core s.cur).raise code tval none false s.now) := rfl

@[simp] theorem State.halted_mark (s : State) (code : Byte) (tval : Word) (id : Nat) :
    s.halted (.fault code tval (some id)) = s.setCore s.cur (((s.core s.cur).clearMark id).raise code tval none false s.now) := rfl

@[simp] theorem State.halted_poison (s : State) (kind unit n : Nat) (tval : Word) :
    s.halted (.poison kind unit n tval) = (List.range n).foldl (fun t _ => t.logEntry kind (s.physOf s.cur) unit (s.core s.cur).task 0)
      (s.setCore s.cur (((s.core s.cur).count 1 n).raise 0x1A tval none false s.now)) := rfl

theorem runs_iff {s : State} {size : Nat} {k : PosKind} :
    runs s size k = true ↔ (s.core s.cur).run = .running ∧
      ((s.core s.cur).fetch.layout size k || (k = .header && (s.core s.cur).unentered s.mem)) = false := by
  unfold runs
  cases ((s.core s.cur).fetch.layout size k || (k = .header && (s.core s.cur).unentered s.mem)) <;> simp

/-- Everything that performing a position can do. -/
theorem perform_cases (s : State) (size : Nat) (k : PosKind) (f : State → Core → Act) :
    perform s size k f = s ∨
    perform s size k f = s.setCore s.cur ((s.core s.cur).raise 0x05 (s.core s.cur).fetch.pc.addr none false s.now) ∨
    (runs s size k = true ∧ (
      (∃ c' post fx, f s (s.core s.cur) = .done c' post fx ∧ perform s size k f = finishPos s (s.core s.cur) c' k none post fx) ∨
      (∃ c' t, f s (s.core s.cur) = .jump c' t ∧ perform s size k f = finishPos s (s.core s.cur) c' k (some t) id id) ∨
      (∃ c' st fx, f s (s.core s.cur) = .wait c' st fx ∧ perform s size k f = fx (s.setCore s.cur { c' with stall := some st })) ∨
      (∃ c' fx, f s (s.core s.cur) = .stay c' fx ∧
        perform s size k f = fx (s.setCore s.cur ({ c' with stall := none, pfx := none, wait := none, samples := 0 }.count 11 1))) ∨
      ∃ h, f s (s.core s.cur) = .halt h ∧ perform s size k f = s.halted h)) := by
  unfold perform
  by_cases h : (s.core s.cur).run = .running
  · cases hl : ((s.core s.cur).fetch.layout size k || (k = .header && (s.core s.cur).unentered s.mem)) with
    | true => exact .inr (.inl (by simp [h, hl]))
    | false =>
      refine .inr (.inr ⟨runs_iff.2 ⟨h, hl⟩, ?_⟩)
      cases e : f s (s.core s.cur) with
      | done c' post fx => exact .inl ⟨c', post, fx, rfl, by simp [h, hl, e]⟩
      | jump c' t => exact .inr (.inl ⟨c', t, rfl, by simp [h, hl, e]⟩)
      | wait c' st fx => exact .inr (.inr (.inl ⟨c', st, fx, rfl, by simp [h, hl, e]⟩))
      | stay c' fx => exact .inr (.inr (.inr (.inl ⟨c', fx, rfl, by simp [h, hl, e]⟩)))
      | halt x => exact .inr (.inr (.inr (.inr ⟨x, rfl, by simp [h, hl, e]⟩)))
  · exact .inl (by simp [h])

/-- A position that completes, when its successor can be fetched. -/
theorem finishPos_ok {s : State} {c c' : Core} {k : PosKind} {target : Option Nat} {n : Fetch × Loop}
    (h : (nextFetch s.mem c (if k = .transfer then c'.fetch.slots else c'.fetch) target).toOption = some n) (post : Core → Core) (fx : State → State) :
    finishPos s c c' k target post fx = fx (s.setCore s.cur (post ((c'.moved s.now n.1 n.2).stepped c))) := by
  unfold finishPos
  split
  · rename_i e; simp [e, Except.toOption] at h
  · rename_i e; simp [e, Except.toOption] at h; subst h; rfl

/-- What a completing position can give. -/
theorem finishPos_cases (s : State) (c c' : Core) (k : PosKind) (target : Option Nat) (post : Core → Core) (fx : State → State) :
    (∃ h, finishPos s c c' k target post fx = s.halted h) ∨
    ∃ n : Fetch × Loop, finishPos s c c' k target post fx = fx (s.setCore s.cur (post ((c'.moved s.now n.1 n.2).stepped c))) := by
  unfold finishPos
  split
  · exact .inl ⟨_, rfl⟩
  · exact .inr ⟨(_, _), rfl⟩

/-- A plain position that completes. -/
theorem smith_done {s : State} {size : Nat} {n : Fetch × Loop} (h : plain s size n) {f : State → Core → Act} {c' : Core} {post : Core → Core}
    {fx : State → State} (hf : f s (s.core s.cur) = .done c' post fx) (hc : c'.fetch = (s.core s.cur).fetch) :
    smith s size .plain f = .next (fx (s.setCore s.cur (post ((c'.moved s.now n.1 n.2).stepped (s.core s.cur))))) := by
  obtain ⟨h1, h2⟩ := h
  obtain ⟨hr, hl⟩ := runs_iff.1 h1
  unfold smith perform
  simp only [hr, hl, hf, if_true, Bool.false_eq_true, if_false]
  rw [finishPos_ok (n := n)]
  simpa [hc, leads] using h2

/-- A plain position that completes and changes its own core alone. -/
theorem smith_ok {s : State} {size : Nat} {n : Fetch × Loop} (h : plain s size n) {f : State → Core → Act} {c' : Core}
    (hf : f s (s.core s.cur) = .ok c') (hc : c'.fetch = (s.core s.cur).fetch) : smith s size .plain f = .next (after s c' n) :=
  smith_done h hf hc

/-- A transfer taken. -/
theorem smith_jump {s : State} {size : Nat} {n : Fetch × Loop} {t : Nat} (h : runs s size .transfer = true) {f : State → Core → Act} {c' : Core}
    (hf : f s (s.core s.cur) = .jump c' t) (hn : leads s c'.fetch.slots (some t) n) : smith s size .transfer f = .next (after s c' n) := by
  obtain ⟨hr, hl⟩ := runs_iff.1 h
  unfold smith perform
  simp only [hr, hl, hf, if_true, Bool.false_eq_true, if_false]
  rw [finishPos_ok (n := n) (by simpa [leads] using hn)]; rfl

/-- A branch not taken. -/
theorem smith_fallen {s : State} {size : Nat} {n : Fetch × Loop} (h : runs s size .transfer = true) {f : State → Core → Act} {c' : Core}
    (hf : f s (s.core s.cur) = .ok c') (hn : leads s c'.fetch.slots none n) : smith s size .transfer f = .next (after s c' n) := by
  obtain ⟨hr, hl⟩ := runs_iff.1 h
  unfold smith perform
  simp only [hr, hl, hf, Act.ok, if_true, Bool.false_eq_true, if_false]
  rw [finishPos_ok (n := n) (by simpa [leads] using hn)]; rfl

/-- A position that halts: a stall or a fault. -/
theorem smith_halt {s : State} {size : Nat} {k : PosKind} (h : runs s size k = true) {f : State → Core → Act} {x : Halt}
    (hf : f s (s.core s.cur) = .halt x) : smith s size k f = .next (s.halted x) := by
  obtain ⟨hr, hl⟩ := runs_iff.1 h
  unfold smith perform
  simp [hr, hl, hf]

/-! ### Shapes of scalar instructions -/

/-- A two-source scalar instruction that can be performed. -/
theorem scalar2_completes {s : State} {size d a b : Nat} {x y : Word} {c' : Core} {n : Fetch × Loop} (hp : plain s size n)
    (hr : reads (s.core s.cur) [a, b] [] d [x, y] c') (l : Nat) (op : Word → Word → Word) :
    scalar2 size d a b l op s = .next (after s (c'.push d (op x y) (s.now + l)) n) :=
  smith_ok hp (f := fun s c => with2 c a b [] d fun c x y => pushed s c d (op x y) l) (with2_of_reads hr _) (by rw [Core.push_fetch, reads_fetch hr])

/-- A one-source scalar instruction that can be performed. -/
theorem scalar1_completes {s : State} {size d a : Nat} {x : Word} {c' : Core} {n : Fetch × Loop} (hp : plain s size n)
    (hr : reads (s.core s.cur) [a] [] d [x] c') (l : Nat) (op : Word → Word) :
    scalar1 size d a l op s = .next (after s (c'.push d (op x) (s.now + l)) n) :=
  smith_ok hp (f := fun s c => with1 c a [] d fun c x => pushed s c d (op x) l) (with1_of_reads hr _) (by rw [Core.push_fetch, reads_fetch hr])

/-- A constant that can be pushed. -/
theorem scalar0_completes {s : State} {size d : Nat} {c' : Core} {n : Fetch × Loop} (hp : plain s size n)
    (hr : reads (s.core s.cur) [] [] d [] c') (v : Word) : scalar0 size d v s = .next (after s (c'.push d v (s.now + 1)) n) :=
  smith_ok hp (f := fun s c => with0 c [] d fun c => pushed s c d v 1) (with0_of_reads hr _) (by rw [Core.push_fetch, reads_fetch hr])

/-! ### Soft errors -/

theorem State.setCore_memWf {s : State} {l : CoreId} {c : Core} (h : s.memWf) (hc : c.ember.mem.wf = true ∧ c.sram.wf = true) :
    (s.setCore l c).memWf := by
  refine ⟨h.1, fun m => ?_, h.2.2⟩
  by_cases e : m = l
  · subst e; rw [State.core_setCore]; exact hc
  · rw [State.core_setCore_ne _ _ _ _ e]; exact h.2.1 m

theorem Core.count_mems {c : Core} (i n : Nat) (h : c.ember.mem.wf = true ∧ c.sram.wf = true) :
    (c.count i n).ember.mem.wf = true ∧ (c.count i n).sram.wf = true := by
  unfold Core.count; split <;> exact h

theorem State.countDie_memWf {s : State} (d : DieId) (i : Nat) (h : s.memWf) : (s.countDie d i).memWf := by
  unfold State.countDie
  induction coresOf d generalizing s with
  | nil => exact h
  | cons l t ih => exact ih (State.setCore_memWf h (Core.count_mems i 1 (h.2.1 l)))

theorem State.dieError_memWf {s : State} (d : DieId) (h : s.memWf) : (s.dieError d).memWf := by
  by_cases hv : (s.die d).volt = 0
  · simpa only [State.dieError, hv, if_true] using h
  · simp only [State.dieError, hv, if_false]
    exact State.countDie_memWf _ _ ⟨h.1, h.2.1, h.2.2⟩

/-- A soft error keeps the canonical form of every memory: it marks words and changes no byte. -/
theorem State.suffer_memWf {s : State} (u : Upset) (h : s.memWf) : (s.suffer u).memWf := by
  cases u with
  | word c sram off double =>
    cases sram with
    | false =>
      simp only [State.suffer, State.strike]
      split
      · exact h
      · cases double
        · exact State.setCore_memWf h (h.2.1 c)
        · exact State.dieError_memWf _ (State.setCore_memWf h (h.2.1 c))
    | true =>
      simp only [State.suffer]
      split
      · exact State.dieError_memWf _ (State.setCore_memWf h (h.2.1 c))
      · exact State.setCore_memWf h (h.2.1 c)
  | hbm a double =>
    simp only [State.suffer]
    split
    · exact h
    · refine ⟨?_, h.2.1, h.2.2⟩; cases double <;> exact h.1
  | read c e => exact State.setCore_memWf h (h.2.1 c)
  | slot c v i double | tile c j word double =>
    cases double
    · exact State.setCore_memWf h (h.2.1 c)
    · exact State.dieError_memWf _ (State.setCore_memWf h (h.2.1 c))
  | result c i => exact State.dieError_memWf _ (State.setCore_memWf h (h.2.1 c))
  | feed c f i =>
    refine State.dieError_memWf _ (State.setCore_memWf h ?_)
    dsimp only
    split <;> exact h.2.1 c
  | command c e i => exact State.dieError_memWf _ (State.setCore_memWf h (h.2.1 c))
  | descriptor c n bit => exact State.dieError_memWf _ (State.setCore_memWf h (h.2.1 c))
  | adder c => exact State.dieError_memWf _ (State.setCore_memWf h (h.2.1 c))
  | silent p => exact ⟨h.1, h.2.1, h.2.2⟩

end Sys2Proof.Machine
end

