-- ==== Sys2Proof/Laws/PerInstr.lean ====
section
/-! SUPPORT. The family Encoding: the word of each instruction, as the encoder writes it, decodes to that instruction. One lemma per constructor. -/

namespace Sys2Proof.Laws

set_option Elab.async false

/-- An instruction row's word fits its size, has the size its first parcel says (R77), and decodes to the instruction. An event has no word. -/
def Encoding.Statement (i : Instr) : Prop :=
  (encode i).1 = 0 ∨
  ((encode i).2 < 2 ^ (encode i).1 ∧ (encode i).1 = sizeOfParcel (encode i).2 ∧ decode (encode i).2 = .instr i)

theorem word_nil (n m : Nat) : word n m [] = (n, m) := rfl

theorem word_cons (n m lo v : Nat) (l : List (Nat × Nat)) : word n m ((lo, v) :: l) = word n (m + v * 2 ^ lo) l := rfl

/-- Fields side by side from bit 0 up, each a width and a value. -/
def pack : List (Nat × Nat) → Nat
  | [] => 0
  | (w, v) :: t => v + 2 ^ w * pack t

/-- Every value fits its width. -/
def fits : List (Nat × Nat) → Prop
  | [] => True
  | (w, v) :: t => v < 2 ^ w ∧ fits t

theorem pack_lt : ∀ (l : List (Nat × Nat)), fits l → pack l < 2 ^ (l.map (·.1)).sum
  | [], _ => by simp [pack]
  | (w, v) :: t, h => by
    have hv : v < 2 ^ w := h.1
    have ht : pack t + 1 ≤ 2 ^ (t.map (·.1)).sum := pack_lt t h.2
    have := Nat.mul_le_mul_left (2 ^ w) ht
    simp only [pack, List.map_cons, List.sum_cons, Nat.pow_add]
    rw [Nat.mul_add, Nat.mul_one] at this
    omega

/-- A field is read back at its own place. -/
theorem pack_get : ∀ (l : List (Nat × Nat)), fits l → ∀ (k w v lo : Nat), l[k]? = some (w, v) → ((l.take k).map (·.1)).sum = lo →
    pack l / 2 ^ lo % 2 ^ w = v
  | [], _, k, w, v, lo, hk, _ => by simp at hk
  | (w0, v0) :: t, h, 0, w, v, lo, hk, hl => by
    simp at hk hl
    obtain ⟨rfl, rfl⟩ := hk
    subst hl
    rw [Nat.pow_zero, Nat.div_one, pack, Nat.add_mul_mod_self_left, Nat.mod_eq_of_lt h.1]
  | (w0, v0) :: t, h, k + 1, w, v, lo, hk, hl => by
    simp only [List.take_succ_cons, List.map_cons, List.sum_cons] at hl
    rw [← hl, Nat.pow_add, ← Nat.div_div_eq_div_mul, pack, Nat.add_mul_div_left _ _ (Nat.two_pow_pos w0), Nat.div_eq_of_lt h.1, Nat.zero_add]
    exact pack_get t h.2 k w v _ (by simpa using hk) rfl

theorem at_pack {n : Nat} (lo k : Nat) (l : List (Nat × Nat)) (h : fits l) (x : BitVec n) (hk : l[k]? = some (n, x.toNat))
    (hl : ((l.take k).map (·.1)).sum = lo) : at_ lo (pack l) = x := by
  apply BitVec.eq_of_toNat_eq; rw [at_, BitVec.toNat_ofNat, pack_get l h k n x.toNat lo hk hl]

theorem decodeRow_32 (w : Nat) (h : w < 2 ^ 32) (ho : w % 2 = 1) : decodeRow w = decodeRow32 w := by
  unfold decodeRow; rw [if_neg (by omega), Nat.mod_eq_of_lt h]

theorem decodeRow_16 (w : Nat) (h : w < 2 ^ 16) (ho : w % 2 = 0) : decodeRow w = decodeRow16 w := by
  unfold decodeRow; rw [if_pos ho, Nat.mod_eq_of_lt h]

theorem Encoding.of32 (i : Instr) (w : Nat) (e : encode i = (32, w)) (h : w < 2 ^ 32) {m : Nat} (hm : w % 2 ^ 7 = m) (ho : m % 2 = 1)
    (hr : decodeRow32 w = some i) : Encoding.Statement i := by
  have ho : w % 2 = 1 := by rw [← ho, ← hm, Nat.mod_mod_of_dvd _ (by decide)]
  refine .inr ?_
  have p : sizeOfParcel w = 32 := by unfold sizeOfParcel; rw [if_neg (by omega)]
  rw [e]
  refine ⟨h, p.symm, ?_⟩
  unfold decode
  rw [decodeRow_32 w h ho, hr]
  simp only [e, Nat.mod_eq_of_lt h, if_true]

theorem Encoding.of16 (i : Instr) (w : Nat) (e : encode i = (16, w)) (h : w < 2 ^ 16) {m : Nat} (hm : w % 2 ^ 5 = m) (ho : m % 2 = 0)
    (hr : decodeRow16 w = some i) : Encoding.Statement i := by
  have ho : w % 2 = 0 := by rw [← ho, ← hm, Nat.mod_mod_of_dvd _ (by decide)]
  refine .inr ?_
  have p : sizeOfParcel w = 16 := by unfold sizeOfParcel; rw [if_pos (by omega)]
  rw [e]
  refine ⟨h, p.symm, ?_⟩
  unfold decode
  rw [decodeRow_16 w h ho, hr]
  simp only [e, Nat.mod_eq_of_lt h, if_true]


theorem major_Blk (w : Nat) (h : w % 128 = 1) : decodeRow32 w = decodeBlk w := by
  unfold decodeRow32; rw [h]; rfl

theorem major_Sys (w : Nat) (h : w % 128 = 3) : decodeRow32 w = decodeSys w := by
  unfold decodeRow32; rw [h]; rfl

theorem major_Csr (w : Nat) (h : w % 128 = 7) : decodeRow32 w = decodeCsr w := by
  unfold decodeRow32; rw [h]; rfl

theorem major_Alu (w : Nat) (h : w % 128 = 9) : decodeRow32 w = decodeAlu w := by
  unfold decodeRow32; rw [h]; rfl

theorem major_Load (w : Nat) (h : w % 128 = 51) : decodeRow32 w = decodeLoad w := by
  unfold decodeRow32; rw [h]; rfl

theorem major_Store (w : Nat) (h : w % 128 = 53) : decodeRow32 w = decodeStore w := by
  unfold decodeRow32; rw [h]; rfl

theorem major_Fp (w : Nat) (h : w % 128 = 55) : decodeRow32 w = decodeFp w := by
  unfold decodeRow32; rw [h]; rfl

theorem major_VArith (w : Nat) (h : w % 128 = 57) : decodeRow32 w = decodeVArith w := by
  unfold decodeRow32; rw [h]; rfl

theorem major_VUnary (w : Nat) (h : w % 128 = 59) : decodeRow32 w = decodeVUnary w := by
  unfold decodeRow32; rw [h]; rfl

theorem major_VRed (w : Nat) (h : w % 128 = 61) : decodeRow32 w = decodeVRed w := by
  unfold decodeRow32; rw [h]; rfl

theorem major_VMem (w : Nat) (h : w % 128 = 63) : decodeRow32 w = decodeVMem w := by
  unfold decodeRow32; rw [h]; rfl

theorem major_Pred (w : Nat) (h : w % 128 = 65) : decodeRow32 w = decodePred w := by
  unfold decodeRow32; rw [h]; rfl

theorem major_Emb (w : Nat) (h : w % 128 = 67) : decodeRow32 w = decodeEmb w := by
  unfold decodeRow32; rw [h]; rfl

theorem major_Td (w : Nat) (h : w % 128 = 69) : decodeRow32 w = decodeTd w := by
  unfold decodeRow32; rw [h]; rfl

theorem major_Copy (w : Nat) (h : w % 128 = 71) : decodeRow32 w = decodeCopy w := by
  unfold decodeRow32; rw [h]; rfl

theorem major_Swage (w : Nat) (h : w % 128 = 73) : decodeRow32 w = decodeSwage w := by
  unfold decodeRow32; rw [h]; rfl

theorem major_RowMajor (w : Nat) (h : w % 128 = 75) : decodeRow32 w = decodeRowMajor w := by
  unfold decodeRow32; rw [h]; rfl

theorem major_MTile (w : Nat) (h : w % 128 = 79) : decodeRow32 w = decodeMTile w := by
  unfold decodeRow32; rw [h]; rfl

theorem major_Sync (w : Nat) (h : w % 128 = 81) : decodeRow32 w = decodeSync w := by
  unfold decodeRow32; rw [h]; rfl

theorem major_Pwr (w : Nat) (h : w % 128 = 83) : decodeRow32 w = decodePwr w := by
  unfold decodeRow32; rw [h]; rfl

theorem major_Link (w : Nat) (h : w % 128 = 85) : decodeRow32 w = decodeLink w := by
  unfold decodeRow32; rw [h]; rfl

theorem Encoding.BLK_IMMEDIATE (l : BitVec 10) (r : BitVec 12) : Encoding.Statement (.BLK_IMMEDIATE l r) := by
  have hf : fits [(7, 1), (10, l.toNat), (1, 0), (12, r.toNat), (2, 0)] := ⟨by decide, l.isLt, by decide, r.isLt, by decide, trivial⟩
  have he : encode (.BLK_IMMEDIATE l r) = (32, pack [(7, 1), (10, l.toNat), (1, 0), (12, r.toNat), (2, 0)]) := by
    rw [show encode (.BLK_IMMEDIATE l r) = word 32 1 [(7, l.toNat), (18, r.toNat)] from rfl, word_cons, word_cons, word_nil]; exact congrArg (Prod.mk 32) (by simp only [pack]; omega)
  have hm := pack_get _ hf 0 7 1 0 rfl rfl
  rw [Nat.pow_zero, Nat.div_one] at hm
  refine Encoding.of32 _ _ he (pack_lt _ hf) hm rfl ?_
  rw [major_Blk _ hm]; unfold decodeBlk; rw [show bitsAt (pack _) 17 1 = 0 from pack_get _ hf 2 1 0 17 rfl rfl]
  show some _ = _
  rw [at_pack 7 1 _ hf l rfl rfl, at_pack 18 3 _ hf r rfl rfl]

theorem Encoding.BLK_REGISTER (l : BitVec 10) (s : BitVec 6) : Encoding.Statement (.BLK_REGISTER l s) := by
  have hf : fits [(7, 1), (10, l.toNat), (1, 1), (6, s.toNat), (8, 0)] := ⟨by decide, l.isLt, by decide, s.isLt, by decide, trivial⟩
  have he : encode (.BLK_REGISTER l s) = (32, pack [(7, 1), (10, l.toNat), (1, 1), (6, s.toNat), (8, 0)]) := by
    rw [show encode (.BLK_REGISTER l s) = word 32 131073 [(7, l.toNat), (18, s.toNat)] from rfl, word_cons, word_cons, word_nil]; exact congrArg (Prod.mk 32) (by simp only [pack]; omega)
  have hm := pack_get _ hf 0 7 1 0 rfl rfl
  rw [Nat.pow_zero, Nat.div_one] at hm
  refine Encoding.of32 _ _ he (pack_lt _ hf) hm rfl ?_
  rw [major_Blk _ hm]; unfold decodeBlk; rw [show bitsAt (pack _) 17 1 = 1 from pack_get _ hf 2 1 1 17 rfl rfl]
  show some _ = _
  rw [at_pack 7 1 _ hf l rfl rfl, at_pack 18 3 _ hf s rfl rfl]

theorem Encoding.END : Encoding.Statement (.END) := by
  have hf : fits [(7, 3), (18, 0), (7, 0)] := ⟨by decide, by decide, by decide, trivial⟩
  have he : encode (.END) = (32, pack [(7, 3), (18, 0), (7, 0)]) := by
    rw [show encode (.END) = word 32 3 [] from rfl, word_nil]; exact congrArg (Prod.mk 32) (rfl)
  have hm := pack_get _ hf 0 7 3 0 rfl rfl
  rw [Nat.pow_zero, Nat.div_one] at hm
  refine Encoding.of32 _ _ he (pack_lt _ hf) hm rfl ?_
  rw [major_Sys _ hm]; unfold decodeSys; rw [show bitsAt (pack _) 25 7 = 0 from pack_get _ hf 2 7 0 25 rfl rfl]; rfl

theorem Encoding.YIELD : Encoding.Statement (.YIELD) := by
  have hf : fits [(7, 3), (18, 0), (7, 1)] := ⟨by decide, by decide, by decide, trivial⟩
  have he : encode (.YIELD) = (32, pack [(7, 3), (18, 0), (7, 1)]) := by
    rw [show encode (.YIELD) = word 32 33554435 [] from rfl, word_nil]; exact congrArg (Prod.mk 32) (rfl)
  have hm := pack_get _ hf 0 7 3 0 rfl rfl
  rw [Nat.pow_zero, Nat.div_one] at hm
  refine Encoding.of32 _ _ he (pack_lt _ hf) hm rfl ?_
  rw [major_Sys _ hm]; unfold decodeSys; rw [show bitsAt (pack _) 25 7 = 1 from pack_get _ hf 2 7 1 25 rfl rfl]; rfl

theorem Encoding.TRAP (d : BitVec 6) (a : BitVec 6) (b : BitVec 6) : Encoding.Statement (.TRAP d a b) := by
  have hf : fits [(7, 3), (6, d.toNat), (6, a.toNat), (6, b.toNat), (7, 2)] := ⟨by decide, d.isLt, a.isLt, b.isLt, by decide, trivial⟩
  have he : encode (.TRAP d a b) = (32, pack [(7, 3), (6, d.toNat), (6, a.toNat), (6, b.toNat), (7, 2)]) := by
    rw [show encode (.TRAP d a b) = word 32 67108867 [(7, d.toNat), (13, a.toNat), (19, b.toNat)] from rfl, word_cons, word_cons, word_cons, word_nil]; exact congrArg (Prod.mk 32) (by simp only [pack]; omega)
  have hm := pack_get _ hf 0 7 3 0 rfl rfl
  rw [Nat.pow_zero, Nat.div_one] at hm
  refine Encoding.of32 _ _ he (pack_lt _ hf) hm rfl ?_
  rw [major_Sys _ hm]; unfold decodeSys; rw [show bitsAt (pack _) 25 7 = 2 from pack_get _ hf 4 7 2 25 rfl rfl]
  show some _ = _
  rw [at_pack 7 1 _ hf d rfl rfl, at_pack 13 2 _ hf a rfl rfl, at_pack 19 3 _ hf b rfl rfl]

theorem Encoding.RETT : Encoding.Statement (.RETT) := by
  have hf : fits [(7, 3), (18, 0), (7, 3)] := ⟨by decide, by decide, by decide, trivial⟩
  have he : encode (.RETT) = (32, pack [(7, 3), (18, 0), (7, 3)]) := by
    rw [show encode (.RETT) = word 32 100663299 [] from rfl, word_nil]; exact congrArg (Prod.mk 32) (rfl)
  have hm := pack_get _ hf 0 7 3 0 rfl rfl
  rw [Nat.pow_zero, Nat.div_one] at hm
  refine Encoding.of32 _ _ he (pack_lt _ hf) hm rfl ?_
  rw [major_Sys _ hm]; unfold decodeSys; rw [show bitsAt (pack _) 25 7 = 3 from pack_get _ hf 2 7 3 25 rfl rfl]; rfl

theorem Encoding.BRK : Encoding.Statement (.BRK) := by
  have hf : fits [(7, 3), (18, 0), (7, 4)] := ⟨by decide, by decide, by decide, trivial⟩
  have he : encode (.BRK) = (32, pack [(7, 3), (18, 0), (7, 4)]) := by
    rw [show encode (.BRK) = word 32 134217731 [] from rfl, word_nil]; exact congrArg (Prod.mk 32) (rfl)
  have hm := pack_get _ hf 0 7 3 0 rfl rfl
  rw [Nat.pow_zero, Nat.div_one] at hm
  refine Encoding.of32 _ _ he (pack_lt _ hf) hm rfl ?_
  rw [major_Sys _ hm]; unfold decodeSys; rw [show bitsAt (pack _) 25 7 = 4 from pack_get _ hf 2 7 4 25 rfl rfl]; rfl

theorem Encoding.FENCE (a : BitVec 6) : Encoding.Statement (.FENCE a) := by
  have hf : fits [(7, 3), (6, 0), (6, a.toNat), (6, 0), (7, 5)] := ⟨by decide, by decide, a.isLt, by decide, by decide, trivial⟩
  have he : encode (.FENCE a) = (32, pack [(7, 3), (6, 0), (6, a.toNat), (6, 0), (7, 5)]) := by
    rw [show encode (.FENCE a) = word 32 167772163 [(13, a.toNat)] from rfl, word_cons, word_nil]; exact congrArg (Prod.mk 32) (by simp only [pack]; omega)
  have hm := pack_get _ hf 0 7 3 0 rfl rfl
  rw [Nat.pow_zero, Nat.div_one] at hm
  refine Encoding.of32 _ _ he (pack_lt _ hf) hm rfl ?_
  rw [major_Sys _ hm]; unfold decodeSys; rw [show bitsAt (pack _) 25 7 = 5 from pack_get _ hf 4 7 5 25 rfl rfl]
  show some _ = _
  rw [at_pack 13 2 _ hf a rfl rfl]

theorem Encoding.SEQW (a : BitVec 6) (b : BitVec 6) : Encoding.Statement (.SEQW a b) := by
  have hf : fits [(7, 3), (6, 0), (6, a.toNat), (6, b.toNat), (7, 6)] := ⟨by decide, by decide, a.isLt, b.isLt, by decide, trivial⟩
  have he : encode (.SEQW a b) = (32, pack [(7, 3), (6, 0), (6, a.toNat), (6, b.toNat), (7, 6)]) := by
    rw [show encode (.SEQW a b) = word 32 201326595 [(13, a.toNat), (19, b.toNat)] from rfl, word_cons, word_cons, word_nil]; exact congrArg (Prod.mk 32) (by simp only [pack]; omega)
  have hm := pack_get _ hf 0 7 3 0 rfl rfl
  rw [Nat.pow_zero, Nat.div_one] at hm
  refine Encoding.of32 _ _ he (pack_lt _ hf) hm rfl ?_
  rw [major_Sys _ hm]; unfold decodeSys; rw [show bitsAt (pack _) 25 7 = 6 from pack_get _ hf 4 7 6 25 rfl rfl]
  show some _ = _
  rw [at_pack 13 2 _ hf a rfl rfl, at_pack 19 3 _ hf b rfl rfl]

theorem Encoding.WAITV (c : BitVec 3) (a : BitVec 6) (b : BitVec 6) : Encoding.Statement (.WAITV c a b) := by
  have hf : fits [(7, 3), (3, c.toNat), (3, 0), (6, a.toNat), (6, b.toNat), (7, 7)] := ⟨by decide, c.isLt, by decide, a.isLt, b.isLt, by decide, trivial⟩
  have he : encode (.WAITV c a b) = (32, pack [(7, 3), (3, c.toNat), (3, 0), (6, a.toNat), (6, b.toNat), (7, 7)]) := by
    rw [show encode (.WAITV c a b) = word 32 234881027 [(7, c.toNat), (13, a.toNat), (19, b.toNat)] from rfl, word_cons, word_cons, word_cons, word_nil]; exact congrArg (Prod.mk 32) (by simp only [pack]; omega)
  have hm := pack_get _ hf 0 7 3 0 rfl rfl
  rw [Nat.pow_zero, Nat.div_one] at hm
  refine Encoding.of32 _ _ he (pack_lt _ hf) hm rfl ?_
  rw [major_Sys _ hm]; unfold decodeSys; rw [show bitsAt (pack _) 25 7 = 7 from pack_get _ hf 5 7 7 25 rfl rfl]
  show some _ = _
  rw [at_pack 7 1 _ hf c rfl rfl, at_pack 13 3 _ hf a rfl rfl, at_pack 19 4 _ hf b rfl rfl]

theorem Encoding.NOP : Encoding.Statement (.NOP) := by
  have hf : fits [(7, 3), (18, 0), (7, 8)] := ⟨by decide, by decide, by decide, trivial⟩
  have he : encode (.NOP) = (32, pack [(7, 3), (18, 0), (7, 8)]) := by
    rw [show encode (.NOP) = word 32 268435459 [] from rfl, word_nil]; exact congrArg (Prod.mk 32) (rfl)
  have hm := pack_get _ hf 0 7 3 0 rfl rfl
  rw [Nat.pow_zero, Nat.div_one] at hm
  refine Encoding.of32 _ _ he (pack_lt _ hf) hm rfl ?_
  rw [major_Sys _ hm]; unfold decodeSys; rw [show bitsAt (pack _) 25 7 = 8 from pack_get _ hf 2 7 8 25 rfl rfl]; rfl

theorem Encoding.WAIT (l : BitVec 6) (s : BitVec 6) (c : BitVec 6) (t : BitVec 6) : Encoding.Statement (.WAIT l s c t) := by
  have hf : fits [(7, 5), (6, l.toNat), (6, s.toNat), (6, c.toNat), (6, t.toNat), (1, 0)] := ⟨by decide, l.isLt, s.isLt, c.isLt, t.isLt, by decide, trivial⟩
  have he : encode (.WAIT l s c t) = (32, pack [(7, 5), (6, l.toNat), (6, s.toNat), (6, c.toNat), (6, t.toNat), (1, 0)]) := by
    rw [show encode (.WAIT l s c t) = word 32 5 [(7, l.toNat), (13, s.toNat), (19, c.toNat), (25, t.toNat)] from rfl, word_cons, word_cons, word_cons, word_cons, word_nil]; exact congrArg (Prod.mk 32) (by simp only [pack]; omega)
  have hm := pack_get _ hf 0 7 5 0 rfl rfl
  rw [Nat.pow_zero, Nat.div_one] at hm
  refine Encoding.of32 _ _ he (pack_lt _ hf) hm rfl ?_
  unfold decodeRow32; rw [show pack _ % 128 = 5 from hm]
  show some _ = _
  rw [at_pack 7 1 _ hf l rfl rfl, at_pack 13 2 _ hf s rfl rfl, at_pack 19 3 _ hf c rfl rfl, at_pack 25 4 _ hf t rfl rfl]

theorem Encoding.CSRR (d : BitVec 6) (c : BitVec 11) : Encoding.Statement (.CSRR d c) := by
  have hf : fits [(7, 7), (6, d.toNat), (6, 0), (11, c.toNat), (2, 0)] := ⟨by decide, d.isLt, by decide, c.isLt, by decide, trivial⟩
  have he : encode (.CSRR d c) = (32, pack [(7, 7), (6, d.toNat), (6, 0), (11, c.toNat), (2, 0)]) := by
    rw [show encode (.CSRR d c) = word 32 7 [(7, d.toNat), (19, c.toNat)] from rfl, word_cons, word_cons, word_nil]; exact congrArg (Prod.mk 32) (by simp only [pack]; omega)
  have hm := pack_get _ hf 0 7 7 0 rfl rfl
  rw [Nat.pow_zero, Nat.div_one] at hm
  refine Encoding.of32 _ _ he (pack_lt _ hf) hm rfl ?_
  rw [major_Csr _ hm]; unfold decodeCsr; rw [show bitsAt (pack _) 30 2 = 0 from pack_get _ hf 4 2 0 30 rfl rfl]
  show some _ = _
  rw [at_pack 7 1 _ hf d rfl rfl, at_pack 19 3 _ hf c rfl rfl]

theorem Encoding.CSRW (d : BitVec 6) (a : BitVec 6) (c : BitVec 11) : Encoding.Statement (.CSRW d a c) := by
  have hf : fits [(7, 7), (6, d.toNat), (6, a.toNat), (11, c.toNat), (2, 1)] := ⟨by decide, d.isLt, a.isLt, c.isLt, by decide, trivial⟩
  have he : encode (.CSRW d a c) = (32, pack [(7, 7), (6, d.toNat), (6, a.toNat), (11, c.toNat), (2, 1)]) := by
    rw [show encode (.CSRW d a c) = word 32 1073741831 [(7, d.toNat), (13, a.toNat), (19, c.toNat)] from rfl, word_cons, word_cons, word_cons, word_nil]; exact congrArg (Prod.mk 32) (by simp only [pack]; omega)
  have hm := pack_get _ hf 0 7 7 0 rfl rfl
  rw [Nat.pow_zero, Nat.div_one] at hm
  refine Encoding.of32 _ _ he (pack_lt _ hf) hm rfl ?_
  rw [major_Csr _ hm]; unfold decodeCsr; rw [show bitsAt (pack _) 30 2 = 1 from pack_get _ hf 4 2 1 30 rfl rfl]
  show some _ = _
  rw [at_pack 7 1 _ hf d rfl rfl, at_pack 13 2 _ hf a rfl rfl, at_pack 19 3 _ hf c rfl rfl]

theorem Encoding.CSRS (d : BitVec 6) (a : BitVec 6) (c : BitVec 11) : Encoding.Statement (.CSRS d a c) := by
  have hf : fits [(7, 7), (6, d.toNat), (6, a.toNat), (11, c.toNat), (2, 2)] := ⟨by decide, d.isLt, a.isLt, c.isLt, by decide, trivial⟩
  have he : encode (.CSRS d a c) = (32, pack [(7, 7), (6, d.toNat), (6, a.toNat), (11, c.toNat), (2, 2)]) := by
    rw [show encode (.CSRS d a c) = word 32 2147483655 [(7, d.toNat), (13, a.toNat), (19, c.toNat)] from rfl, word_cons, word_cons, word_cons, word_nil]; exact congrArg (Prod.mk 32) (by simp only [pack]; omega)
  have hm := pack_get _ hf 0 7 7 0 rfl rfl
  rw [Nat.pow_zero, Nat.div_one] at hm
  refine Encoding.of32 _ _ he (pack_lt _ hf) hm rfl ?_
  rw [major_Csr _ hm]; unfold decodeCsr; rw [show bitsAt (pack _) 30 2 = 2 from pack_get _ hf 4 2 2 30 rfl rfl]
  show some _ = _
  rw [at_pack 7 1 _ hf d rfl rfl, at_pack 13 2 _ hf a rfl rfl, at_pack 19 3 _ hf c rfl rfl]

theorem Encoding.CSRC (d : BitVec 6) (a : BitVec 6) (c : BitVec 11) : Encoding.Statement (.CSRC d a c) := by
  have hf : fits [(7, 7), (6, d.toNat), (6, a.toNat), (11, c.toNat), (2, 3)] := ⟨by decide, d.isLt, a.isLt, c.isLt, by decide, trivial⟩
  have he : encode (.CSRC d a c) = (32, pack [(7, 7), (6, d.toNat), (6, a.toNat), (11, c.toNat), (2, 3)]) := by
    rw [show encode (.CSRC d a c) = word 32 3221225479 [(7, d.toNat), (13, a.toNat), (19, c.toNat)] from rfl, word_cons, word_cons, word_cons, word_nil]; exact congrArg (Prod.mk 32) (by simp only [pack]; omega)
  have hm := pack_get _ hf 0 7 7 0 rfl rfl
  rw [Nat.pow_zero, Nat.div_one] at hm
  refine Encoding.of32 _ _ he (pack_lt _ hf) hm rfl ?_
  rw [major_Csr _ hm]; unfold decodeCsr; rw [show bitsAt (pack _) 30 2 = 3 from pack_get _ hf 4 2 3 30 rfl rfl]
  show some _ = _
  rw [at_pack 7 1 _ hf d rfl rfl, at_pack 13 2 _ hf a rfl rfl, at_pack 19 3 _ hf c rfl rfl]

theorem Encoding.ADD (d : BitVec 6) (a : BitVec 6) (b : BitVec 6) : Encoding.Statement (.ADD d a b) := by
  have hf : fits [(7, 9), (6, d.toNat), (6, a.toNat), (6, b.toNat), (7, 0)] := ⟨by decide, d.isLt, a.isLt, b.isLt, by decide, trivial⟩
  have he : encode (.ADD d a b) = (32, pack [(7, 9), (6, d.toNat), (6, a.toNat), (6, b.toNat), (7, 0)]) := by
    rw [show encode (.ADD d a b) = word 32 9 [(7, d.toNat), (13, a.toNat), (19, b.toNat)] from rfl, word_cons, word_cons, word_cons, word_nil]; exact congrArg (Prod.mk 32) (by simp only [pack]; omega)
  have hm := pack_get _ hf 0 7 9 0 rfl rfl
  rw [Nat.pow_zero, Nat.div_one] at hm
  refine Encoding.of32 _ _ he (pack_lt _ hf) hm rfl ?_
  rw [major_Alu _ hm]; unfold decodeAlu; rw [show bitsAt (pack _) 25 7 = 0 from pack_get _ hf 4 7 0 25 rfl rfl]
  show some _ = _
  rw [at_pack 7 1 _ hf d rfl rfl, at_pack 13 2 _ hf a rfl rfl, at_pack 19 3 _ hf b rfl rfl]

theorem Encoding.SUB (d : BitVec 6) (a : BitVec 6) (b : BitVec 6) : Encoding.Statement (.SUB d a b) := by
  have hf : fits [(7, 9), (6, d.toNat), (6, a.toNat), (6, b.toNat), (7, 1)] := ⟨by decide, d.isLt, a.isLt, b.isLt, by decide, trivial⟩
  have he : encode (.SUB d a b) = (32, pack [(7, 9), (6, d.toNat), (6, a.toNat), (6, b.toNat), (7, 1)]) := by
    rw [show encode (.SUB d a b) = word 32 33554441 [(7, d.toNat), (13, a.toNat), (19, b.toNat)] from rfl, word_cons, word_cons, word_cons, word_nil]; exact congrArg (Prod.mk 32) (by simp only [pack]; omega)
  have hm := pack_get _ hf 0 7 9 0 rfl rfl
  rw [Nat.pow_zero, Nat.div_one] at hm
  refine Encoding.of32 _ _ he (pack_lt _ hf) hm rfl ?_
  rw [major_Alu _ hm]; unfold decodeAlu; rw [show bitsAt (pack _) 25 7 = 1 from pack_get _ hf 4 7 1 25 rfl rfl]
  show some _ = _
  rw [at_pack 7 1 _ hf d rfl rfl, at_pack 13 2 _ hf a rfl rfl, at_pack 19 3 _ hf b rfl rfl]

theorem Encoding.MUL (d : BitVec 6) (a : BitVec 6) (b : BitVec 6) : Encoding.Statement (.MUL d a b) := by
  have hf : fits [(7, 9), (6, d.toNat), (6, a.toNat), (6, b.toNat), (7, 2)] := ⟨by decide, d.isLt, a.isLt, b.isLt, by decide, trivial⟩
  have he : encode (.MUL d a b) = (32, pack [(7, 9), (6, d.toNat), (6, a.toNat), (6, b.toNat), (7, 2)]) := by
    rw [show encode (.MUL d a b) = word 32 67108873 [(7, d.toNat), (13, a.toNat), (19, b.toNat)] from rfl, word_cons, word_cons, word_cons, word_nil]; exact congrArg (Prod.mk 32) (by simp only [pack]; omega)
  have hm := pack_get _ hf 0 7 9 0 rfl rfl
  rw [Nat.pow_zero, Nat.div_one] at hm
  refine Encoding.of32 _ _ he (pack_lt _ hf) hm rfl ?_
  rw [major_Alu _ hm]; unfold decodeAlu; rw [show bitsAt (pack _) 25 7 = 2 from pack_get _ hf 4 7 2 25 rfl rfl]
  show some _ = _
  rw [at_pack 7 1 _ hf d rfl rfl, at_pack 13 2 _ hf a rfl rfl, at_pack 19 3 _ hf b rfl rfl]

theorem Encoding.MULH (d : BitVec 6) (a : BitVec 6) (b : BitVec 6) : Encoding.Statement (.MULH d a b) := by
  have hf : fits [(7, 9), (6, d.toNat), (6, a.toNat), (6, b.toNat), (7, 3)] := ⟨by decide, d.isLt, a.isLt, b.isLt, by decide, trivial⟩
  have he : encode (.MULH d a b) = (32, pack [(7, 9), (6, d.toNat), (6, a.toNat), (6, b.toNat), (7, 3)]) := by
    rw [show encode (.MULH d a b) = word 32 100663305 [(7, d.toNat), (13, a.toNat), (19, b.toNat)] from rfl, word_cons, word_cons, word_cons, word_nil]; exact congrArg (Prod.mk 32) (by simp only [pack]; omega)
  have hm := pack_get _ hf 0 7 9 0 rfl rfl
  rw [Nat.pow_zero, Nat.div_one] at hm
  refine Encoding.of32 _ _ he (pack_lt _ hf) hm rfl ?_
  rw [major_Alu _ hm]; unfold decodeAlu; rw [show bitsAt (pack _) 25 7 = 3 from pack_get _ hf 4 7 3 25 rfl rfl]
  show some _ = _
  rw [at_pack 7 1 _ hf d rfl rfl, at_pack 13 2 _ hf a rfl rfl, at_pack 19 3 _ hf b rfl rfl]

theorem Encoding.MULHU (d : BitVec 6) (a : BitVec 6) (b : BitVec 6) : Encoding.Statement (.MULHU d a b) := by
  have hf : fits [(7, 9), (6, d.toNat), (6, a.toNat), (6, b.toNat), (7, 4)] := ⟨by decide, d.isLt, a.isLt, b.isLt, by decide, trivial⟩
  have he : encode (.MULHU d a b) = (32, pack [(7, 9), (6, d.toNat), (6, a.toNat), (6, b.toNat), (7, 4)]) := by
    rw [show encode (.MULHU d a b) = word 32 134217737 [(7, d.toNat), (13, a.toNat), (19, b.toNat)] from rfl, word_cons, word_cons, word_cons, word_nil]; exact congrArg (Prod.mk 32) (by simp only [pack]; omega)
  have hm := pack_get _ hf 0 7 9 0 rfl rfl
  rw [Nat.pow_zero, Nat.div_one] at hm
  refine Encoding.of32 _ _ he (pack_lt _ hf) hm rfl ?_
  rw [major_Alu _ hm]; unfold decodeAlu; rw [show bitsAt (pack _) 25 7 = 4 from pack_get _ hf 4 7 4 25 rfl rfl]
  show some _ = _
  rw [at_pack 7 1 _ hf d rfl rfl, at_pack 13 2 _ hf a rfl rfl, at_pack 19 3 _ hf b rfl rfl]

theorem Encoding.DIV (d : BitVec 6) (a : BitVec 6) (b : BitVec 6) : Encoding.Statement (.DIV d a b) := by
  have hf : fits [(7, 9), (6, d.toNat), (6, a.toNat), (6, b.toNat), (7, 5)] := ⟨by decide, d.isLt, a.isLt, b.isLt, by decide, trivial⟩
  have he : encode (.DIV d a b) = (32, pack [(7, 9), (6, d.toNat), (6, a.toNat), (6, b.toNat), (7, 5)]) := by
    rw [show encode (.DIV d a b) = word 32 167772169 [(7, d.toNat), (13, a.toNat), (19, b.toNat)] from rfl, word_cons, word_cons, word_cons, word_nil]; exact congrArg (Prod.mk 32) (by simp only [pack]; omega)
  have hm := pack_get _ hf 0 7 9 0 rfl rfl
  rw [Nat.pow_zero, Nat.div_one] at hm
  refine Encoding.of32 _ _ he (pack_lt _ hf) hm rfl ?_
  rw [major_Alu _ hm]; unfold decodeAlu; rw [show bitsAt (pack _) 25 7 = 5 from pack_get _ hf 4 7 5 25 rfl rfl]
  show some _ = _
  rw [at_pack 7 1 _ hf d rfl rfl, at_pack 13 2 _ hf a rfl rfl, at_pack 19 3 _ hf b rfl rfl]

theorem Encoding.DIVU (d : BitVec 6) (a : BitVec 6) (b : BitVec 6) : Encoding.Statement (.DIVU d a b) := by
  have hf : fits [(7, 9), (6, d.toNat), (6, a.toNat), (6, b.toNat), (7, 6)] := ⟨by decide, d.isLt, a.isLt, b.isLt, by decide, trivial⟩
  have he : encode (.DIVU d a b) = (32, pack [(7, 9), (6, d.toNat), (6, a.toNat), (6, b.toNat), (7, 6)]) := by
    rw [show encode (.DIVU d a b) = word 32 201326601 [(7, d.toNat), (13, a.toNat), (19, b.toNat)] from rfl, word_cons, word_cons, word_cons, word_nil]; exact congrArg (Prod.mk 32) (by simp only [pack]; omega)
  have hm := pack_get _ hf 0 7 9 0 rfl rfl
  rw [Nat.pow_zero, Nat.div_one] at hm
  refine Encoding.of32 _ _ he (pack_lt _ hf) hm rfl ?_
  rw [major_Alu _ hm]; unfold decodeAlu; rw [show bitsAt (pack _) 25 7 = 6 from pack_get _ hf 4 7 6 25 rfl rfl]
  show some _ = _
  rw [at_pack 7 1 _ hf d rfl rfl, at_pack 13 2 _ hf a rfl rfl, at_pack 19 3 _ hf b rfl rfl]

theorem Encoding.REM (d : BitVec 6) (a : BitVec 6) (b : BitVec 6) : Encoding.Statement (.REM d a b) := by
  have hf : fits [(7, 9), (6, d.toNat), (6, a.toNat), (6, b.toNat), (7, 7)] := ⟨by decide, d.isLt, a.isLt, b.isLt, by decide, trivial⟩
  have he : encode (.REM d a b) = (32, pack [(7, 9), (6, d.toNat), (6, a.toNat), (6, b.toNat), (7, 7)]) := by
    rw [show encode (.REM d a b) = word 32 234881033 [(7, d.toNat), (13, a.toNat), (19, b.toNat)] from rfl, word_cons, word_cons, word_cons, word_nil]; exact congrArg (Prod.mk 32) (by simp only [pack]; omega)
  have hm := pack_get _ hf 0 7 9 0 rfl rfl
  rw [Nat.pow_zero, Nat.div_one] at hm
  refine Encoding.of32 _ _ he (pack_lt _ hf) hm rfl ?_
  rw [major_Alu _ hm]; unfold decodeAlu; rw [show bitsAt (pack _) 25 7 = 7 from pack_get _ hf 4 7 7 25 rfl rfl]
  show some _ = _
  rw [at_pack 7 1 _ hf d rfl rfl, at_pack 13 2 _ hf a rfl rfl, at_pack 19 3 _ hf b rfl rfl]

theorem Encoding.REMU (d : BitVec 6) (a : BitVec 6) (b : BitVec 6) : Encoding.Statement (.REMU d a b) := by
  have hf : fits [(7, 9), (6, d.toNat), (6, a.toNat), (6, b.toNat), (7, 8)] := ⟨by decide, d.isLt, a.isLt, b.isLt, by decide, trivial⟩
  have he : encode (.REMU d a b) = (32, pack [(7, 9), (6, d.toNat), (6, a.toNat), (6, b.toNat), (7, 8)]) := by
    rw [show encode (.REMU d a b) = word 32 268435465 [(7, d.toNat), (13, a.toNat), (19, b.toNat)] from rfl, word_cons, word_cons, word_cons, word_nil]; exact congrArg (Prod.mk 32) (by simp only [pack]; omega)
  have hm := pack_get _ hf 0 7 9 0 rfl rfl
  rw [Nat.pow_zero, Nat.div_one] at hm
  refine Encoding.of32 _ _ he (pack_lt _ hf) hm rfl ?_
  rw [major_Alu _ hm]; unfold decodeAlu; rw [show bitsAt (pack _) 25 7 = 8 from pack_get _ hf 4 7 8 25 rfl rfl]
  show some _ = _
  rw [at_pack 7 1 _ hf d rfl rfl, at_pack 13 2 _ hf a rfl rfl, at_pack 19 3 _ hf b rfl rfl]

theorem Encoding.AND (d : BitVec 6) (a : BitVec 6) (b : BitVec 6) : Encoding.Statement (.AND d a b) := by
  have hf : fits [(7, 9), (6, d.toNat), (6, a.toNat), (6, b.toNat), (7, 9)] := ⟨by decide, d.isLt, a.isLt, b.isLt, by decide, trivial⟩
  have he : encode (.AND d a b) = (32, pack [(7, 9), (6, d.toNat), (6, a.toNat), (6, b.toNat), (7, 9)]) := by
    rw [show encode (.AND d a b) = word 32 301989897 [(7, d.toNat), (13, a.toNat), (19, b.toNat)] from rfl, word_cons, word_cons, word_cons, word_nil]; exact congrArg (Prod.mk 32) (by simp only [pack]; omega)
  have hm := pack_get _ hf 0 7 9 0 rfl rfl
  rw [Nat.pow_zero, Nat.div_one] at hm
  refine Encoding.of32 _ _ he (pack_lt _ hf) hm rfl ?_
  rw [major_Alu _ hm]; unfold decodeAlu; rw [show bitsAt (pack _) 25 7 = 9 from pack_get _ hf 4 7 9 25 rfl rfl]
  show some _ = _
  rw [at_pack 7 1 _ hf d rfl rfl, at_pack 13 2 _ hf a rfl rfl, at_pack 19 3 _ hf b rfl rfl]

theorem Encoding.OR (d : BitVec 6) (a : BitVec 6) (b : BitVec 6) : Encoding.Statement (.OR d a b) := by
  have hf : fits [(7, 9), (6, d.toNat), (6, a.toNat), (6, b.toNat), (7, 10)] := ⟨by decide, d.isLt, a.isLt, b.isLt, by decide, trivial⟩
  have he : encode (.OR d a b) = (32, pack [(7, 9), (6, d.toNat), (6, a.toNat), (6, b.toNat), (7, 10)]) := by
    rw [show encode (.OR d a b) = word 32 335544329 [(7, d.toNat), (13, a.toNat), (19, b.toNat)] from rfl, word_cons, word_cons, word_cons, word_nil]; exact congrArg (Prod.mk 32) (by simp only [pack]; omega)
  have hm := pack_get _ hf 0 7 9 0 rfl rfl
  rw [Nat.pow_zero, Nat.div_one] at hm
  refine Encoding.of32 _ _ he (pack_lt _ hf) hm rfl ?_
  rw [major_Alu _ hm]; unfold decodeAlu; rw [show bitsAt (pack _) 25 7 = 10 from pack_get _ hf 4 7 10 25 rfl rfl]
  show some _ = _
  rw [at_pack 7 1 _ hf d rfl rfl, at_pack 13 2 _ hf a rfl rfl, at_pack 19 3 _ hf b rfl rfl]

theorem Encoding.XOR (d : BitVec 6) (a : BitVec 6) (b : BitVec 6) : Encoding.Statement (.XOR d a b) := by
  have hf : fits [(7, 9), (6, d.toNat), (6, a.toNat), (6, b.toNat), (7, 11)] := ⟨by decide, d.isLt, a.isLt, b.isLt, by decide, trivial⟩
  have he : encode (.XOR d a b) = (32, pack [(7, 9), (6, d.toNat), (6, a.toNat), (6, b.toNat), (7, 11)]) := by
    rw [show encode (.XOR d a b) = word 32 369098761 [(7, d.toNat), (13, a.toNat), (19, b.toNat)] from rfl, word_cons, word_cons, word_cons, word_nil]; exact congrArg (Prod.mk 32) (by simp only [pack]; omega)
  have hm := pack_get _ hf 0 7 9 0 rfl rfl
  rw [Nat.pow_zero, Nat.div_one] at hm
  refine Encoding.of32 _ _ he (pack_lt _ hf) hm rfl ?_
  rw [major_Alu _ hm]; unfold decodeAlu; rw [show bitsAt (pack _) 25 7 = 11 from pack_get _ hf 4 7 11 25 rfl rfl]
  show some _ = _
  rw [at_pack 7 1 _ hf d rfl rfl, at_pack 13 2 _ hf a rfl rfl, at_pack 19 3 _ hf b rfl rfl]

theorem Encoding.SHL (d : BitVec 6) (a : BitVec 6) (b : BitVec 6) : Encoding.Statement (.SHL d a b) := by
  have hf : fits [(7, 9), (6, d.toNat), (6, a.toNat), (6, b.toNat), (7, 12)] := ⟨by decide, d.isLt, a.isLt, b.isLt, by decide, trivial⟩
  have he : encode (.SHL d a b) = (32, pack [(7, 9), (6, d.toNat), (6, a.toNat), (6, b.toNat), (7, 12)]) := by
    rw [show encode (.SHL d a b) = word 32 402653193 [(7, d.toNat), (13, a.toNat), (19, b.toNat)] from rfl, word_cons, word_cons, word_cons, word_nil]; exact congrArg (Prod.mk 32) (by simp only [pack]; omega)
  have hm := pack_get _ hf 0 7 9 0 rfl rfl
  rw [Nat.pow_zero, Nat.div_one] at hm
  refine Encoding.of32 _ _ he (pack_lt _ hf) hm rfl ?_
  rw [major_Alu _ hm]; unfold decodeAlu; rw [show bitsAt (pack _) 25 7 = 12 from pack_get _ hf 4 7 12 25 rfl rfl]
  show some _ = _
  rw [at_pack 7 1 _ hf d rfl rfl, at_pack 13 2 _ hf a rfl rfl, at_pack 19 3 _ hf b rfl rfl]

theorem Encoding.SHR (d : BitVec 6) (a : BitVec 6) (b : BitVec 6) : Encoding.Statement (.SHR d a b) := by
  have hf : fits [(7, 9), (6, d.toNat), (6, a.toNat), (6, b.toNat), (7, 13)] := ⟨by decide, d.isLt, a.isLt, b.isLt, by decide, trivial⟩
  have he : encode (.SHR d a b) = (32, pack [(7, 9), (6, d.toNat), (6, a.toNat), (6, b.toNat), (7, 13)]) := by
    rw [show encode (.SHR d a b) = word 32 436207625 [(7, d.toNat), (13, a.toNat), (19, b.toNat)] from rfl, word_cons, word_cons, word_cons, word_nil]; exact congrArg (Prod.mk 32) (by simp only [pack]; omega)
  have hm := pack_get _ hf 0 7 9 0 rfl rfl
  rw [Nat.pow_zero, Nat.div_one] at hm
  refine Encoding.of32 _ _ he (pack_lt _ hf) hm rfl ?_
  rw [major_Alu _ hm]; unfold decodeAlu; rw [show bitsAt (pack _) 25 7 = 13 from pack_get _ hf 4 7 13 25 rfl rfl]
  show some _ = _
  rw [at_pack 7 1 _ hf d rfl rfl, at_pack 13 2 _ hf a rfl rfl, at_pack 19 3 _ hf b rfl rfl]

theorem Encoding.SHRA (d : BitVec 6) (a : BitVec 6) (b : BitVec 6) : Encoding.Statement (.SHRA d a b) := by
  have hf : fits [(7, 9), (6, d.toNat), (6, a.toNat), (6, b.toNat), (7, 14)] := ⟨by decide, d.isLt, a.isLt, b.isLt, by decide, trivial⟩
  have he : encode (.SHRA d a b) = (32, pack [(7, 9), (6, d.toNat), (6, a.toNat), (6, b.toNat), (7, 14)]) := by
    rw [show encode (.SHRA d a b) = word 32 469762057 [(7, d.toNat), (13, a.toNat), (19, b.toNat)] from rfl, word_cons, word_cons, word_cons, word_nil]; exact congrArg (Prod.mk 32) (by simp only [pack]; omega)
  have hm := pack_get _ hf 0 7 9 0 rfl rfl
  rw [Nat.pow_zero, Nat.div_one] at hm
  refine Encoding.of32 _ _ he (pack_lt _ hf) hm rfl ?_
  rw [major_Alu _ hm]; unfold decodeAlu; rw [show bitsAt (pack _) 25 7 = 14 from pack_get _ hf 4 7 14 25 rfl rfl]
  show some _ = _
  rw [at_pack 7 1 _ hf d rfl rfl, at_pack 13 2 _ hf a rfl rfl, at_pack 19 3 _ hf b rfl rfl]

theorem Encoding.MIN (d : BitVec 6) (a : BitVec 6) (b : BitVec 6) : Encoding.Statement (.MIN d a b) := by
  have hf : fits [(7, 9), (6, d.toNat), (6, a.toNat), (6, b.toNat), (7, 15)] := ⟨by decide, d.isLt, a.isLt, b.isLt, by decide, trivial⟩
  have he : encode (.MIN d a b) = (32, pack [(7, 9), (6, d.toNat), (6, a.toNat), (6, b.toNat), (7, 15)]) := by
    rw [show encode (.MIN d a b) = word 32 503316489 [(7, d.toNat), (13, a.toNat), (19, b.toNat)] from rfl, word_cons, word_cons, word_cons, word_nil]; exact congrArg (Prod.mk 32) (by simp only [pack]; omega)
  have hm := pack_get _ hf 0 7 9 0 rfl rfl
  rw [Nat.pow_zero, Nat.div_one] at hm
  refine Encoding.of32 _ _ he (pack_lt _ hf) hm rfl ?_
  rw [major_Alu _ hm]; unfold decodeAlu; rw [show bitsAt (pack _) 25 7 = 15 from pack_get _ hf 4 7 15 25 rfl rfl]
  show some _ = _
  rw [at_pack 7 1 _ hf d rfl rfl, at_pack 13 2 _ hf a rfl rfl, at_pack 19 3 _ hf b rfl rfl]

theorem Encoding.MAX (d : BitVec 6) (a : BitVec 6) (b : BitVec 6) : Encoding.Statement (.MAX d a b) := by
  have hf : fits [(7, 9), (6, d.toNat), (6, a.toNat), (6, b.toNat), (7, 16)] := ⟨by decide, d.isLt, a.isLt, b.isLt, by decide, trivial⟩
  have he : encode (.MAX d a b) = (32, pack [(7, 9), (6, d.toNat), (6, a.toNat), (6, b.toNat), (7, 16)]) := by
    rw [show encode (.MAX d a b) = word 32 536870921 [(7, d.toNat), (13, a.toNat), (19, b.toNat)] from rfl, word_cons, word_cons, word_cons, word_nil]; exact congrArg (Prod.mk 32) (by simp only [pack]; omega)
  have hm := pack_get _ hf 0 7 9 0 rfl rfl
  rw [Nat.pow_zero, Nat.div_one] at hm
  refine Encoding.of32 _ _ he (pack_lt _ hf) hm rfl ?_
  rw [major_Alu _ hm]; unfold decodeAlu; rw [show bitsAt (pack _) 25 7 = 16 from pack_get _ hf 4 7 16 25 rfl rfl]
  show some _ = _
  rw [at_pack 7 1 _ hf d rfl rfl, at_pack 13 2 _ hf a rfl rfl, at_pack 19 3 _ hf b rfl rfl]

theorem Encoding.MINU (d : BitVec 6) (a : BitVec 6) (b : BitVec 6) : Encoding.Statement (.MINU d a b) := by
  have hf : fits [(7, 9), (6, d.toNat), (6, a.toNat), (6, b.toNat), (7, 17)] := ⟨by decide, d.isLt, a.isLt, b.isLt, by decide, trivial⟩
  have he : encode (.MINU d a b) = (32, pack [(7, 9), (6, d.toNat), (6, a.toNat), (6, b.toNat), (7, 17)]) := by
    rw [show encode (.MINU d a b) = word 32 570425353 [(7, d.toNat), (13, a.toNat), (19, b.toNat)] from rfl, word_cons, word_cons, word_cons, word_nil]; exact congrArg (Prod.mk 32) (by simp only [pack]; omega)
  have hm := pack_get _ hf 0 7 9 0 rfl rfl
  rw [Nat.pow_zero, Nat.div_one] at hm
  refine Encoding.of32 _ _ he (pack_lt _ hf) hm rfl ?_
  rw [major_Alu _ hm]; unfold decodeAlu; rw [show bitsAt (pack _) 25 7 = 17 from pack_get _ hf 4 7 17 25 rfl rfl]
  show some _ = _
  rw [at_pack 7 1 _ hf d rfl rfl, at_pack 13 2 _ hf a rfl rfl, at_pack 19 3 _ hf b rfl rfl]

theorem Encoding.MAXU (d : BitVec 6) (a : BitVec 6) (b : BitVec 6) : Encoding.Statement (.MAXU d a b) := by
  have hf : fits [(7, 9), (6, d.toNat), (6, a.toNat), (6, b.toNat), (7, 18)] := ⟨by decide, d.isLt, a.isLt, b.isLt, by decide, trivial⟩
  have he : encode (.MAXU d a b) = (32, pack [(7, 9), (6, d.toNat), (6, a.toNat), (6, b.toNat), (7, 18)]) := by
    rw [show encode (.MAXU d a b) = word 32 603979785 [(7, d.toNat), (13, a.toNat), (19, b.toNat)] from rfl, word_cons, word_cons, word_cons, word_nil]; exact congrArg (Prod.mk 32) (by simp only [pack]; omega)
  have hm := pack_get _ hf 0 7 9 0 rfl rfl
  rw [Nat.pow_zero, Nat.div_one] at hm
  refine Encoding.of32 _ _ he (pack_lt _ hf) hm rfl ?_
  rw [major_Alu _ hm]; unfold decodeAlu; rw [show bitsAt (pack _) 25 7 = 18 from pack_get _ hf 4 7 18 25 rfl rfl]
  show some _ = _
  rw [at_pack 7 1 _ hf d rfl rfl, at_pack 13 2 _ hf a rfl rfl, at_pack 19 3 _ hf b rfl rfl]

theorem Encoding.CLZ (d : BitVec 6) (a : BitVec 6) : Encoding.Statement (.CLZ d a) := by
  have hf : fits [(7, 9), (6, d.toNat), (6, a.toNat), (6, 0), (7, 19)] := ⟨by decide, d.isLt, a.isLt, by decide, by decide, trivial⟩
  have he : encode (.CLZ d a) = (32, pack [(7, 9), (6, d.toNat), (6, a.toNat), (6, 0), (7, 19)]) := by
    rw [show encode (.CLZ d a) = word 32 637534217 [(7, d.toNat), (13, a.toNat)] from rfl, word_cons, word_cons, word_nil]; exact congrArg (Prod.mk 32) (by simp only [pack]; omega)
  have hm := pack_get _ hf 0 7 9 0 rfl rfl
  rw [Nat.pow_zero, Nat.div_one] at hm
  refine Encoding.of32 _ _ he (pack_lt _ hf) hm rfl ?_
  rw [major_Alu _ hm]; unfold decodeAlu; rw [show bitsAt (pack _) 25 7 = 19 from pack_get _ hf 4 7 19 25 rfl rfl]
  show some _ = _
  rw [at_pack 7 1 _ hf d rfl rfl, at_pack 13 2 _ hf a rfl rfl]

theorem Encoding.CTZ (d : BitVec 6) (a : BitVec 6) : Encoding.Statement (.CTZ d a) := by
  have hf : fits [(7, 9), (6, d.toNat), (6, a.toNat), (6, 0), (7, 20)] := ⟨by decide, d.isLt, a.isLt, by decide, by decide, trivial⟩
  have he : encode (.CTZ d a) = (32, pack [(7, 9), (6, d.toNat), (6, a.toNat), (6, 0), (7, 20)]) := by
    rw [show encode (.CTZ d a) = word 32 671088649 [(7, d.toNat), (13, a.toNat)] from rfl, word_cons, word_cons, word_nil]; exact congrArg (Prod.mk 32) (by simp only [pack]; omega)
  have hm := pack_get _ hf 0 7 9 0 rfl rfl
  rw [Nat.pow_zero, Nat.div_one] at hm
  refine Encoding.of32 _ _ he (pack_lt _ hf) hm rfl ?_
  rw [major_Alu _ hm]; unfold decodeAlu; rw [show bitsAt (pack _) 25 7 = 20 from pack_get _ hf 4 7 20 25 rfl rfl]
  show some _ = _
  rw [at_pack 7 1 _ hf d rfl rfl, at_pack 13 2 _ hf a rfl rfl]

theorem Encoding.POPC (d : BitVec 6) (a : BitVec 6) : Encoding.Statement (.POPC d a) := by
  have hf : fits [(7, 9), (6, d.toNat), (6, a.toNat), (6, 0), (7, 21)] := ⟨by decide, d.isLt, a.isLt, by decide, by decide, trivial⟩
  have he : encode (.POPC d a) = (32, pack [(7, 9), (6, d.toNat), (6, a.toNat), (6, 0), (7, 21)]) := by
    rw [show encode (.POPC d a) = word 32 704643081 [(7, d.toNat), (13, a.toNat)] from rfl, word_cons, word_cons, word_nil]; exact congrArg (Prod.mk 32) (by simp only [pack]; omega)
  have hm := pack_get _ hf 0 7 9 0 rfl rfl
  rw [Nat.pow_zero, Nat.div_one] at hm
  refine Encoding.of32 _ _ he (pack_lt _ hf) hm rfl ?_
  rw [major_Alu _ hm]; unfold decodeAlu; rw [show bitsAt (pack _) 25 7 = 21 from pack_get _ hf 4 7 21 25 rfl rfl]
  show some _ = _
  rw [at_pack 7 1 _ hf d rfl rfl, at_pack 13 2 _ hf a rfl rfl]

theorem Encoding.CMPEQ (d : BitVec 6) (a : BitVec 6) (b : BitVec 6) : Encoding.Statement (.CMPEQ d a b) := by
  have hf : fits [(7, 9), (6, d.toNat), (6, a.toNat), (6, b.toNat), (7, 22)] := ⟨by decide, d.isLt, a.isLt, b.isLt, by decide, trivial⟩
  have he : encode (.CMPEQ d a b) = (32, pack [(7, 9), (6, d.toNat), (6, a.toNat), (6, b.toNat), (7, 22)]) := by
    rw [show encode (.CMPEQ d a b) = word 32 738197513 [(7, d.toNat), (13, a.toNat), (19, b.toNat)] from rfl, word_cons, word_cons, word_cons, word_nil]; exact congrArg (Prod.mk 32) (by simp only [pack]; omega)
  have hm := pack_get _ hf 0 7 9 0 rfl rfl
  rw [Nat.pow_zero, Nat.div_one] at hm
  refine Encoding.of32 _ _ he (pack_lt _ hf) hm rfl ?_
  rw [major_Alu _ hm]; unfold decodeAlu; rw [show bitsAt (pack _) 25 7 = 22 from pack_get _ hf 4 7 22 25 rfl rfl]
  show some _ = _
  rw [at_pack 7 1 _ hf d rfl rfl, at_pack 13 2 _ hf a rfl rfl, at_pack 19 3 _ hf b rfl rfl]

theorem Encoding.CMPNE (d : BitVec 6) (a : BitVec 6) (b : BitVec 6) : Encoding.Statement (.CMPNE d a b) := by
  have hf : fits [(7, 9), (6, d.toNat), (6, a.toNat), (6, b.toNat), (7, 23)] := ⟨by decide, d.isLt, a.isLt, b.isLt, by decide, trivial⟩
  have he : encode (.CMPNE d a b) = (32, pack [(7, 9), (6, d.toNat), (6, a.toNat), (6, b.toNat), (7, 23)]) := by
    rw [show encode (.CMPNE d a b) = word 32 771751945 [(7, d.toNat), (13, a.toNat), (19, b.toNat)] from rfl, word_cons, word_cons, word_cons, word_nil]; exact congrArg (Prod.mk 32) (by simp only [pack]; omega)
  have hm := pack_get _ hf 0 7 9 0 rfl rfl
  rw [Nat.pow_zero, Nat.div_one] at hm
  refine Encoding.of32 _ _ he (pack_lt _ hf) hm rfl ?_
  rw [major_Alu _ hm]; unfold decodeAlu; rw [show bitsAt (pack _) 25 7 = 23 from pack_get _ hf 4 7 23 25 rfl rfl]
  show some _ = _
  rw [at_pack 7 1 _ hf d rfl rfl, at_pack 13 2 _ hf a rfl rfl, at_pack 19 3 _ hf b rfl rfl]

theorem Encoding.CMPLT (d : BitVec 6) (a : BitVec 6) (b : BitVec 6) : Encoding.Statement (.CMPLT d a b) := by
  have hf : fits [(7, 9), (6, d.toNat), (6, a.toNat), (6, b.toNat), (7, 24)] := ⟨by decide, d.isLt, a.isLt, b.isLt, by decide, trivial⟩
  have he : encode (.CMPLT d a b) = (32, pack [(7, 9), (6, d.toNat), (6, a.toNat), (6, b.toNat), (7, 24)]) := by
    rw [show encode (.CMPLT d a b) = word 32 805306377 [(7, d.toNat), (13, a.toNat), (19, b.toNat)] from rfl, word_cons, word_cons, word_cons, word_nil]; exact congrArg (Prod.mk 32) (by simp only [pack]; omega)
  have hm := pack_get _ hf 0 7 9 0 rfl rfl
  rw [Nat.pow_zero, Nat.div_one] at hm
  refine Encoding.of32 _ _ he (pack_lt _ hf) hm rfl ?_
  rw [major_Alu _ hm]; unfold decodeAlu; rw [show bitsAt (pack _) 25 7 = 24 from pack_get _ hf 4 7 24 25 rfl rfl]
  show some _ = _
  rw [at_pack 7 1 _ hf d rfl rfl, at_pack 13 2 _ hf a rfl rfl, at_pack 19 3 _ hf b rfl rfl]

theorem Encoding.CMPLTU (d : BitVec 6) (a : BitVec 6) (b : BitVec 6) : Encoding.Statement (.CMPLTU d a b) := by
  have hf : fits [(7, 9), (6, d.toNat), (6, a.toNat), (6, b.toNat), (7, 25)] := ⟨by decide, d.isLt, a.isLt, b.isLt, by decide, trivial⟩
  have he : encode (.CMPLTU d a b) = (32, pack [(7, 9), (6, d.toNat), (6, a.toNat), (6, b.toNat), (7, 25)]) := by
    rw [show encode (.CMPLTU d a b) = word 32 838860809 [(7, d.toNat), (13, a.toNat), (19, b.toNat)] from rfl, word_cons, word_cons, word_cons, word_nil]; exact congrArg (Prod.mk 32) (by simp only [pack]; omega)
  have hm := pack_get _ hf 0 7 9 0 rfl rfl
  rw [Nat.pow_zero, Nat.div_one] at hm
  refine Encoding.of32 _ _ he (pack_lt _ hf) hm rfl ?_
  rw [major_Alu _ hm]; unfold decodeAlu; rw [show bitsAt (pack _) 25 7 = 25 from pack_get _ hf 4 7 25 25 rfl rfl]
  show some _ = _
  rw [at_pack 7 1 _ hf d rfl rfl, at_pack 13 2 _ hf a rfl rfl, at_pack 19 3 _ hf b rfl rfl]

theorem Encoding.CMPGE (d : BitVec 6) (a : BitVec 6) (b : BitVec 6) : Encoding.Statement (.CMPGE d a b) := by
  have hf : fits [(7, 9), (6, d.toNat), (6, a.toNat), (6, b.toNat), (7, 26)] := ⟨by decide, d.isLt, a.isLt, b.isLt, by decide, trivial⟩
  have he : encode (.CMPGE d a b) = (32, pack [(7, 9), (6, d.toNat), (6, a.toNat), (6, b.toNat), (7, 26)]) := by
    rw [show encode (.CMPGE d a b) = word 32 872415241 [(7, d.toNat), (13, a.toNat), (19, b.toNat)] from rfl, word_cons, word_cons, word_cons, word_nil]; exact congrArg (Prod.mk 32) (by simp only [pack]; omega)
  have hm := pack_get _ hf 0 7 9 0 rfl rfl
  rw [Nat.pow_zero, Nat.div_one] at hm
  refine Encoding.of32 _ _ he (pack_lt _ hf) hm rfl ?_
  rw [major_Alu _ hm]; unfold decodeAlu; rw [show bitsAt (pack _) 25 7 = 26 from pack_get _ hf 4 7 26 25 rfl rfl]
  show some _ = _
  rw [at_pack 7 1 _ hf d rfl rfl, at_pack 13 2 _ hf a rfl rfl, at_pack 19 3 _ hf b rfl rfl]

theorem Encoding.CMPGEU (d : BitVec 6) (a : BitVec 6) (b : BitVec 6) : Encoding.Statement (.CMPGEU d a b) := by
  have hf : fits [(7, 9), (6, d.toNat), (6, a.toNat), (6, b.toNat), (7, 27)] := ⟨by decide, d.isLt, a.isLt, b.isLt, by decide, trivial⟩
  have he : encode (.CMPGEU d a b) = (32, pack [(7, 9), (6, d.toNat), (6, a.toNat), (6, b.toNat), (7, 27)]) := by
    rw [show encode (.CMPGEU d a b) = word 32 905969673 [(7, d.toNat), (13, a.toNat), (19, b.toNat)] from rfl, word_cons, word_cons, word_cons, word_nil]; exact congrArg (Prod.mk 32) (by simp only [pack]; omega)
  have hm := pack_get _ hf 0 7 9 0 rfl rfl
  rw [Nat.pow_zero, Nat.div_one] at hm
  refine Encoding.of32 _ _ he (pack_lt _ hf) hm rfl ?_
  rw [major_Alu _ hm]; unfold decodeAlu; rw [show bitsAt (pack _) 25 7 = 27 from pack_get _ hf 4 7 27 25 rfl rfl]
  show some _ = _
  rw [at_pack 7 1 _ hf d rfl rfl, at_pack 13 2 _ hf a rfl rfl, at_pack 19 3 _ hf b rfl rfl]

theorem Encoding.SEL (d : BitVec 6) (a : BitVec 6) (b : BitVec 6) : Encoding.Statement (.SEL d a b) := by
  have hf : fits [(7, 9), (6, d.toNat), (6, a.toNat), (6, b.toNat), (7, 28)] := ⟨by decide, d.isLt, a.isLt, b.isLt, by decide, trivial⟩
  have he : encode (.SEL d a b) = (32, pack [(7, 9), (6, d.toNat), (6, a.toNat), (6, b.toNat), (7, 28)]) := by
    rw [show encode (.SEL d a b) = word 32 939524105 [(7, d.toNat), (13, a.toNat), (19, b.toNat)] from rfl, word_cons, word_cons, word_cons, word_nil]; exact congrArg (Prod.mk 32) (by simp only [pack]; omega)
  have hm := pack_get _ hf 0 7 9 0 rfl rfl
  rw [Nat.pow_zero, Nat.div_one] at hm
  refine Encoding.of32 _ _ he (pack_lt _ hf) hm rfl ?_
  rw [major_Alu _ hm]; unfold decodeAlu; rw [show bitsAt (pack _) 25 7 = 28 from pack_get _ hf 4 7 28 25 rfl rfl]
  show some _ = _
  rw [at_pack 7 1 _ hf d rfl rfl, at_pack 13 2 _ hf a rfl rfl, at_pack 19 3 _ hf b rfl rfl]

theorem Encoding.ADDW (d : BitVec 6) (a : BitVec 6) (b : BitVec 6) : Encoding.Statement (.ADDW d a b) := by
  have hf : fits [(7, 9), (6, d.toNat), (6, a.toNat), (6, b.toNat), (7, 29)] := ⟨by decide, d.isLt, a.isLt, b.isLt, by decide, trivial⟩
  have he : encode (.ADDW d a b) = (32, pack [(7, 9), (6, d.toNat), (6, a.toNat), (6, b.toNat), (7, 29)]) := by
    rw [show encode (.ADDW d a b) = word 32 973078537 [(7, d.toNat), (13, a.toNat), (19, b.toNat)] from rfl, word_cons, word_cons, word_cons, word_nil]; exact congrArg (Prod.mk 32) (by simp only [pack]; omega)
  have hm := pack_get _ hf 0 7 9 0 rfl rfl
  rw [Nat.pow_zero, Nat.div_one] at hm
  refine Encoding.of32 _ _ he (pack_lt _ hf) hm rfl ?_
  rw [major_Alu _ hm]; unfold decodeAlu; rw [show bitsAt (pack _) 25 7 = 29 from pack_get _ hf 4 7 29 25 rfl rfl]
  show some _ = _
  rw [at_pack 7 1 _ hf d rfl rfl, at_pack 13 2 _ hf a rfl rfl, at_pack 19 3 _ hf b rfl rfl]

theorem Encoding.SUBW (d : BitVec 6) (a : BitVec 6) (b : BitVec 6) : Encoding.Statement (.SUBW d a b) := by
  have hf : fits [(7, 9), (6, d.toNat), (6, a.toNat), (6, b.toNat), (7, 30)] := ⟨by decide, d.isLt, a.isLt, b.isLt, by decide, trivial⟩
  have he : encode (.SUBW d a b) = (32, pack [(7, 9), (6, d.toNat), (6, a.toNat), (6, b.toNat), (7, 30)]) := by
    rw [show encode (.SUBW d a b) = word 32 1006632969 [(7, d.toNat), (13, a.toNat), (19, b.toNat)] from rfl, word_cons, word_cons, word_cons, word_nil]; exact congrArg (Prod.mk 32) (by simp only [pack]; omega)
  have hm := pack_get _ hf 0 7 9 0 rfl rfl
  rw [Nat.pow_zero, Nat.div_one] at hm
  refine Encoding.of32 _ _ he (pack_lt _ hf) hm rfl ?_
  rw [major_Alu _ hm]; unfold decodeAlu; rw [show bitsAt (pack _) 25 7 = 30 from pack_get _ hf 4 7 30 25 rfl rfl]
  show some _ = _
  rw [at_pack 7 1 _ hf d rfl rfl, at_pack 13 2 _ hf a rfl rfl, at_pack 19 3 _ hf b rfl rfl]

theorem Encoding.SH1ADD (d : BitVec 6) (a : BitVec 6) (b : BitVec 6) : Encoding.Statement (.SH1ADD d a b) := by
  have hf : fits [(7, 9), (6, d.toNat), (6, a.toNat), (6, b.toNat), (7, 31)] := ⟨by decide, d.isLt, a.isLt, b.isLt, by decide, trivial⟩
  have he : encode (.SH1ADD d a b) = (32, pack [(7, 9), (6, d.toNat), (6, a.toNat), (6, b.toNat), (7, 31)]) := by
    rw [show encode (.SH1ADD d a b) = word 32 1040187401 [(7, d.toNat), (13, a.toNat), (19, b.toNat)] from rfl, word_cons, word_cons, word_cons, word_nil]; exact congrArg (Prod.mk 32) (by simp only [pack]; omega)
  have hm := pack_get _ hf 0 7 9 0 rfl rfl
  rw [Nat.pow_zero, Nat.div_one] at hm
  refine Encoding.of32 _ _ he (pack_lt _ hf) hm rfl ?_
  rw [major_Alu _ hm]; unfold decodeAlu; rw [show bitsAt (pack _) 25 7 = 31 from pack_get _ hf 4 7 31 25 rfl rfl]
  show some _ = _
  rw [at_pack 7 1 _ hf d rfl rfl, at_pack 13 2 _ hf a rfl rfl, at_pack 19 3 _ hf b rfl rfl]

theorem Encoding.SH2ADD (d : BitVec 6) (a : BitVec 6) (b : BitVec 6) : Encoding.Statement (.SH2ADD d a b) := by
  have hf : fits [(7, 9), (6, d.toNat), (6, a.toNat), (6, b.toNat), (7, 32)] := ⟨by decide, d.isLt, a.isLt, b.isLt, by decide, trivial⟩
  have he : encode (.SH2ADD d a b) = (32, pack [(7, 9), (6, d.toNat), (6, a.toNat), (6, b.toNat), (7, 32)]) := by
    rw [show encode (.SH2ADD d a b) = word 32 1073741833 [(7, d.toNat), (13, a.toNat), (19, b.toNat)] from rfl, word_cons, word_cons, word_cons, word_nil]; exact congrArg (Prod.mk 32) (by simp only [pack]; omega)
  have hm := pack_get _ hf 0 7 9 0 rfl rfl
  rw [Nat.pow_zero, Nat.div_one] at hm
  refine Encoding.of32 _ _ he (pack_lt _ hf) hm rfl ?_
  rw [major_Alu _ hm]; unfold decodeAlu; rw [show bitsAt (pack _) 25 7 = 32 from pack_get _ hf 4 7 32 25 rfl rfl]
  show some _ = _
  rw [at_pack 7 1 _ hf d rfl rfl, at_pack 13 2 _ hf a rfl rfl, at_pack 19 3 _ hf b rfl rfl]

theorem Encoding.SH3ADD (d : BitVec 6) (a : BitVec 6) (b : BitVec 6) : Encoding.Statement (.SH3ADD d a b) := by
  have hf : fits [(7, 9), (6, d.toNat), (6, a.toNat), (6, b.toNat), (7, 33)] := ⟨by decide, d.isLt, a.isLt, b.isLt, by decide, trivial⟩
  have he : encode (.SH3ADD d a b) = (32, pack [(7, 9), (6, d.toNat), (6, a.toNat), (6, b.toNat), (7, 33)]) := by
    rw [show encode (.SH3ADD d a b) = word 32 1107296265 [(7, d.toNat), (13, a.toNat), (19, b.toNat)] from rfl, word_cons, word_cons, word_cons, word_nil]; exact congrArg (Prod.mk 32) (by simp only [pack]; omega)
  have hm := pack_get _ hf 0 7 9 0 rfl rfl
  rw [Nat.pow_zero, Nat.div_one] at hm
  refine Encoding.of32 _ _ he (pack_lt _ hf) hm rfl ?_
  rw [major_Alu _ hm]; unfold decodeAlu; rw [show bitsAt (pack _) 25 7 = 33 from pack_get _ hf 4 7 33 25 rfl rfl]
  show some _ = _
  rw [at_pack 7 1 _ hf d rfl rfl, at_pack 13 2 _ hf a rfl rfl, at_pack 19 3 _ hf b rfl rfl]

theorem Encoding.BFX (d : BitVec 6) (a : BitVec 6) (b : BitVec 6) : Encoding.Statement (.BFX d a b) := by
  have hf : fits [(7, 9), (6, d.toNat), (6, a.toNat), (6, b.toNat), (7, 34)] := ⟨by decide, d.isLt, a.isLt, b.isLt, by decide, trivial⟩
  have he : encode (.BFX d a b) = (32, pack [(7, 9), (6, d.toNat), (6, a.toNat), (6, b.toNat), (7, 34)]) := by
    rw [show encode (.BFX d a b) = word 32 1140850697 [(7, d.toNat), (13, a.toNat), (19, b.toNat)] from rfl, word_cons, word_cons, word_cons, word_nil]; exact congrArg (Prod.mk 32) (by simp only [pack]; omega)
  have hm := pack_get _ hf 0 7 9 0 rfl rfl
  rw [Nat.pow_zero, Nat.div_one] at hm
  refine Encoding.of32 _ _ he (pack_lt _ hf) hm rfl ?_
  rw [major_Alu _ hm]; unfold decodeAlu; rw [show bitsAt (pack _) 25 7 = 34 from pack_get _ hf 4 7 34 25 rfl rfl]
  show some _ = _
  rw [at_pack 7 1 _ hf d rfl rfl, at_pack 13 2 _ hf a rfl rfl, at_pack 19 3 _ hf b rfl rfl]

theorem Encoding.BFI (d : BitVec 6) (a : BitVec 6) (b : BitVec 6) : Encoding.Statement (.BFI d a b) := by
  have hf : fits [(7, 9), (6, d.toNat), (6, a.toNat), (6, b.toNat), (7, 35)] := ⟨by decide, d.isLt, a.isLt, b.isLt, by decide, trivial⟩
  have he : encode (.BFI d a b) = (32, pack [(7, 9), (6, d.toNat), (6, a.toNat), (6, b.toNat), (7, 35)]) := by
    rw [show encode (.BFI d a b) = word 32 1174405129 [(7, d.toNat), (13, a.toNat), (19, b.toNat)] from rfl, word_cons, word_cons, word_cons, word_nil]; exact congrArg (Prod.mk 32) (by simp only [pack]; omega)
  have hm := pack_get _ hf 0 7 9 0 rfl rfl
  rw [Nat.pow_zero, Nat.div_one] at hm
  refine Encoding.of32 _ _ he (pack_lt _ hf) hm rfl ?_
  rw [major_Alu _ hm]; unfold decodeAlu; rw [show bitsAt (pack _) 25 7 = 35 from pack_get _ hf 4 7 35 25 rfl rfl]
  show some _ = _
  rw [at_pack 7 1 _ hf d rfl rfl, at_pack 13 2 _ hf a rfl rfl, at_pack 19 3 _ hf b rfl rfl]

theorem Encoding.ADDI (d : BitVec 6) (a : BitVec 6) (i : BitVec 13) : Encoding.Statement (.ADDI d a i) := by
  have hf : fits [(7, 11), (6, d.toNat), (6, a.toNat), (13, i.toNat)] := ⟨by decide, d.isLt, a.isLt, i.isLt, trivial⟩
  have he : encode (.ADDI d a i) = (32, pack [(7, 11), (6, d.toNat), (6, a.toNat), (13, i.toNat)]) := by
    rw [show encode (.ADDI d a i) = word 32 11 [(7, d.toNat), (13, a.toNat), (19, i.toNat)] from rfl, word_cons, word_cons, word_cons, word_nil]; exact congrArg (Prod.mk 32) (by simp only [pack]; omega)
  have hm := pack_get _ hf 0 7 11 0 rfl rfl
  rw [Nat.pow_zero, Nat.div_one] at hm
  refine Encoding.of32 _ _ he (pack_lt _ hf) hm rfl ?_
  unfold decodeRow32; rw [show pack _ % 128 = 11 from hm]
  show some _ = _
  rw [at_pack 7 1 _ hf d rfl rfl, at_pack 13 2 _ hf a rfl rfl, at_pack 19 3 _ hf i rfl rfl]

theorem Encoding.ANDI (d : BitVec 6) (a : BitVec 6) (i : BitVec 13) : Encoding.Statement (.ANDI d a i) := by
  have hf : fits [(7, 13), (6, d.toNat), (6, a.toNat), (13, i.toNat)] := ⟨by decide, d.isLt, a.isLt, i.isLt, trivial⟩
  have he : encode (.ANDI d a i) = (32, pack [(7, 13), (6, d.toNat), (6, a.toNat), (13, i.toNat)]) := by
    rw [show encode (.ANDI d a i) = word 32 13 [(7, d.toNat), (13, a.toNat), (19, i.toNat)] from rfl, word_cons, word_cons, word_cons, word_nil]; exact congrArg (Prod.mk 32) (by simp only [pack]; omega)
  have hm := pack_get _ hf 0 7 13 0 rfl rfl
  rw [Nat.pow_zero, Nat.div_one] at hm
  refine Encoding.of32 _ _ he (pack_lt _ hf) hm rfl ?_
  unfold decodeRow32; rw [show pack _ % 128 = 13 from hm]
  show some _ = _
  rw [at_pack 7 1 _ hf d rfl rfl, at_pack 13 2 _ hf a rfl rfl, at_pack 19 3 _ hf i rfl rfl]

theorem Encoding.ORI (d : BitVec 6) (a : BitVec 6) (i : BitVec 13) : Encoding.Statement (.ORI d a i) := by
  have hf : fits [(7, 15), (6, d.toNat), (6, a.toNat), (13, i.toNat)] := ⟨by decide, d.isLt, a.isLt, i.isLt, trivial⟩
  have he : encode (.ORI d a i) = (32, pack [(7, 15), (6, d.toNat), (6, a.toNat), (13, i.toNat)]) := by
    rw [show encode (.ORI d a i) = word 32 15 [(7, d.toNat), (13, a.toNat), (19, i.toNat)] from rfl, word_cons, word_cons, word_cons, word_nil]; exact congrArg (Prod.mk 32) (by simp only [pack]; omega)
  have hm := pack_get _ hf 0 7 15 0 rfl rfl
  rw [Nat.pow_zero, Nat.div_one] at hm
  refine Encoding.of32 _ _ he (pack_lt _ hf) hm rfl ?_
  unfold decodeRow32; rw [show pack _ % 128 = 15 from hm]
  show some _ = _
  rw [at_pack 7 1 _ hf d rfl rfl, at_pack 13 2 _ hf a rfl rfl, at_pack 19 3 _ hf i rfl rfl]

theorem Encoding.XORI (d : BitVec 6) (a : BitVec 6) (i : BitVec 13) : Encoding.Statement (.XORI d a i) := by
  have hf : fits [(7, 17), (6, d.toNat), (6, a.toNat), (13, i.toNat)] := ⟨by decide, d.isLt, a.isLt, i.isLt, trivial⟩
  have he : encode (.XORI d a i) = (32, pack [(7, 17), (6, d.toNat), (6, a.toNat), (13, i.toNat)]) := by
    rw [show encode (.XORI d a i) = word 32 17 [(7, d.toNat), (13, a.toNat), (19, i.toNat)] from rfl, word_cons, word_cons, word_cons, word_nil]; exact congrArg (Prod.mk 32) (by simp only [pack]; omega)
  have hm := pack_get _ hf 0 7 17 0 rfl rfl
  rw [Nat.pow_zero, Nat.div_one] at hm
  refine Encoding.of32 _ _ he (pack_lt _ hf) hm rfl ?_
  unfold decodeRow32; rw [show pack _ % 128 = 17 from hm]
  show some _ = _
  rw [at_pack 7 1 _ hf d rfl rfl, at_pack 13 2 _ hf a rfl rfl, at_pack 19 3 _ hf i rfl rfl]

theorem Encoding.SHLI (d : BitVec 6) (a : BitVec 6) (s : BitVec 6) : Encoding.Statement (.SHLI d a s) := by
  have hf : fits [(7, 19), (6, d.toNat), (6, a.toNat), (6, s.toNat), (7, 0)] := ⟨by decide, d.isLt, a.isLt, s.isLt, by decide, trivial⟩
  have he : encode (.SHLI d a s) = (32, pack [(7, 19), (6, d.toNat), (6, a.toNat), (6, s.toNat), (7, 0)]) := by
    rw [show encode (.SHLI d a s) = word 32 19 [(7, d.toNat), (13, a.toNat), (19, s.toNat)] from rfl, word_cons, word_cons, word_cons, word_nil]; exact congrArg (Prod.mk 32) (by simp only [pack]; omega)
  have hm := pack_get _ hf 0 7 19 0 rfl rfl
  rw [Nat.pow_zero, Nat.div_one] at hm
  refine Encoding.of32 _ _ he (pack_lt _ hf) hm rfl ?_
  unfold decodeRow32; rw [show pack _ % 128 = 19 from hm]
  show some _ = _
  rw [at_pack 7 1 _ hf d rfl rfl, at_pack 13 2 _ hf a rfl rfl, at_pack 19 3 _ hf s rfl rfl]

theorem Encoding.SHRI (d : BitVec 6) (a : BitVec 6) (s : BitVec 6) : Encoding.Statement (.SHRI d a s) := by
  have hf : fits [(7, 21), (6, d.toNat), (6, a.toNat), (6, s.toNat), (7, 0)] := ⟨by decide, d.isLt, a.isLt, s.isLt, by decide, trivial⟩
  have he : encode (.SHRI d a s) = (32, pack [(7, 21), (6, d.toNat), (6, a.toNat), (6, s.toNat), (7, 0)]) := by
    rw [show encode (.SHRI d a s) = word 32 21 [(7, d.toNat), (13, a.toNat), (19, s.toNat)] from rfl, word_cons, word_cons, word_cons, word_nil]; exact congrArg (Prod.mk 32) (by simp only [pack]; omega)
  have hm := pack_get _ hf 0 7 21 0 rfl rfl
  rw [Nat.pow_zero, Nat.div_one] at hm
  refine Encoding.of32 _ _ he (pack_lt _ hf) hm rfl ?_
  unfold decodeRow32; rw [show pack _ % 128 = 21 from hm]
  show some _ = _
  rw [at_pack 7 1 _ hf d rfl rfl, at_pack 13 2 _ hf a rfl rfl, at_pack 19 3 _ hf s rfl rfl]

theorem Encoding.SHRAI (d : BitVec 6) (a : BitVec 6) (s : BitVec 6) : Encoding.Statement (.SHRAI d a s) := by
  have hf : fits [(7, 23), (6, d.toNat), (6, a.toNat), (6, s.toNat), (7, 0)] := ⟨by decide, d.isLt, a.isLt, s.isLt, by decide, trivial⟩
  have he : encode (.SHRAI d a s) = (32, pack [(7, 23), (6, d.toNat), (6, a.toNat), (6, s.toNat), (7, 0)]) := by
    rw [show encode (.SHRAI d a s) = word 32 23 [(7, d.toNat), (13, a.toNat), (19, s.toNat)] from rfl, word_cons, word_cons, word_cons, word_nil]; exact congrArg (Prod.mk 32) (by simp only [pack]; omega)
  have hm := pack_get _ hf 0 7 23 0 rfl rfl
  rw [Nat.pow_zero, Nat.div_one] at hm
  refine Encoding.of32 _ _ he (pack_lt _ hf) hm rfl ?_
  unfold decodeRow32; rw [show pack _ % 128 = 23 from hm]
  show some _ = _
  rw [at_pack 7 1 _ hf d rfl rfl, at_pack 13 2 _ hf a rfl rfl, at_pack 19 3 _ hf s rfl rfl]

theorem Encoding.CMPLTI (d : BitVec 6) (a : BitVec 6) (i : BitVec 13) : Encoding.Statement (.CMPLTI d a i) := by
  have hf : fits [(7, 25), (6, d.toNat), (6, a.toNat), (13, i.toNat)] := ⟨by decide, d.isLt, a.isLt, i.isLt, trivial⟩
  have he : encode (.CMPLTI d a i) = (32, pack [(7, 25), (6, d.toNat), (6, a.toNat), (13, i.toNat)]) := by
    rw [show encode (.CMPLTI d a i) = word 32 25 [(7, d.toNat), (13, a.toNat), (19, i.toNat)] from rfl, word_cons, word_cons, word_cons, word_nil]; exact congrArg (Prod.mk 32) (by simp only [pack]; omega)
  have hm := pack_get _ hf 0 7 25 0 rfl rfl
  rw [Nat.pow_zero, Nat.div_one] at hm
  refine Encoding.of32 _ _ he (pack_lt _ hf) hm rfl ?_
  unfold decodeRow32; rw [show pack _ % 128 = 25 from hm]
  show some _ = _
  rw [at_pack 7 1 _ hf d rfl rfl, at_pack 13 2 _ hf a rfl rfl, at_pack 19 3 _ hf i rfl rfl]

theorem Encoding.CMPEQI (d : BitVec 6) (a : BitVec 6) (i : BitVec 13) : Encoding.Statement (.CMPEQI d a i) := by
  have hf : fits [(7, 27), (6, d.toNat), (6, a.toNat), (13, i.toNat)] := ⟨by decide, d.isLt, a.isLt, i.isLt, trivial⟩
  have he : encode (.CMPEQI d a i) = (32, pack [(7, 27), (6, d.toNat), (6, a.toNat), (13, i.toNat)]) := by
    rw [show encode (.CMPEQI d a i) = word 32 27 [(7, d.toNat), (13, a.toNat), (19, i.toNat)] from rfl, word_cons, word_cons, word_cons, word_nil]; exact congrArg (Prod.mk 32) (by simp only [pack]; omega)
  have hm := pack_get _ hf 0 7 27 0 rfl rfl
  rw [Nat.pow_zero, Nat.div_one] at hm
  refine Encoding.of32 _ _ he (pack_lt _ hf) hm rfl ?_
  unfold decodeRow32; rw [show pack _ % 128 = 27 from hm]
  show some _ = _
  rw [at_pack 7 1 _ hf d rfl rfl, at_pack 13 2 _ hf a rfl rfl, at_pack 19 3 _ hf i rfl rfl]

theorem Encoding.LI (d : BitVec 6) (i : BitVec 19) : Encoding.Statement (.LI d i) := by
  have hf : fits [(7, 29), (6, d.toNat), (19, i.toNat)] := ⟨by decide, d.isLt, i.isLt, trivial⟩
  have he : encode (.LI d i) = (32, pack [(7, 29), (6, d.toNat), (19, i.toNat)]) := by
    rw [show encode (.LI d i) = word 32 29 [(7, d.toNat), (13, i.toNat)] from rfl, word_cons, word_cons, word_nil]; exact congrArg (Prod.mk 32) (by simp only [pack]; omega)
  have hm := pack_get _ hf 0 7 29 0 rfl rfl
  rw [Nat.pow_zero, Nat.div_one] at hm
  refine Encoding.of32 _ _ he (pack_lt _ hf) hm rfl ?_
  unfold decodeRow32; rw [show pack _ % 128 = 29 from hm]
  show some _ = _
  rw [at_pack 7 1 _ hf d rfl rfl, at_pack 13 2 _ hf i rfl rfl]

theorem Encoding.LUI (d : BitVec 6) (i : BitVec 19) : Encoding.Statement (.LUI d i) := by
  have hf : fits [(7, 31), (6, d.toNat), (19, i.toNat)] := ⟨by decide, d.isLt, i.isLt, trivial⟩
  have he : encode (.LUI d i) = (32, pack [(7, 31), (6, d.toNat), (19, i.toNat)]) := by
    rw [show encode (.LUI d i) = word 32 31 [(7, d.toNat), (13, i.toNat)] from rfl, word_cons, word_cons, word_nil]; exact congrArg (Prod.mk 32) (by simp only [pack]; omega)
  have hm := pack_get _ hf 0 7 31 0 rfl rfl
  rw [Nat.pow_zero, Nat.div_one] at hm
  refine Encoding.of32 _ _ he (pack_lt _ hf) hm rfl ?_
  unfold decodeRow32; rw [show pack _ % 128 = 31 from hm]
  show some _ = _
  rw [at_pack 7 1 _ hf d rfl rfl, at_pack 13 2 _ hf i rfl rfl]

theorem Encoding.BEQ (a : BitVec 6) (b : BitVec 6) (n : BitVec 2) (o : BitVec 11) : Encoding.Statement (.BEQ a b n o) := by
  have hf : fits [(7, 33), (6, a.toNat), (6, b.toNat), (2, n.toNat), (11, o.toNat)] := ⟨by decide, a.isLt, b.isLt, n.isLt, o.isLt, trivial⟩
  have he : encode (.BEQ a b n o) = (32, pack [(7, 33), (6, a.toNat), (6, b.toNat), (2, n.toNat), (11, o.toNat)]) := by
    rw [show encode (.BEQ a b n o) = word 32 33 [(7, a.toNat), (13, b.toNat), (19, n.toNat), (21, o.toNat)] from rfl, word_cons, word_cons, word_cons, word_cons, word_nil]; exact congrArg (Prod.mk 32) (by simp only [pack]; omega)
  have hm := pack_get _ hf 0 7 33 0 rfl rfl
  rw [Nat.pow_zero, Nat.div_one] at hm
  refine Encoding.of32 _ _ he (pack_lt _ hf) hm rfl ?_
  unfold decodeRow32; rw [show pack _ % 128 = 33 from hm]
  show some _ = _
  rw [at_pack 7 1 _ hf a rfl rfl, at_pack 13 2 _ hf b rfl rfl, at_pack 19 3 _ hf n rfl rfl, at_pack 21 4 _ hf o rfl rfl]

theorem Encoding.BNE (a : BitVec 6) (b : BitVec 6) (n : BitVec 2) (o : BitVec 11) : Encoding.Statement (.BNE a b n o) := by
  have hf : fits [(7, 35), (6, a.toNat), (6, b.toNat), (2, n.toNat), (11, o.toNat)] := ⟨by decide, a.isLt, b.isLt, n.isLt, o.isLt, trivial⟩
  have he : encode (.BNE a b n o) = (32, pack [(7, 35), (6, a.toNat), (6, b.toNat), (2, n.toNat), (11, o.toNat)]) := by
    rw [show encode (.BNE a b n o) = word 32 35 [(7, a.toNat), (13, b.toNat), (19, n.toNat), (21, o.toNat)] from rfl, word_cons, word_cons, word_cons, word_cons, word_nil]; exact congrArg (Prod.mk 32) (by simp only [pack]; omega)
  have hm := pack_get _ hf 0 7 35 0 rfl rfl
  rw [Nat.pow_zero, Nat.div_one] at hm
  refine Encoding.of32 _ _ he (pack_lt _ hf) hm rfl ?_
  unfold decodeRow32; rw [show pack _ % 128 = 35 from hm]
  show some _ = _
  rw [at_pack 7 1 _ hf a rfl rfl, at_pack 13 2 _ hf b rfl rfl, at_pack 19 3 _ hf n rfl rfl, at_pack 21 4 _ hf o rfl rfl]

theorem Encoding.BLT (a : BitVec 6) (b : BitVec 6) (n : BitVec 2) (o : BitVec 11) : Encoding.Statement (.BLT a b n o) := by
  have hf : fits [(7, 37), (6, a.toNat), (6, b.toNat), (2, n.toNat), (11, o.toNat)] := ⟨by decide, a.isLt, b.isLt, n.isLt, o.isLt, trivial⟩
  have he : encode (.BLT a b n o) = (32, pack [(7, 37), (6, a.toNat), (6, b.toNat), (2, n.toNat), (11, o.toNat)]) := by
    rw [show encode (.BLT a b n o) = word 32 37 [(7, a.toNat), (13, b.toNat), (19, n.toNat), (21, o.toNat)] from rfl, word_cons, word_cons, word_cons, word_cons, word_nil]; exact congrArg (Prod.mk 32) (by simp only [pack]; omega)
  have hm := pack_get _ hf 0 7 37 0 rfl rfl
  rw [Nat.pow_zero, Nat.div_one] at hm
  refine Encoding.of32 _ _ he (pack_lt _ hf) hm rfl ?_
  unfold decodeRow32; rw [show pack _ % 128 = 37 from hm]
  show some _ = _
  rw [at_pack 7 1 _ hf a rfl rfl, at_pack 13 2 _ hf b rfl rfl, at_pack 19 3 _ hf n rfl rfl, at_pack 21 4 _ hf o rfl rfl]

theorem Encoding.BGE (a : BitVec 6) (b : BitVec 6) (n : BitVec 2) (o : BitVec 11) : Encoding.Statement (.BGE a b n o) := by
  have hf : fits [(7, 39), (6, a.toNat), (6, b.toNat), (2, n.toNat), (11, o.toNat)] := ⟨by decide, a.isLt, b.isLt, n.isLt, o.isLt, trivial⟩
  have he : encode (.BGE a b n o) = (32, pack [(7, 39), (6, a.toNat), (6, b.toNat), (2, n.toNat), (11, o.toNat)]) := by
    rw [show encode (.BGE a b n o) = word 32 39 [(7, a.toNat), (13, b.toNat), (19, n.toNat), (21, o.toNat)] from rfl, word_cons, word_cons, word_cons, word_cons, word_nil]; exact congrArg (Prod.mk 32) (by simp only [pack]; omega)
  have hm := pack_get _ hf 0 7 39 0 rfl rfl
  rw [Nat.pow_zero, Nat.div_one] at hm
  refine Encoding.of32 _ _ he (pack_lt _ hf) hm rfl ?_
  unfold decodeRow32; rw [show pack _ % 128 = 39 from hm]
  show some _ = _
  rw [at_pack 7 1 _ hf a rfl rfl, at_pack 13 2 _ hf b rfl rfl, at_pack 19 3 _ hf n rfl rfl, at_pack 21 4 _ hf o rfl rfl]

theorem Encoding.BLTU (a : BitVec 6) (b : BitVec 6) (n : BitVec 2) (o : BitVec 11) : Encoding.Statement (.BLTU a b n o) := by
  have hf : fits [(7, 41), (6, a.toNat), (6, b.toNat), (2, n.toNat), (11, o.toNat)] := ⟨by decide, a.isLt, b.isLt, n.isLt, o.isLt, trivial⟩
  have he : encode (.BLTU a b n o) = (32, pack [(7, 41), (6, a.toNat), (6, b.toNat), (2, n.toNat), (11, o.toNat)]) := by
    rw [show encode (.BLTU a b n o) = word 32 41 [(7, a.toNat), (13, b.toNat), (19, n.toNat), (21, o.toNat)] from rfl, word_cons, word_cons, word_cons, word_cons, word_nil]; exact congrArg (Prod.mk 32) (by simp only [pack]; omega)
  have hm := pack_get _ hf 0 7 41 0 rfl rfl
  rw [Nat.pow_zero, Nat.div_one] at hm
  refine Encoding.of32 _ _ he (pack_lt _ hf) hm rfl ?_
  unfold decodeRow32; rw [show pack _ % 128 = 41 from hm]
  show some _ = _
  rw [at_pack 7 1 _ hf a rfl rfl, at_pack 13 2 _ hf b rfl rfl, at_pack 19 3 _ hf n rfl rfl, at_pack 21 4 _ hf o rfl rfl]

theorem Encoding.BGEU (a : BitVec 6) (b : BitVec 6) (n : BitVec 2) (o : BitVec 11) : Encoding.Statement (.BGEU a b n o) := by
  have hf : fits [(7, 43), (6, a.toNat), (6, b.toNat), (2, n.toNat), (11, o.toNat)] := ⟨by decide, a.isLt, b.isLt, n.isLt, o.isLt, trivial⟩
  have he : encode (.BGEU a b n o) = (32, pack [(7, 43), (6, a.toNat), (6, b.toNat), (2, n.toNat), (11, o.toNat)]) := by
    rw [show encode (.BGEU a b n o) = word 32 43 [(7, a.toNat), (13, b.toNat), (19, n.toNat), (21, o.toNat)] from rfl, word_cons, word_cons, word_cons, word_cons, word_nil]; exact congrArg (Prod.mk 32) (by simp only [pack]; omega)
  have hm := pack_get _ hf 0 7 43 0 rfl rfl
  rw [Nat.pow_zero, Nat.div_one] at hm
  refine Encoding.of32 _ _ he (pack_lt _ hf) hm rfl ?_
  unfold decodeRow32; rw [show pack _ % 128 = 43 from hm]
  show some _ = _
  rw [at_pack 7 1 _ hf a rfl rfl, at_pack 13 2 _ hf b rfl rfl, at_pack 19 3 _ hf n rfl rfl, at_pack 21 4 _ hf o rfl rfl]

theorem Encoding.J (o : BitVec 19) : Encoding.Statement (.J o) := by
  have hf : fits [(7, 45), (6, 0), (19, o.toNat)] := ⟨by decide, by decide, o.isLt, trivial⟩
  have he : encode (.J o) = (32, pack [(7, 45), (6, 0), (19, o.toNat)]) := by
    rw [show encode (.J o) = word 32 45 [(13, o.toNat)] from rfl, word_cons, word_nil]; exact congrArg (Prod.mk 32) (by simp only [pack]; omega)
  have hm := pack_get _ hf 0 7 45 0 rfl rfl
  rw [Nat.pow_zero, Nat.div_one] at hm
  refine Encoding.of32 _ _ he (pack_lt _ hf) hm rfl ?_
  unfold decodeRow32; rw [show pack _ % 128 = 45 from hm]
  show some _ = _
  rw [at_pack 13 2 _ hf o rfl rfl]

theorem Encoding.JAL (d : BitVec 6) (o : BitVec 19) : Encoding.Statement (.JAL d o) := by
  have hf : fits [(7, 47), (6, d.toNat), (19, o.toNat)] := ⟨by decide, d.isLt, o.isLt, trivial⟩
  have he : encode (.JAL d o) = (32, pack [(7, 47), (6, d.toNat), (19, o.toNat)]) := by
    rw [show encode (.JAL d o) = word 32 47 [(7, d.toNat), (13, o.toNat)] from rfl, word_cons, word_cons, word_nil]; exact congrArg (Prod.mk 32) (by simp only [pack]; omega)
  have hm := pack_get _ hf 0 7 47 0 rfl rfl
  rw [Nat.pow_zero, Nat.div_one] at hm
  refine Encoding.of32 _ _ he (pack_lt _ hf) hm rfl ?_
  unfold decodeRow32; rw [show pack _ % 128 = 47 from hm]
  show some _ = _
  rw [at_pack 7 1 _ hf d rfl rfl, at_pack 13 2 _ hf o rfl rfl]

theorem Encoding.JALR (d : BitVec 6) (a : BitVec 6) (i : BitVec 13) : Encoding.Statement (.JALR d a i) := by
  have hf : fits [(7, 49), (6, d.toNat), (6, a.toNat), (13, i.toNat)] := ⟨by decide, d.isLt, a.isLt, i.isLt, trivial⟩
  have he : encode (.JALR d a i) = (32, pack [(7, 49), (6, d.toNat), (6, a.toNat), (13, i.toNat)]) := by
    rw [show encode (.JALR d a i) = word 32 49 [(7, d.toNat), (13, a.toNat), (19, i.toNat)] from rfl, word_cons, word_cons, word_cons, word_nil]; exact congrArg (Prod.mk 32) (by simp only [pack]; omega)
  have hm := pack_get _ hf 0 7 49 0 rfl rfl
  rw [Nat.pow_zero, Nat.div_one] at hm
  refine Encoding.of32 _ _ he (pack_lt _ hf) hm rfl ?_
  unfold decodeRow32; rw [show pack _ % 128 = 49 from hm]
  show some _ = _
  rw [at_pack 7 1 _ hf d rfl rfl, at_pack 13 2 _ hf a rfl rfl, at_pack 19 3 _ hf i rfl rfl]

theorem Encoding.LD_B (t : BitVec 6) (a : BitVec 6) (c : BitVec 4) (i : BitVec 6) : Encoding.Statement (.LD_B t a c i) := by
  have hf : fits [(7, 51), (6, t.toNat), (6, a.toNat), (3, 0), (4, c.toNat), (6, i.toNat)] := ⟨by decide, t.isLt, a.isLt, by decide, c.isLt, i.isLt, trivial⟩
  have he : encode (.LD_B t a c i) = (32, pack [(7, 51), (6, t.toNat), (6, a.toNat), (3, 0), (4, c.toNat), (6, i.toNat)]) := by
    rw [show encode (.LD_B t a c i) = word 32 51 [(7, t.toNat), (13, a.toNat), (22, c.toNat), (26, i.toNat)] from rfl, word_cons, word_cons, word_cons, word_cons, word_nil]; exact congrArg (Prod.mk 32) (by simp only [pack]; omega)
  have hm := pack_get _ hf 0 7 51 0 rfl rfl
  rw [Nat.pow_zero, Nat.div_one] at hm
  refine Encoding.of32 _ _ he (pack_lt _ hf) hm rfl ?_
  rw [major_Load _ hm]; unfold decodeLoad; rw [show bitsAt (pack _) 19 3 = 0 from pack_get _ hf 3 3 0 19 rfl rfl]
  show some _ = _
  rw [at_pack 7 1 _ hf t rfl rfl, at_pack 13 2 _ hf a rfl rfl, at_pack 22 4 _ hf c rfl rfl, at_pack 26 5 _ hf i rfl rfl]

theorem Encoding.LD_BU (t : BitVec 6) (a : BitVec 6) (c : BitVec 4) (i : BitVec 6) : Encoding.Statement (.LD_BU t a c i) := by
  have hf : fits [(7, 51), (6, t.toNat), (6, a.toNat), (3, 1), (4, c.toNat), (6, i.toNat)] := ⟨by decide, t.isLt, a.isLt, by decide, c.isLt, i.isLt, trivial⟩
  have he : encode (.LD_BU t a c i) = (32, pack [(7, 51), (6, t.toNat), (6, a.toNat), (3, 1), (4, c.toNat), (6, i.toNat)]) := by
    rw [show encode (.LD_BU t a c i) = word 32 524339 [(7, t.toNat), (13, a.toNat), (22, c.toNat), (26, i.toNat)] from rfl, word_cons, word_cons, word_cons, word_cons, word_nil]; exact congrArg (Prod.mk 32) (by simp only [pack]; omega)
  have hm := pack_get _ hf 0 7 51 0 rfl rfl
  rw [Nat.pow_zero, Nat.div_one] at hm
  refine Encoding.of32 _ _ he (pack_lt _ hf) hm rfl ?_
  rw [major_Load _ hm]; unfold decodeLoad; rw [show bitsAt (pack _) 19 3 = 1 from pack_get _ hf 3 3 1 19 rfl rfl]
  show some _ = _
  rw [at_pack 7 1 _ hf t rfl rfl, at_pack 13 2 _ hf a rfl rfl, at_pack 22 4 _ hf c rfl rfl, at_pack 26 5 _ hf i rfl rfl]

theorem Encoding.LD_H (t : BitVec 6) (a : BitVec 6) (c : BitVec 4) (i : BitVec 6) : Encoding.Statement (.LD_H t a c i) := by
  have hf : fits [(7, 51), (6, t.toNat), (6, a.toNat), (3, 2), (4, c.toNat), (6, i.toNat)] := ⟨by decide, t.isLt, a.isLt, by decide, c.isLt, i.isLt, trivial⟩
  have he : encode (.LD_H t a c i) = (32, pack [(7, 51), (6, t.toNat), (6, a.toNat), (3, 2), (4, c.toNat), (6, i.toNat)]) := by
    rw [show encode (.LD_H t a c i) = word 32 1048627 [(7, t.toNat), (13, a.toNat), (22, c.toNat), (26, i.toNat)] from rfl, word_cons, word_cons, word_cons, word_cons, word_nil]; exact congrArg (Prod.mk 32) (by simp only [pack]; omega)
  have hm := pack_get _ hf 0 7 51 0 rfl rfl
  rw [Nat.pow_zero, Nat.div_one] at hm
  refine Encoding.of32 _ _ he (pack_lt _ hf) hm rfl ?_
  rw [major_Load _ hm]; unfold decodeLoad; rw [show bitsAt (pack _) 19 3 = 2 from pack_get _ hf 3 3 2 19 rfl rfl]
  show some _ = _
  rw [at_pack 7 1 _ hf t rfl rfl, at_pack 13 2 _ hf a rfl rfl, at_pack 22 4 _ hf c rfl rfl, at_pack 26 5 _ hf i rfl rfl]

theorem Encoding.LD_HU (t : BitVec 6) (a : BitVec 6) (c : BitVec 4) (i : BitVec 6) : Encoding.Statement (.LD_HU t a c i) := by
  have hf : fits [(7, 51), (6, t.toNat), (6, a.toNat), (3, 3), (4, c.toNat), (6, i.toNat)] := ⟨by decide, t.isLt, a.isLt, by decide, c.isLt, i.isLt, trivial⟩
  have he : encode (.LD_HU t a c i) = (32, pack [(7, 51), (6, t.toNat), (6, a.toNat), (3, 3), (4, c.toNat), (6, i.toNat)]) := by
    rw [show encode (.LD_HU t a c i) = word 32 1572915 [(7, t.toNat), (13, a.toNat), (22, c.toNat), (26, i.toNat)] from rfl, word_cons, word_cons, word_cons, word_cons, word_nil]; exact congrArg (Prod.mk 32) (by simp only [pack]; omega)
  have hm := pack_get _ hf 0 7 51 0 rfl rfl
  rw [Nat.pow_zero, Nat.div_one] at hm
  refine Encoding.of32 _ _ he (pack_lt _ hf) hm rfl ?_
  rw [major_Load _ hm]; unfold decodeLoad; rw [show bitsAt (pack _) 19 3 = 3 from pack_get _ hf 3 3 3 19 rfl rfl]
  show some _ = _
  rw [at_pack 7 1 _ hf t rfl rfl, at_pack 13 2 _ hf a rfl rfl, at_pack 22 4 _ hf c rfl rfl, at_pack 26 5 _ hf i rfl rfl]

theorem Encoding.LD_W (t : BitVec 6) (a : BitVec 6) (c : BitVec 4) (i : BitVec 6) : Encoding.Statement (.LD_W t a c i) := by
  have hf : fits [(7, 51), (6, t.toNat), (6, a.toNat), (3, 4), (4, c.toNat), (6, i.toNat)] := ⟨by decide, t.isLt, a.isLt, by decide, c.isLt, i.isLt, trivial⟩
  have he : encode (.LD_W t a c i) = (32, pack [(7, 51), (6, t.toNat), (6, a.toNat), (3, 4), (4, c.toNat), (6, i.toNat)]) := by
    rw [show encode (.LD_W t a c i) = word 32 2097203 [(7, t.toNat), (13, a.toNat), (22, c.toNat), (26, i.toNat)] from rfl, word_cons, word_cons, word_cons, word_cons, word_nil]; exact congrArg (Prod.mk 32) (by simp only [pack]; omega)
  have hm := pack_get _ hf 0 7 51 0 rfl rfl
  rw [Nat.pow_zero, Nat.div_one] at hm
  refine Encoding.of32 _ _ he (pack_lt _ hf) hm rfl ?_
  rw [major_Load _ hm]; unfold decodeLoad; rw [show bitsAt (pack _) 19 3 = 4 from pack_get _ hf 3 3 4 19 rfl rfl]
  show some _ = _
  rw [at_pack 7 1 _ hf t rfl rfl, at_pack 13 2 _ hf a rfl rfl, at_pack 22 4 _ hf c rfl rfl, at_pack 26 5 _ hf i rfl rfl]

theorem Encoding.LD_WU (t : BitVec 6) (a : BitVec 6) (c : BitVec 4) (i : BitVec 6) : Encoding.Statement (.LD_WU t a c i) := by
  have hf : fits [(7, 51), (6, t.toNat), (6, a.toNat), (3, 5), (4, c.toNat), (6, i.toNat)] := ⟨by decide, t.isLt, a.isLt, by decide, c.isLt, i.isLt, trivial⟩
  have he : encode (.LD_WU t a c i) = (32, pack [(7, 51), (6, t.toNat), (6, a.toNat), (3, 5), (4, c.toNat), (6, i.toNat)]) := by
    rw [show encode (.LD_WU t a c i) = word 32 2621491 [(7, t.toNat), (13, a.toNat), (22, c.toNat), (26, i.toNat)] from rfl, word_cons, word_cons, word_cons, word_cons, word_nil]; exact congrArg (Prod.mk 32) (by simp only [pack]; omega)
  have hm := pack_get _ hf 0 7 51 0 rfl rfl
  rw [Nat.pow_zero, Nat.div_one] at hm
  refine Encoding.of32 _ _ he (pack_lt _ hf) hm rfl ?_
  rw [major_Load _ hm]; unfold decodeLoad; rw [show bitsAt (pack _) 19 3 = 5 from pack_get _ hf 3 3 5 19 rfl rfl]
  show some _ = _
  rw [at_pack 7 1 _ hf t rfl rfl, at_pack 13 2 _ hf a rfl rfl, at_pack 22 4 _ hf c rfl rfl, at_pack 26 5 _ hf i rfl rfl]

theorem Encoding.LD_D (t : BitVec 6) (a : BitVec 6) (c : BitVec 4) (i : BitVec 6) : Encoding.Statement (.LD_D t a c i) := by
  have hf : fits [(7, 51), (6, t.toNat), (6, a.toNat), (3, 6), (4, c.toNat), (6, i.toNat)] := ⟨by decide, t.isLt, a.isLt, by decide, c.isLt, i.isLt, trivial⟩
  have he : encode (.LD_D t a c i) = (32, pack [(7, 51), (6, t.toNat), (6, a.toNat), (3, 6), (4, c.toNat), (6, i.toNat)]) := by
    rw [show encode (.LD_D t a c i) = word 32 3145779 [(7, t.toNat), (13, a.toNat), (22, c.toNat), (26, i.toNat)] from rfl, word_cons, word_cons, word_cons, word_cons, word_nil]; exact congrArg (Prod.mk 32) (by simp only [pack]; omega)
  have hm := pack_get _ hf 0 7 51 0 rfl rfl
  rw [Nat.pow_zero, Nat.div_one] at hm
  refine Encoding.of32 _ _ he (pack_lt _ hf) hm rfl ?_
  rw [major_Load _ hm]; unfold decodeLoad; rw [show bitsAt (pack _) 19 3 = 6 from pack_get _ hf 3 3 6 19 rfl rfl]
  show some _ = _
  rw [at_pack 7 1 _ hf t rfl rfl, at_pack 13 2 _ hf a rfl rfl, at_pack 22 4 _ hf c rfl rfl, at_pack 26 5 _ hf i rfl rfl]

theorem Encoding.ST_B (t : BitVec 6) (a : BitVec 6) (c : BitVec 4) (i : BitVec 6) : Encoding.Statement (.ST_B t a c i) := by
  have hf : fits [(7, 53), (6, t.toNat), (6, a.toNat), (3, 0), (4, c.toNat), (6, i.toNat)] := ⟨by decide, t.isLt, a.isLt, by decide, c.isLt, i.isLt, trivial⟩
  have he : encode (.ST_B t a c i) = (32, pack [(7, 53), (6, t.toNat), (6, a.toNat), (3, 0), (4, c.toNat), (6, i.toNat)]) := by
    rw [show encode (.ST_B t a c i) = word 32 53 [(7, t.toNat), (13, a.toNat), (22, c.toNat), (26, i.toNat)] from rfl, word_cons, word_cons, word_cons, word_cons, word_nil]; exact congrArg (Prod.mk 32) (by simp only [pack]; omega)
  have hm := pack_get _ hf 0 7 53 0 rfl rfl
  rw [Nat.pow_zero, Nat.div_one] at hm
  refine Encoding.of32 _ _ he (pack_lt _ hf) hm rfl ?_
  rw [major_Store _ hm]; unfold decodeStore; rw [show bitsAt (pack _) 19 3 = 0 from pack_get _ hf 3 3 0 19 rfl rfl]
  show some _ = _
  rw [at_pack 7 1 _ hf t rfl rfl, at_pack 13 2 _ hf a rfl rfl, at_pack 22 4 _ hf c rfl rfl, at_pack 26 5 _ hf i rfl rfl]

theorem Encoding.ST_H (t : BitVec 6) (a : BitVec 6) (c : BitVec 4) (i : BitVec 6) : Encoding.Statement (.ST_H t a c i) := by
  have hf : fits [(7, 53), (6, t.toNat), (6, a.toNat), (3, 2), (4, c.toNat), (6, i.toNat)] := ⟨by decide, t.isLt, a.isLt, by decide, c.isLt, i.isLt, trivial⟩
  have he : encode (.ST_H t a c i) = (32, pack [(7, 53), (6, t.toNat), (6, a.toNat), (3, 2), (4, c.toNat), (6, i.toNat)]) := by
    rw [show encode (.ST_H t a c i) = word 32 1048629 [(7, t.toNat), (13, a.toNat), (22, c.toNat), (26, i.toNat)] from rfl, word_cons, word_cons, word_cons, word_cons, word_nil]; exact congrArg (Prod.mk 32) (by simp only [pack]; omega)
  have hm := pack_get _ hf 0 7 53 0 rfl rfl
  rw [Nat.pow_zero, Nat.div_one] at hm
  refine Encoding.of32 _ _ he (pack_lt _ hf) hm rfl ?_
  rw [major_Store _ hm]; unfold decodeStore; rw [show bitsAt (pack _) 19 3 = 2 from pack_get _ hf 3 3 2 19 rfl rfl]
  show some _ = _
  rw [at_pack 7 1 _ hf t rfl rfl, at_pack 13 2 _ hf a rfl rfl, at_pack 22 4 _ hf c rfl rfl, at_pack 26 5 _ hf i rfl rfl]

theorem Encoding.ST_W (t : BitVec 6) (a : BitVec 6) (c : BitVec 4) (i : BitVec 6) : Encoding.Statement (.ST_W t a c i) := by
  have hf : fits [(7, 53), (6, t.toNat), (6, a.toNat), (3, 4), (4, c.toNat), (6, i.toNat)] := ⟨by decide, t.isLt, a.isLt, by decide, c.isLt, i.isLt, trivial⟩
  have he : encode (.ST_W t a c i) = (32, pack [(7, 53), (6, t.toNat), (6, a.toNat), (3, 4), (4, c.toNat), (6, i.toNat)]) := by
    rw [show encode (.ST_W t a c i) = word 32 2097205 [(7, t.toNat), (13, a.toNat), (22, c.toNat), (26, i.toNat)] from rfl, word_cons, word_cons, word_cons, word_cons, word_nil]; exact congrArg (Prod.mk 32) (by simp only [pack]; omega)
  have hm := pack_get _ hf 0 7 53 0 rfl rfl
  rw [Nat.pow_zero, Nat.div_one] at hm
  refine Encoding.of32 _ _ he (pack_lt _ hf) hm rfl ?_
  rw [major_Store _ hm]; unfold decodeStore; rw [show bitsAt (pack _) 19 3 = 4 from pack_get _ hf 3 3 4 19 rfl rfl]
  show some _ = _
  rw [at_pack 7 1 _ hf t rfl rfl, at_pack 13 2 _ hf a rfl rfl, at_pack 22 4 _ hf c rfl rfl, at_pack 26 5 _ hf i rfl rfl]

theorem Encoding.ST_D (t : BitVec 6) (a : BitVec 6) (c : BitVec 4) (i : BitVec 6) : Encoding.Statement (.ST_D t a c i) := by
  have hf : fits [(7, 53), (6, t.toNat), (6, a.toNat), (3, 6), (4, c.toNat), (6, i.toNat)] := ⟨by decide, t.isLt, a.isLt, by decide, c.isLt, i.isLt, trivial⟩
  have he : encode (.ST_D t a c i) = (32, pack [(7, 53), (6, t.toNat), (6, a.toNat), (3, 6), (4, c.toNat), (6, i.toNat)]) := by
    rw [show encode (.ST_D t a c i) = word 32 3145781 [(7, t.toNat), (13, a.toNat), (22, c.toNat), (26, i.toNat)] from rfl, word_cons, word_cons, word_cons, word_cons, word_nil]; exact congrArg (Prod.mk 32) (by simp only [pack]; omega)
  have hm := pack_get _ hf 0 7 53 0 rfl rfl
  rw [Nat.pow_zero, Nat.div_one] at hm
  refine Encoding.of32 _ _ he (pack_lt _ hf) hm rfl ?_
  rw [major_Store _ hm]; unfold decodeStore; rw [show bitsAt (pack _) 19 3 = 6 from pack_get _ hf 3 3 6 19 rfl rfl]
  show some _ = _
  rw [at_pack 7 1 _ hf t rfl rfl, at_pack 13 2 _ hf a rfl rfl, at_pack 22 4 _ hf c rfl rfl, at_pack 26 5 _ hf i rfl rfl]

theorem Encoding.FADD_S (d : BitVec 6) (a : BitVec 6) (b : BitVec 6) : Encoding.Statement (.FADD_S d a b) := by
  have hf : fits [(7, 55), (6, d.toNat), (6, a.toNat), (6, b.toNat), (7, 0)] := ⟨by decide, d.isLt, a.isLt, b.isLt, by decide, trivial⟩
  have he : encode (.FADD_S d a b) = (32, pack [(7, 55), (6, d.toNat), (6, a.toNat), (6, b.toNat), (7, 0)]) := by
    rw [show encode (.FADD_S d a b) = word 32 55 [(7, d.toNat), (13, a.toNat), (19, b.toNat)] from rfl, word_cons, word_cons, word_cons, word_nil]; exact congrArg (Prod.mk 32) (by simp only [pack]; omega)
  have hm := pack_get _ hf 0 7 55 0 rfl rfl
  rw [Nat.pow_zero, Nat.div_one] at hm
  refine Encoding.of32 _ _ he (pack_lt _ hf) hm rfl ?_
  rw [major_Fp _ hm]; unfold decodeFp; rw [show bitsAt (pack _) 25 7 = 0 from pack_get _ hf 4 7 0 25 rfl rfl]
  show some _ = _
  rw [at_pack 7 1 _ hf d rfl rfl, at_pack 13 2 _ hf a rfl rfl, at_pack 19 3 _ hf b rfl rfl]

theorem Encoding.FSUB_S (d : BitVec 6) (a : BitVec 6) (b : BitVec 6) : Encoding.Statement (.FSUB_S d a b) := by
  have hf : fits [(7, 55), (6, d.toNat), (6, a.toNat), (6, b.toNat), (7, 1)] := ⟨by decide, d.isLt, a.isLt, b.isLt, by decide, trivial⟩
  have he : encode (.FSUB_S d a b) = (32, pack [(7, 55), (6, d.toNat), (6, a.toNat), (6, b.toNat), (7, 1)]) := by
    rw [show encode (.FSUB_S d a b) = word 32 33554487 [(7, d.toNat), (13, a.toNat), (19, b.toNat)] from rfl, word_cons, word_cons, word_cons, word_nil]; exact congrArg (Prod.mk 32) (by simp only [pack]; omega)
  have hm := pack_get _ hf 0 7 55 0 rfl rfl
  rw [Nat.pow_zero, Nat.div_one] at hm
  refine Encoding.of32 _ _ he (pack_lt _ hf) hm rfl ?_
  rw [major_Fp _ hm]; unfold decodeFp; rw [show bitsAt (pack _) 25 7 = 1 from pack_get _ hf 4 7 1 25 rfl rfl]
  show some _ = _
  rw [at_pack 7 1 _ hf d rfl rfl, at_pack 13 2 _ hf a rfl rfl, at_pack 19 3 _ hf b rfl rfl]

theorem Encoding.FMUL_S (d : BitVec 6) (a : BitVec 6) (b : BitVec 6) : Encoding.Statement (.FMUL_S d a b) := by
  have hf : fits [(7, 55), (6, d.toNat), (6, a.toNat), (6, b.toNat), (7, 2)] := ⟨by decide, d.isLt, a.isLt, b.isLt, by decide, trivial⟩
  have he : encode (.FMUL_S d a b) = (32, pack [(7, 55), (6, d.toNat), (6, a.toNat), (6, b.toNat), (7, 2)]) := by
    rw [show encode (.FMUL_S d a b) = word 32 67108919 [(7, d.toNat), (13, a.toNat), (19, b.toNat)] from rfl, word_cons, word_cons, word_cons, word_nil]; exact congrArg (Prod.mk 32) (by simp only [pack]; omega)
  have hm := pack_get _ hf 0 7 55 0 rfl rfl
  rw [Nat.pow_zero, Nat.div_one] at hm
  refine Encoding.of32 _ _ he (pack_lt _ hf) hm rfl ?_
  rw [major_Fp _ hm]; unfold decodeFp; rw [show bitsAt (pack _) 25 7 = 2 from pack_get _ hf 4 7 2 25 rfl rfl]
  show some _ = _
  rw [at_pack 7 1 _ hf d rfl rfl, at_pack 13 2 _ hf a rfl rfl, at_pack 19 3 _ hf b rfl rfl]

theorem Encoding.FDIV_S (d : BitVec 6) (a : BitVec 6) (b : BitVec 6) : Encoding.Statement (.FDIV_S d a b) := by
  have hf : fits [(7, 55), (6, d.toNat), (6, a.toNat), (6, b.toNat), (7, 3)] := ⟨by decide, d.isLt, a.isLt, b.isLt, by decide, trivial⟩
  have he : encode (.FDIV_S d a b) = (32, pack [(7, 55), (6, d.toNat), (6, a.toNat), (6, b.toNat), (7, 3)]) := by
    rw [show encode (.FDIV_S d a b) = word 32 100663351 [(7, d.toNat), (13, a.toNat), (19, b.toNat)] from rfl, word_cons, word_cons, word_cons, word_nil]; exact congrArg (Prod.mk 32) (by simp only [pack]; omega)
  have hm := pack_get _ hf 0 7 55 0 rfl rfl
  rw [Nat.pow_zero, Nat.div_one] at hm
  refine Encoding.of32 _ _ he (pack_lt _ hf) hm rfl ?_
  rw [major_Fp _ hm]; unfold decodeFp; rw [show bitsAt (pack _) 25 7 = 3 from pack_get _ hf 4 7 3 25 rfl rfl]
  show some _ = _
  rw [at_pack 7 1 _ hf d rfl rfl, at_pack 13 2 _ hf a rfl rfl, at_pack 19 3 _ hf b rfl rfl]

theorem Encoding.FSQRT_S (d : BitVec 6) (a : BitVec 6) : Encoding.Statement (.FSQRT_S d a) := by
  have hf : fits [(7, 55), (6, d.toNat), (6, a.toNat), (6, 0), (7, 4)] := ⟨by decide, d.isLt, a.isLt, by decide, by decide, trivial⟩
  have he : encode (.FSQRT_S d a) = (32, pack [(7, 55), (6, d.toNat), (6, a.toNat), (6, 0), (7, 4)]) := by
    rw [show encode (.FSQRT_S d a) = word 32 134217783 [(7, d.toNat), (13, a.toNat)] from rfl, word_cons, word_cons, word_nil]; exact congrArg (Prod.mk 32) (by simp only [pack]; omega)
  have hm := pack_get _ hf 0 7 55 0 rfl rfl
  rw [Nat.pow_zero, Nat.div_one] at hm
  refine Encoding.of32 _ _ he (pack_lt _ hf) hm rfl ?_
  rw [major_Fp _ hm]; unfold decodeFp; rw [show bitsAt (pack _) 25 7 = 4 from pack_get _ hf 4 7 4 25 rfl rfl]
  show some _ = _
  rw [at_pack 7 1 _ hf d rfl rfl, at_pack 13 2 _ hf a rfl rfl]

theorem Encoding.FMIN_S (d : BitVec 6) (a : BitVec 6) (b : BitVec 6) : Encoding.Statement (.FMIN_S d a b) := by
  have hf : fits [(7, 55), (6, d.toNat), (6, a.toNat), (6, b.toNat), (7, 5)] := ⟨by decide, d.isLt, a.isLt, b.isLt, by decide, trivial⟩
  have he : encode (.FMIN_S d a b) = (32, pack [(7, 55), (6, d.toNat), (6, a.toNat), (6, b.toNat), (7, 5)]) := by
    rw [show encode (.FMIN_S d a b) = word 32 167772215 [(7, d.toNat), (13, a.toNat), (19, b.toNat)] from rfl, word_cons, word_cons, word_cons, word_nil]; exact congrArg (Prod.mk 32) (by simp only [pack]; omega)
  have hm := pack_get _ hf 0 7 55 0 rfl rfl
  rw [Nat.pow_zero, Nat.div_one] at hm
  refine Encoding.of32 _ _ he (pack_lt _ hf) hm rfl ?_
  rw [major_Fp _ hm]; unfold decodeFp; rw [show bitsAt (pack _) 25 7 = 5 from pack_get _ hf 4 7 5 25 rfl rfl]
  show some _ = _
  rw [at_pack 7 1 _ hf d rfl rfl, at_pack 13 2 _ hf a rfl rfl, at_pack 19 3 _ hf b rfl rfl]

theorem Encoding.FMAX_S (d : BitVec 6) (a : BitVec 6) (b : BitVec 6) : Encoding.Statement (.FMAX_S d a b) := by
  have hf : fits [(7, 55), (6, d.toNat), (6, a.toNat), (6, b.toNat), (7, 6)] := ⟨by decide, d.isLt, a.isLt, b.isLt, by decide, trivial⟩
  have he : encode (.FMAX_S d a b) = (32, pack [(7, 55), (6, d.toNat), (6, a.toNat), (6, b.toNat), (7, 6)]) := by
    rw [show encode (.FMAX_S d a b) = word 32 201326647 [(7, d.toNat), (13, a.toNat), (19, b.toNat)] from rfl, word_cons, word_cons, word_cons, word_nil]; exact congrArg (Prod.mk 32) (by simp only [pack]; omega)
  have hm := pack_get _ hf 0 7 55 0 rfl rfl
  rw [Nat.pow_zero, Nat.div_one] at hm
  refine Encoding.of32 _ _ he (pack_lt _ hf) hm rfl ?_
  rw [major_Fp _ hm]; unfold decodeFp; rw [show bitsAt (pack _) 25 7 = 6 from pack_get _ hf 4 7 6 25 rfl rfl]
  show some _ = _
  rw [at_pack 7 1 _ hf d rfl rfl, at_pack 13 2 _ hf a rfl rfl, at_pack 19 3 _ hf b rfl rfl]

theorem Encoding.FCMPEQ_S (d : BitVec 6) (a : BitVec 6) (b : BitVec 6) : Encoding.Statement (.FCMPEQ_S d a b) := by
  have hf : fits [(7, 55), (6, d.toNat), (6, a.toNat), (6, b.toNat), (7, 7)] := ⟨by decide, d.isLt, a.isLt, b.isLt, by decide, trivial⟩
  have he : encode (.FCMPEQ_S d a b) = (32, pack [(7, 55), (6, d.toNat), (6, a.toNat), (6, b.toNat), (7, 7)]) := by
    rw [show encode (.FCMPEQ_S d a b) = word 32 234881079 [(7, d.toNat), (13, a.toNat), (19, b.toNat)] from rfl, word_cons, word_cons, word_cons, word_nil]; exact congrArg (Prod.mk 32) (by simp only [pack]; omega)
  have hm := pack_get _ hf 0 7 55 0 rfl rfl
  rw [Nat.pow_zero, Nat.div_one] at hm
  refine Encoding.of32 _ _ he (pack_lt _ hf) hm rfl ?_
  rw [major_Fp _ hm]; unfold decodeFp; rw [show bitsAt (pack _) 25 7 = 7 from pack_get _ hf 4 7 7 25 rfl rfl]
  show some _ = _
  rw [at_pack 7 1 _ hf d rfl rfl, at_pack 13 2 _ hf a rfl rfl, at_pack 19 3 _ hf b rfl rfl]

theorem Encoding.FCMPLT_S (d : BitVec 6) (a : BitVec 6) (b : BitVec 6) : Encoding.Statement (.FCMPLT_S d a b) := by
  have hf : fits [(7, 55), (6, d.toNat), (6, a.toNat), (6, b.toNat), (7, 8)] := ⟨by decide, d.isLt, a.isLt, b.isLt, by decide, trivial⟩
  have he : encode (.FCMPLT_S d a b) = (32, pack [(7, 55), (6, d.toNat), (6, a.toNat), (6, b.toNat), (7, 8)]) := by
    rw [show encode (.FCMPLT_S d a b) = word 32 268435511 [(7, d.toNat), (13, a.toNat), (19, b.toNat)] from rfl, word_cons, word_cons, word_cons, word_nil]; exact congrArg (Prod.mk 32) (by simp only [pack]; omega)
  have hm := pack_get _ hf 0 7 55 0 rfl rfl
  rw [Nat.pow_zero, Nat.div_one] at hm
  refine Encoding.of32 _ _ he (pack_lt _ hf) hm rfl ?_
  rw [major_Fp _ hm]; unfold decodeFp; rw [show bitsAt (pack _) 25 7 = 8 from pack_get _ hf 4 7 8 25 rfl rfl]
  show some _ = _
  rw [at_pack 7 1 _ hf d rfl rfl, at_pack 13 2 _ hf a rfl rfl, at_pack 19 3 _ hf b rfl rfl]

theorem Encoding.FCMPLE_S (d : BitVec 6) (a : BitVec 6) (b : BitVec 6) : Encoding.Statement (.FCMPLE_S d a b) := by
  have hf : fits [(7, 55), (6, d.toNat), (6, a.toNat), (6, b.toNat), (7, 9)] := ⟨by decide, d.isLt, a.isLt, b.isLt, by decide, trivial⟩
  have he : encode (.FCMPLE_S d a b) = (32, pack [(7, 55), (6, d.toNat), (6, a.toNat), (6, b.toNat), (7, 9)]) := by
    rw [show encode (.FCMPLE_S d a b) = word 32 301989943 [(7, d.toNat), (13, a.toNat), (19, b.toNat)] from rfl, word_cons, word_cons, word_cons, word_nil]; exact congrArg (Prod.mk 32) (by simp only [pack]; omega)
  have hm := pack_get _ hf 0 7 55 0 rfl rfl
  rw [Nat.pow_zero, Nat.div_one] at hm
  refine Encoding.of32 _ _ he (pack_lt _ hf) hm rfl ?_
  rw [major_Fp _ hm]; unfold decodeFp; rw [show bitsAt (pack _) 25 7 = 9 from pack_get _ hf 4 7 9 25 rfl rfl]
  show some _ = _
  rw [at_pack 7 1 _ hf d rfl rfl, at_pack 13 2 _ hf a rfl rfl, at_pack 19 3 _ hf b rfl rfl]

theorem Encoding.FCLASS_S (d : BitVec 6) (a : BitVec 6) : Encoding.Statement (.FCLASS_S d a) := by
  have hf : fits [(7, 55), (6, d.toNat), (6, a.toNat), (6, 0), (7, 10)] := ⟨by decide, d.isLt, a.isLt, by decide, by decide, trivial⟩
  have he : encode (.FCLASS_S d a) = (32, pack [(7, 55), (6, d.toNat), (6, a.toNat), (6, 0), (7, 10)]) := by
    rw [show encode (.FCLASS_S d a) = word 32 335544375 [(7, d.toNat), (13, a.toNat)] from rfl, word_cons, word_cons, word_nil]; exact congrArg (Prod.mk 32) (by simp only [pack]; omega)
  have hm := pack_get _ hf 0 7 55 0 rfl rfl
  rw [Nat.pow_zero, Nat.div_one] at hm
  refine Encoding.of32 _ _ he (pack_lt _ hf) hm rfl ?_
  rw [major_Fp _ hm]; unfold decodeFp; rw [show bitsAt (pack _) 25 7 = 10 from pack_get _ hf 4 7 10 25 rfl rfl]
  show some _ = _
  rw [at_pack 7 1 _ hf d rfl rfl, at_pack 13 2 _ hf a rfl rfl]

theorem Encoding.FMA_S (d : BitVec 6) (a : BitVec 6) (b : BitVec 6) : Encoding.Statement (.FMA_S d a b) := by
  have hf : fits [(7, 55), (6, d.toNat), (6, a.toNat), (6, b.toNat), (7, 11)] := ⟨by decide, d.isLt, a.isLt, b.isLt, by decide, trivial⟩
  have he : encode (.FMA_S d a b) = (32, pack [(7, 55), (6, d.toNat), (6, a.toNat), (6, b.toNat), (7, 11)]) := by
    rw [show encode (.FMA_S d a b) = word 32 369098807 [(7, d.toNat), (13, a.toNat), (19, b.toNat)] from rfl, word_cons, word_cons, word_cons, word_nil]; exact congrArg (Prod.mk 32) (by simp only [pack]; omega)
  have hm := pack_get _ hf 0 7 55 0 rfl rfl
  rw [Nat.pow_zero, Nat.div_one] at hm
  refine Encoding.of32 _ _ he (pack_lt _ hf) hm rfl ?_
  rw [major_Fp _ hm]; unfold decodeFp; rw [show bitsAt (pack _) 25 7 = 11 from pack_get _ hf 4 7 11 25 rfl rfl]
  show some _ = _
  rw [at_pack 7 1 _ hf d rfl rfl, at_pack 13 2 _ hf a rfl rfl, at_pack 19 3 _ hf b rfl rfl]

theorem Encoding.FADD_D (d : BitVec 6) (a : BitVec 6) (b : BitVec 6) : Encoding.Statement (.FADD_D d a b) := by
  have hf : fits [(7, 55), (6, d.toNat), (6, a.toNat), (6, b.toNat), (7, 16)] := ⟨by decide, d.isLt, a.isLt, b.isLt, by decide, trivial⟩
  have he : encode (.FADD_D d a b) = (32, pack [(7, 55), (6, d.toNat), (6, a.toNat), (6, b.toNat), (7, 16)]) := by
    rw [show encode (.FADD_D d a b) = word 32 536870967 [(7, d.toNat), (13, a.toNat), (19, b.toNat)] from rfl, word_cons, word_cons, word_cons, word_nil]; exact congrArg (Prod.mk 32) (by simp only [pack]; omega)
  have hm := pack_get _ hf 0 7 55 0 rfl rfl
  rw [Nat.pow_zero, Nat.div_one] at hm
  refine Encoding.of32 _ _ he (pack_lt _ hf) hm rfl ?_
  rw [major_Fp _ hm]; unfold decodeFp; rw [show bitsAt (pack _) 25 7 = 16 from pack_get _ hf 4 7 16 25 rfl rfl]
  show some _ = _
  rw [at_pack 7 1 _ hf d rfl rfl, at_pack 13 2 _ hf a rfl rfl, at_pack 19 3 _ hf b rfl rfl]

theorem Encoding.FSUB_D (d : BitVec 6) (a : BitVec 6) (b : BitVec 6) : Encoding.Statement (.FSUB_D d a b) := by
  have hf : fits [(7, 55), (6, d.toNat), (6, a.toNat), (6, b.toNat), (7, 17)] := ⟨by decide, d.isLt, a.isLt, b.isLt, by decide, trivial⟩
  have he : encode (.FSUB_D d a b) = (32, pack [(7, 55), (6, d.toNat), (6, a.toNat), (6, b.toNat), (7, 17)]) := by
    rw [show encode (.FSUB_D d a b) = word 32 570425399 [(7, d.toNat), (13, a.toNat), (19, b.toNat)] from rfl, word_cons, word_cons, word_cons, word_nil]; exact congrArg (Prod.mk 32) (by simp only [pack]; omega)
  have hm := pack_get _ hf 0 7 55 0 rfl rfl
  rw [Nat.pow_zero, Nat.div_one] at hm
  refine Encoding.of32 _ _ he (pack_lt _ hf) hm rfl ?_
  rw [major_Fp _ hm]; unfold decodeFp; rw [show bitsAt (pack _) 25 7 = 17 from pack_get _ hf 4 7 17 25 rfl rfl]
  show some _ = _
  rw [at_pack 7 1 _ hf d rfl rfl, at_pack 13 2 _ hf a rfl rfl, at_pack 19 3 _ hf b rfl rfl]

theorem Encoding.FMUL_D (d : BitVec 6) (a : BitVec 6) (b : BitVec 6) : Encoding.Statement (.FMUL_D d a b) := by
  have hf : fits [(7, 55), (6, d.toNat), (6, a.toNat), (6, b.toNat), (7, 18)] := ⟨by decide, d.isLt, a.isLt, b.isLt, by decide, trivial⟩
  have he : encode (.FMUL_D d a b) = (32, pack [(7, 55), (6, d.toNat), (6, a.toNat), (6, b.toNat), (7, 18)]) := by
    rw [show encode (.FMUL_D d a b) = word 32 603979831 [(7, d.toNat), (13, a.toNat), (19, b.toNat)] from rfl, word_cons, word_cons, word_cons, word_nil]; exact congrArg (Prod.mk 32) (by simp only [pack]; omega)
  have hm := pack_get _ hf 0 7 55 0 rfl rfl
  rw [Nat.pow_zero, Nat.div_one] at hm
  refine Encoding.of32 _ _ he (pack_lt _ hf) hm rfl ?_
  rw [major_Fp _ hm]; unfold decodeFp; rw [show bitsAt (pack _) 25 7 = 18 from pack_get _ hf 4 7 18 25 rfl rfl]
  show some _ = _
  rw [at_pack 7 1 _ hf d rfl rfl, at_pack 13 2 _ hf a rfl rfl, at_pack 19 3 _ hf b rfl rfl]

theorem Encoding.FDIV_D (d : BitVec 6) (a : BitVec 6) (b : BitVec 6) : Encoding.Statement (.FDIV_D d a b) := by
  have hf : fits [(7, 55), (6, d.toNat), (6, a.toNat), (6, b.toNat), (7, 19)] := ⟨by decide, d.isLt, a.isLt, b.isLt, by decide, trivial⟩
  have he : encode (.FDIV_D d a b) = (32, pack [(7, 55), (6, d.toNat), (6, a.toNat), (6, b.toNat), (7, 19)]) := by
    rw [show encode (.FDIV_D d a b) = word 32 637534263 [(7, d.toNat), (13, a.toNat), (19, b.toNat)] from rfl, word_cons, word_cons, word_cons, word_nil]; exact congrArg (Prod.mk 32) (by simp only [pack]; omega)
  have hm := pack_get _ hf 0 7 55 0 rfl rfl
  rw [Nat.pow_zero, Nat.div_one] at hm
  refine Encoding.of32 _ _ he (pack_lt _ hf) hm rfl ?_
  rw [major_Fp _ hm]; unfold decodeFp; rw [show bitsAt (pack _) 25 7 = 19 from pack_get _ hf 4 7 19 25 rfl rfl]
  show some _ = _
  rw [at_pack 7 1 _ hf d rfl rfl, at_pack 13 2 _ hf a rfl rfl, at_pack 19 3 _ hf b rfl rfl]

theorem Encoding.FSQRT_D (d : BitVec 6) (a : BitVec 6) : Encoding.Statement (.FSQRT_D d a) := by
  have hf : fits [(7, 55), (6, d.toNat), (6, a.toNat), (6, 0), (7, 20)] := ⟨by decide, d.isLt, a.isLt, by decide, by decide, trivial⟩
  have he : encode (.FSQRT_D d a) = (32, pack [(7, 55), (6, d.toNat), (6, a.toNat), (6, 0), (7, 20)]) := by
    rw [show encode (.FSQRT_D d a) = word 32 671088695 [(7, d.toNat), (13, a.toNat)] from rfl, word_cons, word_cons, word_nil]; exact congrArg (Prod.mk 32) (by simp only [pack]; omega)
  have hm := pack_get _ hf 0 7 55 0 rfl rfl
  rw [Nat.pow_zero, Nat.div_one] at hm
  refine Encoding.of32 _ _ he (pack_lt _ hf) hm rfl ?_
  rw [major_Fp _ hm]; unfold decodeFp; rw [show bitsAt (pack _) 25 7 = 20 from pack_get _ hf 4 7 20 25 rfl rfl]
  show some _ = _
  rw [at_pack 7 1 _ hf d rfl rfl, at_pack 13 2 _ hf a rfl rfl]

theorem Encoding.FMIN_D (d : BitVec 6) (a : BitVec 6) (b : BitVec 6) : Encoding.Statement (.FMIN_D d a b) := by
  have hf : fits [(7, 55), (6, d.toNat), (6, a.toNat), (6, b.toNat), (7, 21)] := ⟨by decide, d.isLt, a.isLt, b.isLt, by decide, trivial⟩
  have he : encode (.FMIN_D d a b) = (32, pack [(7, 55), (6, d.toNat), (6, a.toNat), (6, b.toNat), (7, 21)]) := by
    rw [show encode (.FMIN_D d a b) = word 32 704643127 [(7, d.toNat), (13, a.toNat), (19, b.toNat)] from rfl, word_cons, word_cons, word_cons, word_nil]; exact congrArg (Prod.mk 32) (by simp only [pack]; omega)
  have hm := pack_get _ hf 0 7 55 0 rfl rfl
  rw [Nat.pow_zero, Nat.div_one] at hm
  refine Encoding.of32 _ _ he (pack_lt _ hf) hm rfl ?_
  rw [major_Fp _ hm]; unfold decodeFp; rw [show bitsAt (pack _) 25 7 = 21 from pack_get _ hf 4 7 21 25 rfl rfl]
  show some _ = _
  rw [at_pack 7 1 _ hf d rfl rfl, at_pack 13 2 _ hf a rfl rfl, at_pack 19 3 _ hf b rfl rfl]

theorem Encoding.FMAX_D (d : BitVec 6) (a : BitVec 6) (b : BitVec 6) : Encoding.Statement (.FMAX_D d a b) := by
  have hf : fits [(7, 55), (6, d.toNat), (6, a.toNat), (6, b.toNat), (7, 22)] := ⟨by decide, d.isLt, a.isLt, b.isLt, by decide, trivial⟩
  have he : encode (.FMAX_D d a b) = (32, pack [(7, 55), (6, d.toNat), (6, a.toNat), (6, b.toNat), (7, 22)]) := by
    rw [show encode (.FMAX_D d a b) = word 32 738197559 [(7, d.toNat), (13, a.toNat), (19, b.toNat)] from rfl, word_cons, word_cons, word_cons, word_nil]; exact congrArg (Prod.mk 32) (by simp only [pack]; omega)
  have hm := pack_get _ hf 0 7 55 0 rfl rfl
  rw [Nat.pow_zero, Nat.div_one] at hm
  refine Encoding.of32 _ _ he (pack_lt _ hf) hm rfl ?_
  rw [major_Fp _ hm]; unfold decodeFp; rw [show bitsAt (pack _) 25 7 = 22 from pack_get _ hf 4 7 22 25 rfl rfl]
  show some _ = _
  rw [at_pack 7 1 _ hf d rfl rfl, at_pack 13 2 _ hf a rfl rfl, at_pack 19 3 _ hf b rfl rfl]

theorem Encoding.FCMPEQ_D (d : BitVec 6) (a : BitVec 6) (b : BitVec 6) : Encoding.Statement (.FCMPEQ_D d a b) := by
  have hf : fits [(7, 55), (6, d.toNat), (6, a.toNat), (6, b.toNat), (7, 23)] := ⟨by decide, d.isLt, a.isLt, b.isLt, by decide, trivial⟩
  have he : encode (.FCMPEQ_D d a b) = (32, pack [(7, 55), (6, d.toNat), (6, a.toNat), (6, b.toNat), (7, 23)]) := by
    rw [show encode (.FCMPEQ_D d a b) = word 32 771751991 [(7, d.toNat), (13, a.toNat), (19, b.toNat)] from rfl, word_cons, word_cons, word_cons, word_nil]; exact congrArg (Prod.mk 32) (by simp only [pack]; omega)
  have hm := pack_get _ hf 0 7 55 0 rfl rfl
  rw [Nat.pow_zero, Nat.div_one] at hm
  refine Encoding.of32 _ _ he (pack_lt _ hf) hm rfl ?_
  rw [major_Fp _ hm]; unfold decodeFp; rw [show bitsAt (pack _) 25 7 = 23 from pack_get _ hf 4 7 23 25 rfl rfl]
  show some _ = _
  rw [at_pack 7 1 _ hf d rfl rfl, at_pack 13 2 _ hf a rfl rfl, at_pack 19 3 _ hf b rfl rfl]

theorem Encoding.FCMPLT_D (d : BitVec 6) (a : BitVec 6) (b : BitVec 6) : Encoding.Statement (.FCMPLT_D d a b) := by
  have hf : fits [(7, 55), (6, d.toNat), (6, a.toNat), (6, b.toNat), (7, 24)] := ⟨by decide, d.isLt, a.isLt, b.isLt, by decide, trivial⟩
  have he : encode (.FCMPLT_D d a b) = (32, pack [(7, 55), (6, d.toNat), (6, a.toNat), (6, b.toNat), (7, 24)]) := by
    rw [show encode (.FCMPLT_D d a b) = word 32 805306423 [(7, d.toNat), (13, a.toNat), (19, b.toNat)] from rfl, word_cons, word_cons, word_cons, word_nil]; exact congrArg (Prod.mk 32) (by simp only [pack]; omega)
  have hm := pack_get _ hf 0 7 55 0 rfl rfl
  rw [Nat.pow_zero, Nat.div_one] at hm
  refine Encoding.of32 _ _ he (pack_lt _ hf) hm rfl ?_
  rw [major_Fp _ hm]; unfold decodeFp; rw [show bitsAt (pack _) 25 7 = 24 from pack_get _ hf 4 7 24 25 rfl rfl]
  show some _ = _
  rw [at_pack 7 1 _ hf d rfl rfl, at_pack 13 2 _ hf a rfl rfl, at_pack 19 3 _ hf b rfl rfl]

theorem Encoding.FCMPLE_D (d : BitVec 6) (a : BitVec 6) (b : BitVec 6) : Encoding.Statement (.FCMPLE_D d a b) := by
  have hf : fits [(7, 55), (6, d.toNat), (6, a.toNat), (6, b.toNat), (7, 25)] := ⟨by decide, d.isLt, a.isLt, b.isLt, by decide, trivial⟩
  have he : encode (.FCMPLE_D d a b) = (32, pack [(7, 55), (6, d.toNat), (6, a.toNat), (6, b.toNat), (7, 25)]) := by
    rw [show encode (.FCMPLE_D d a b) = word 32 838860855 [(7, d.toNat), (13, a.toNat), (19, b.toNat)] from rfl, word_cons, word_cons, word_cons, word_nil]; exact congrArg (Prod.mk 32) (by simp only [pack]; omega)
  have hm := pack_get _ hf 0 7 55 0 rfl rfl
  rw [Nat.pow_zero, Nat.div_one] at hm
  refine Encoding.of32 _ _ he (pack_lt _ hf) hm rfl ?_
  rw [major_Fp _ hm]; unfold decodeFp; rw [show bitsAt (pack _) 25 7 = 25 from pack_get _ hf 4 7 25 25 rfl rfl]
  show some _ = _
  rw [at_pack 7 1 _ hf d rfl rfl, at_pack 13 2 _ hf a rfl rfl, at_pack 19 3 _ hf b rfl rfl]

theorem Encoding.FCLASS_D (d : BitVec 6) (a : BitVec 6) : Encoding.Statement (.FCLASS_D d a) := by
  have hf : fits [(7, 55), (6, d.toNat), (6, a.toNat), (6, 0), (7, 26)] := ⟨by decide, d.isLt, a.isLt, by decide, by decide, trivial⟩
  have he : encode (.FCLASS_D d a) = (32, pack [(7, 55), (6, d.toNat), (6, a.toNat), (6, 0), (7, 26)]) := by
    rw [show encode (.FCLASS_D d a) = word 32 872415287 [(7, d.toNat), (13, a.toNat)] from rfl, word_cons, word_cons, word_nil]; exact congrArg (Prod.mk 32) (by simp only [pack]; omega)
  have hm := pack_get _ hf 0 7 55 0 rfl rfl
  rw [Nat.pow_zero, Nat.div_one] at hm
  refine Encoding.of32 _ _ he (pack_lt _ hf) hm rfl ?_
  rw [major_Fp _ hm]; unfold decodeFp; rw [show bitsAt (pack _) 25 7 = 26 from pack_get _ hf 4 7 26 25 rfl rfl]
  show some _ = _
  rw [at_pack 7 1 _ hf d rfl rfl, at_pack 13 2 _ hf a rfl rfl]

theorem Encoding.FMA_D (d : BitVec 6) (a : BitVec 6) (b : BitVec 6) : Encoding.Statement (.FMA_D d a b) := by
  have hf : fits [(7, 55), (6, d.toNat), (6, a.toNat), (6, b.toNat), (7, 27)] := ⟨by decide, d.isLt, a.isLt, b.isLt, by decide, trivial⟩
  have he : encode (.FMA_D d a b) = (32, pack [(7, 55), (6, d.toNat), (6, a.toNat), (6, b.toNat), (7, 27)]) := by
    rw [show encode (.FMA_D d a b) = word 32 905969719 [(7, d.toNat), (13, a.toNat), (19, b.toNat)] from rfl, word_cons, word_cons, word_cons, word_nil]; exact congrArg (Prod.mk 32) (by simp only [pack]; omega)
  have hm := pack_get _ hf 0 7 55 0 rfl rfl
  rw [Nat.pow_zero, Nat.div_one] at hm
  refine Encoding.of32 _ _ he (pack_lt _ hf) hm rfl ?_
  rw [major_Fp _ hm]; unfold decodeFp; rw [show bitsAt (pack _) 25 7 = 27 from pack_get _ hf 4 7 27 25 rfl rfl]
  show some _ = _
  rw [at_pack 7 1 _ hf d rfl rfl, at_pack 13 2 _ hf a rfl rfl, at_pack 19 3 _ hf b rfl rfl]

theorem Encoding.FCVT_S_D (d : BitVec 6) (a : BitVec 6) : Encoding.Statement (.FCVT_S_D d a) := by
  have hf : fits [(7, 55), (6, d.toNat), (6, a.toNat), (6, 0), (7, 40)] := ⟨by decide, d.isLt, a.isLt, by decide, by decide, trivial⟩
  have he : encode (.FCVT_S_D d a) = (32, pack [(7, 55), (6, d.toNat), (6, a.toNat), (6, 0), (7, 40)]) := by
    rw [show encode (.FCVT_S_D d a) = word 32 1342177335 [(7, d.toNat), (13, a.toNat)] from rfl, word_cons, word_cons, word_nil]; exact congrArg (Prod.mk 32) (by simp only [pack]; omega)
  have hm := pack_get _ hf 0 7 55 0 rfl rfl
  rw [Nat.pow_zero, Nat.div_one] at hm
  refine Encoding.of32 _ _ he (pack_lt _ hf) hm rfl ?_
  rw [major_Fp _ hm]; unfold decodeFp; rw [show bitsAt (pack _) 25 7 = 40 from pack_get _ hf 4 7 40 25 rfl rfl]
  show some _ = _
  rw [at_pack 7 1 _ hf d rfl rfl, at_pack 13 2 _ hf a rfl rfl]

theorem Encoding.FCVT_D_S (d : BitVec 6) (a : BitVec 6) : Encoding.Statement (.FCVT_D_S d a) := by
  have hf : fits [(7, 55), (6, d.toNat), (6, a.toNat), (6, 0), (7, 41)] := ⟨by decide, d.isLt, a.isLt, by decide, by decide, trivial⟩
  have he : encode (.FCVT_D_S d a) = (32, pack [(7, 55), (6, d.toNat), (6, a.toNat), (6, 0), (7, 41)]) := by
    rw [show encode (.FCVT_D_S d a) = word 32 1375731767 [(7, d.toNat), (13, a.toNat)] from rfl, word_cons, word_cons, word_nil]; exact congrArg (Prod.mk 32) (by simp only [pack]; omega)
  have hm := pack_get _ hf 0 7 55 0 rfl rfl
  rw [Nat.pow_zero, Nat.div_one] at hm
  refine Encoding.of32 _ _ he (pack_lt _ hf) hm rfl ?_
  rw [major_Fp _ hm]; unfold decodeFp; rw [show bitsAt (pack _) 25 7 = 41 from pack_get _ hf 4 7 41 25 rfl rfl]
  show some _ = _
  rw [at_pack 7 1 _ hf d rfl rfl, at_pack 13 2 _ hf a rfl rfl]

theorem Encoding.FCVT_S_L (d : BitVec 6) (a : BitVec 6) : Encoding.Statement (.FCVT_S_L d a) := by
  have hf : fits [(7, 55), (6, d.toNat), (6, a.toNat), (6, 0), (7, 42)] := ⟨by decide, d.isLt, a.isLt, by decide, by decide, trivial⟩
  have he : encode (.FCVT_S_L d a) = (32, pack [(7, 55), (6, d.toNat), (6, a.toNat), (6, 0), (7, 42)]) := by
    rw [show encode (.FCVT_S_L d a) = word 32 1409286199 [(7, d.toNat), (13, a.toNat)] from rfl, word_cons, word_cons, word_nil]; exact congrArg (Prod.mk 32) (by simp only [pack]; omega)
  have hm := pack_get _ hf 0 7 55 0 rfl rfl
  rw [Nat.pow_zero, Nat.div_one] at hm
  refine Encoding.of32 _ _ he (pack_lt _ hf) hm rfl ?_
  rw [major_Fp _ hm]; unfold decodeFp; rw [show bitsAt (pack _) 25 7 = 42 from pack_get _ hf 4 7 42 25 rfl rfl]
  show some _ = _
  rw [at_pack 7 1 _ hf d rfl rfl, at_pack 13 2 _ hf a rfl rfl]

theorem Encoding.FCVT_D_L (d : BitVec 6) (a : BitVec 6) : Encoding.Statement (.FCVT_D_L d a) := by
  have hf : fits [(7, 55), (6, d.toNat), (6, a.toNat), (6, 0), (7, 43)] := ⟨by decide, d.isLt, a.isLt, by decide, by decide, trivial⟩
  have he : encode (.FCVT_D_L d a) = (32, pack [(7, 55), (6, d.toNat), (6, a.toNat), (6, 0), (7, 43)]) := by
    rw [show encode (.FCVT_D_L d a) = word 32 1442840631 [(7, d.toNat), (13, a.toNat)] from rfl, word_cons, word_cons, word_nil]; exact congrArg (Prod.mk 32) (by simp only [pack]; omega)
  have hm := pack_get _ hf 0 7 55 0 rfl rfl
  rw [Nat.pow_zero, Nat.div_one] at hm
  refine Encoding.of32 _ _ he (pack_lt _ hf) hm rfl ?_
  rw [major_Fp _ hm]; unfold decodeFp; rw [show bitsAt (pack _) 25 7 = 43 from pack_get _ hf 4 7 43 25 rfl rfl]
  show some _ = _
  rw [at_pack 7 1 _ hf d rfl rfl, at_pack 13 2 _ hf a rfl rfl]

theorem Encoding.FCVT_L_S (d : BitVec 6) (a : BitVec 6) : Encoding.Statement (.FCVT_L_S d a) := by
  have hf : fits [(7, 55), (6, d.toNat), (6, a.toNat), (6, 0), (7, 44)] := ⟨by decide, d.isLt, a.isLt, by decide, by decide, trivial⟩
  have he : encode (.FCVT_L_S d a) = (32, pack [(7, 55), (6, d.toNat), (6, a.toNat), (6, 0), (7, 44)]) := by
    rw [show encode (.FCVT_L_S d a) = word 32 1476395063 [(7, d.toNat), (13, a.toNat)] from rfl, word_cons, word_cons, word_nil]; exact congrArg (Prod.mk 32) (by simp only [pack]; omega)
  have hm := pack_get _ hf 0 7 55 0 rfl rfl
  rw [Nat.pow_zero, Nat.div_one] at hm
  refine Encoding.of32 _ _ he (pack_lt _ hf) hm rfl ?_
  rw [major_Fp _ hm]; unfold decodeFp; rw [show bitsAt (pack _) 25 7 = 44 from pack_get _ hf 4 7 44 25 rfl rfl]
  show some _ = _
  rw [at_pack 7 1 _ hf d rfl rfl, at_pack 13 2 _ hf a rfl rfl]

theorem Encoding.FCVT_L_D (d : BitVec 6) (a : BitVec 6) : Encoding.Statement (.FCVT_L_D d a) := by
  have hf : fits [(7, 55), (6, d.toNat), (6, a.toNat), (6, 0), (7, 45)] := ⟨by decide, d.isLt, a.isLt, by decide, by decide, trivial⟩
  have he : encode (.FCVT_L_D d a) = (32, pack [(7, 55), (6, d.toNat), (6, a.toNat), (6, 0), (7, 45)]) := by
    rw [show encode (.FCVT_L_D d a) = word 32 1509949495 [(7, d.toNat), (13, a.toNat)] from rfl, word_cons, word_cons, word_nil]; exact congrArg (Prod.mk 32) (by simp only [pack]; omega)
  have hm := pack_get _ hf 0 7 55 0 rfl rfl
  rw [Nat.pow_zero, Nat.div_one] at hm
  refine Encoding.of32 _ _ he (pack_lt _ hf) hm rfl ?_
  rw [major_Fp _ hm]; unfold decodeFp; rw [show bitsAt (pack _) 25 7 = 45 from pack_get _ hf 4 7 45 25 rfl rfl]
  show some _ = _
  rw [at_pack 7 1 _ hf d rfl rfl, at_pack 13 2 _ hf a rfl rfl]

theorem Encoding.FCVT_S_BF (d : BitVec 6) (a : BitVec 6) : Encoding.Statement (.FCVT_S_BF d a) := by
  have hf : fits [(7, 55), (6, d.toNat), (6, a.toNat), (6, 0), (7, 46)] := ⟨by decide, d.isLt, a.isLt, by decide, by decide, trivial⟩
  have he : encode (.FCVT_S_BF d a) = (32, pack [(7, 55), (6, d.toNat), (6, a.toNat), (6, 0), (7, 46)]) := by
    rw [show encode (.FCVT_S_BF d a) = word 32 1543503927 [(7, d.toNat), (13, a.toNat)] from rfl, word_cons, word_cons, word_nil]; exact congrArg (Prod.mk 32) (by simp only [pack]; omega)
  have hm := pack_get _ hf 0 7 55 0 rfl rfl
  rw [Nat.pow_zero, Nat.div_one] at hm
  refine Encoding.of32 _ _ he (pack_lt _ hf) hm rfl ?_
  rw [major_Fp _ hm]; unfold decodeFp; rw [show bitsAt (pack _) 25 7 = 46 from pack_get _ hf 4 7 46 25 rfl rfl]
  show some _ = _
  rw [at_pack 7 1 _ hf d rfl rfl, at_pack 13 2 _ hf a rfl rfl]

theorem Encoding.FCVT_BF_S (d : BitVec 6) (a : BitVec 6) : Encoding.Statement (.FCVT_BF_S d a) := by
  have hf : fits [(7, 55), (6, d.toNat), (6, a.toNat), (6, 0), (7, 47)] := ⟨by decide, d.isLt, a.isLt, by decide, by decide, trivial⟩
  have he : encode (.FCVT_BF_S d a) = (32, pack [(7, 55), (6, d.toNat), (6, a.toNat), (6, 0), (7, 47)]) := by
    rw [show encode (.FCVT_BF_S d a) = word 32 1577058359 [(7, d.toNat), (13, a.toNat)] from rfl, word_cons, word_cons, word_nil]; exact congrArg (Prod.mk 32) (by simp only [pack]; omega)
  have hm := pack_get _ hf 0 7 55 0 rfl rfl
  rw [Nat.pow_zero, Nat.div_one] at hm
  refine Encoding.of32 _ _ he (pack_lt _ hf) hm rfl ?_
  rw [major_Fp _ hm]; unfold decodeFp; rw [show bitsAt (pack _) 25 7 = 47 from pack_get _ hf 4 7 47 25 rfl rfl]
  show some _ = _
  rw [at_pack 7 1 _ hf d rfl rfl, at_pack 13 2 _ hf a rfl rfl]

theorem Encoding.FCVT_S_H (d : BitVec 6) (a : BitVec 6) : Encoding.Statement (.FCVT_S_H d a) := by
  have hf : fits [(7, 55), (6, d.toNat), (6, a.toNat), (6, 0), (7, 48)] := ⟨by decide, d.isLt, a.isLt, by decide, by decide, trivial⟩
  have he : encode (.FCVT_S_H d a) = (32, pack [(7, 55), (6, d.toNat), (6, a.toNat), (6, 0), (7, 48)]) := by
    rw [show encode (.FCVT_S_H d a) = word 32 1610612791 [(7, d.toNat), (13, a.toNat)] from rfl, word_cons, word_cons, word_nil]; exact congrArg (Prod.mk 32) (by simp only [pack]; omega)
  have hm := pack_get _ hf 0 7 55 0 rfl rfl
  rw [Nat.pow_zero, Nat.div_one] at hm
  refine Encoding.of32 _ _ he (pack_lt _ hf) hm rfl ?_
  rw [major_Fp _ hm]; unfold decodeFp; rw [show bitsAt (pack _) 25 7 = 48 from pack_get _ hf 4 7 48 25 rfl rfl]
  show some _ = _
  rw [at_pack 7 1 _ hf d rfl rfl, at_pack 13 2 _ hf a rfl rfl]

theorem Encoding.FCVT_H_S (d : BitVec 6) (a : BitVec 6) : Encoding.Statement (.FCVT_H_S d a) := by
  have hf : fits [(7, 55), (6, d.toNat), (6, a.toNat), (6, 0), (7, 49)] := ⟨by decide, d.isLt, a.isLt, by decide, by decide, trivial⟩
  have he : encode (.FCVT_H_S d a) = (32, pack [(7, 55), (6, d.toNat), (6, a.toNat), (6, 0), (7, 49)]) := by
    rw [show encode (.FCVT_H_S d a) = word 32 1644167223 [(7, d.toNat), (13, a.toNat)] from rfl, word_cons, word_cons, word_nil]; exact congrArg (Prod.mk 32) (by simp only [pack]; omega)
  have hm := pack_get _ hf 0 7 55 0 rfl rfl
  rw [Nat.pow_zero, Nat.div_one] at hm
  refine Encoding.of32 _ _ he (pack_lt _ hf) hm rfl ?_
  rw [major_Fp _ hm]; unfold decodeFp; rw [show bitsAt (pack _) 25 7 = 49 from pack_get _ hf 4 7 49 25 rfl rfl]
  show some _ = _
  rw [at_pack 7 1 _ hf d rfl rfl, at_pack 13 2 _ hf a rfl rfl]

theorem Encoding.VADD (d : BitVec 5) (a : BitVec 5) (b : BitVec 5) (k : BitVec 3) (g : BitVec 3) : Encoding.Statement (.VADD d a b k g) := by
  have hf : fits [(7, 57), (5, d.toNat), (5, a.toNat), (5, b.toNat), (3, k.toNat), (3, g.toNat), (4, 0)] := ⟨by decide, d.isLt, a.isLt, b.isLt, k.isLt, g.isLt, by decide, trivial⟩
  have he : encode (.VADD d a b k g) = (32, pack [(7, 57), (5, d.toNat), (5, a.toNat), (5, b.toNat), (3, k.toNat), (3, g.toNat), (4, 0)]) := by
    rw [show encode (.VADD d a b k g) = word 32 57 [(7, d.toNat), (12, a.toNat), (17, b.toNat), (22, k.toNat), (25, g.toNat)] from rfl, word_cons, word_cons, word_cons, word_cons, word_cons, word_nil]; exact congrArg (Prod.mk 32) (by simp only [pack]; omega)
  have hm := pack_get _ hf 0 7 57 0 rfl rfl
  rw [Nat.pow_zero, Nat.div_one] at hm
  refine Encoding.of32 _ _ he (pack_lt _ hf) hm rfl ?_
  rw [major_VArith _ hm]; unfold decodeVArith; rw [show bitsAt (pack _) 28 4 = 0 from pack_get _ hf 6 4 0 28 rfl rfl]
  show some _ = _
  rw [at_pack 7 1 _ hf d rfl rfl, at_pack 12 2 _ hf a rfl rfl, at_pack 17 3 _ hf b rfl rfl, at_pack 22 4 _ hf k rfl rfl, at_pack 25 5 _ hf g rfl rfl]

theorem Encoding.VSUB (d : BitVec 5) (a : BitVec 5) (b : BitVec 5) (k : BitVec 3) (g : BitVec 3) : Encoding.Statement (.VSUB d a b k g) := by
  have hf : fits [(7, 57), (5, d.toNat), (5, a.toNat), (5, b.toNat), (3, k.toNat), (3, g.toNat), (4, 1)] := ⟨by decide, d.isLt, a.isLt, b.isLt, k.isLt, g.isLt, by decide, trivial⟩
  have he : encode (.VSUB d a b k g) = (32, pack [(7, 57), (5, d.toNat), (5, a.toNat), (5, b.toNat), (3, k.toNat), (3, g.toNat), (4, 1)]) := by
    rw [show encode (.VSUB d a b k g) = word 32 268435513 [(7, d.toNat), (12, a.toNat), (17, b.toNat), (22, k.toNat), (25, g.toNat)] from rfl, word_cons, word_cons, word_cons, word_cons, word_cons, word_nil]; exact congrArg (Prod.mk 32) (by simp only [pack]; omega)
  have hm := pack_get _ hf 0 7 57 0 rfl rfl
  rw [Nat.pow_zero, Nat.div_one] at hm
  refine Encoding.of32 _ _ he (pack_lt _ hf) hm rfl ?_
  rw [major_VArith _ hm]; unfold decodeVArith; rw [show bitsAt (pack _) 28 4 = 1 from pack_get _ hf 6 4 1 28 rfl rfl]
  show some _ = _
  rw [at_pack 7 1 _ hf d rfl rfl, at_pack 12 2 _ hf a rfl rfl, at_pack 17 3 _ hf b rfl rfl, at_pack 22 4 _ hf k rfl rfl, at_pack 25 5 _ hf g rfl rfl]

theorem Encoding.VMUL (d : BitVec 5) (a : BitVec 5) (b : BitVec 5) (k : BitVec 3) (g : BitVec 3) : Encoding.Statement (.VMUL d a b k g) := by
  have hf : fits [(7, 57), (5, d.toNat), (5, a.toNat), (5, b.toNat), (3, k.toNat), (3, g.toNat), (4, 2)] := ⟨by decide, d.isLt, a.isLt, b.isLt, k.isLt, g.isLt, by decide, trivial⟩
  have he : encode (.VMUL d a b k g) = (32, pack [(7, 57), (5, d.toNat), (5, a.toNat), (5, b.toNat), (3, k.toNat), (3, g.toNat), (4, 2)]) := by
    rw [show encode (.VMUL d a b k g) = word 32 536870969 [(7, d.toNat), (12, a.toNat), (17, b.toNat), (22, k.toNat), (25, g.toNat)] from rfl, word_cons, word_cons, word_cons, word_cons, word_cons, word_nil]; exact congrArg (Prod.mk 32) (by simp only [pack]; omega)
  have hm := pack_get _ hf 0 7 57 0 rfl rfl
  rw [Nat.pow_zero, Nat.div_one] at hm
  refine Encoding.of32 _ _ he (pack_lt _ hf) hm rfl ?_
  rw [major_VArith _ hm]; unfold decodeVArith; rw [show bitsAt (pack _) 28 4 = 2 from pack_get _ hf 6 4 2 28 rfl rfl]
  show some _ = _
  rw [at_pack 7 1 _ hf d rfl rfl, at_pack 12 2 _ hf a rfl rfl, at_pack 17 3 _ hf b rfl rfl, at_pack 22 4 _ hf k rfl rfl, at_pack 25 5 _ hf g rfl rfl]

theorem Encoding.VFMA (d : BitVec 5) (a : BitVec 5) (b : BitVec 5) (k : BitVec 3) (g : BitVec 3) : Encoding.Statement (.VFMA d a b k g) := by
  have hf : fits [(7, 57), (5, d.toNat), (5, a.toNat), (5, b.toNat), (3, k.toNat), (3, g.toNat), (4, 3)] := ⟨by decide, d.isLt, a.isLt, b.isLt, k.isLt, g.isLt, by decide, trivial⟩
  have he : encode (.VFMA d a b k g) = (32, pack [(7, 57), (5, d.toNat), (5, a.toNat), (5, b.toNat), (3, k.toNat), (3, g.toNat), (4, 3)]) := by
    rw [show encode (.VFMA d a b k g) = word 32 805306425 [(7, d.toNat), (12, a.toNat), (17, b.toNat), (22, k.toNat), (25, g.toNat)] from rfl, word_cons, word_cons, word_cons, word_cons, word_cons, word_nil]; exact congrArg (Prod.mk 32) (by simp only [pack]; omega)
  have hm := pack_get _ hf 0 7 57 0 rfl rfl
  rw [Nat.pow_zero, Nat.div_one] at hm
  refine Encoding.of32 _ _ he (pack_lt _ hf) hm rfl ?_
  rw [major_VArith _ hm]; unfold decodeVArith; rw [show bitsAt (pack _) 28 4 = 3 from pack_get _ hf 6 4 3 28 rfl rfl]
  show some _ = _
  rw [at_pack 7 1 _ hf d rfl rfl, at_pack 12 2 _ hf a rfl rfl, at_pack 17 3 _ hf b rfl rfl, at_pack 22 4 _ hf k rfl rfl, at_pack 25 5 _ hf g rfl rfl]

theorem Encoding.VMIN (d : BitVec 5) (a : BitVec 5) (b : BitVec 5) (k : BitVec 3) (g : BitVec 3) : Encoding.Statement (.VMIN d a b k g) := by
  have hf : fits [(7, 57), (5, d.toNat), (5, a.toNat), (5, b.toNat), (3, k.toNat), (3, g.toNat), (4, 4)] := ⟨by decide, d.isLt, a.isLt, b.isLt, k.isLt, g.isLt, by decide, trivial⟩
  have he : encode (.VMIN d a b k g) = (32, pack [(7, 57), (5, d.toNat), (5, a.toNat), (5, b.toNat), (3, k.toNat), (3, g.toNat), (4, 4)]) := by
    rw [show encode (.VMIN d a b k g) = word 32 1073741881 [(7, d.toNat), (12, a.toNat), (17, b.toNat), (22, k.toNat), (25, g.toNat)] from rfl, word_cons, word_cons, word_cons, word_cons, word_cons, word_nil]; exact congrArg (Prod.mk 32) (by simp only [pack]; omega)
  have hm := pack_get _ hf 0 7 57 0 rfl rfl
  rw [Nat.pow_zero, Nat.div_one] at hm
  refine Encoding.of32 _ _ he (pack_lt _ hf) hm rfl ?_
  rw [major_VArith _ hm]; unfold decodeVArith; rw [show bitsAt (pack _) 28 4 = 4 from pack_get _ hf 6 4 4 28 rfl rfl]
  show some _ = _
  rw [at_pack 7 1 _ hf d rfl rfl, at_pack 12 2 _ hf a rfl rfl, at_pack 17 3 _ hf b rfl rfl, at_pack 22 4 _ hf k rfl rfl, at_pack 25 5 _ hf g rfl rfl]

theorem Encoding.VMAX (d : BitVec 5) (a : BitVec 5) (b : BitVec 5) (k : BitVec 3) (g : BitVec 3) : Encoding.Statement (.VMAX d a b k g) := by
  have hf : fits [(7, 57), (5, d.toNat), (5, a.toNat), (5, b.toNat), (3, k.toNat), (3, g.toNat), (4, 5)] := ⟨by decide, d.isLt, a.isLt, b.isLt, k.isLt, g.isLt, by decide, trivial⟩
  have he : encode (.VMAX d a b k g) = (32, pack [(7, 57), (5, d.toNat), (5, a.toNat), (5, b.toNat), (3, k.toNat), (3, g.toNat), (4, 5)]) := by
    rw [show encode (.VMAX d a b k g) = word 32 1342177337 [(7, d.toNat), (12, a.toNat), (17, b.toNat), (22, k.toNat), (25, g.toNat)] from rfl, word_cons, word_cons, word_cons, word_cons, word_cons, word_nil]; exact congrArg (Prod.mk 32) (by simp only [pack]; omega)
  have hm := pack_get _ hf 0 7 57 0 rfl rfl
  rw [Nat.pow_zero, Nat.div_one] at hm
  refine Encoding.of32 _ _ he (pack_lt _ hf) hm rfl ?_
  rw [major_VArith _ hm]; unfold decodeVArith; rw [show bitsAt (pack _) 28 4 = 5 from pack_get _ hf 6 4 5 28 rfl rfl]
  show some _ = _
  rw [at_pack 7 1 _ hf d rfl rfl, at_pack 12 2 _ hf a rfl rfl, at_pack 17 3 _ hf b rfl rfl, at_pack 22 4 _ hf k rfl rfl, at_pack 25 5 _ hf g rfl rfl]

theorem Encoding.VAND (d : BitVec 5) (a : BitVec 5) (b : BitVec 5) (k : BitVec 3) (g : BitVec 3) : Encoding.Statement (.VAND d a b k g) := by
  have hf : fits [(7, 57), (5, d.toNat), (5, a.toNat), (5, b.toNat), (3, k.toNat), (3, g.toNat), (4, 6)] := ⟨by decide, d.isLt, a.isLt, b.isLt, k.isLt, g.isLt, by decide, trivial⟩
  have he : encode (.VAND d a b k g) = (32, pack [(7, 57), (5, d.toNat), (5, a.toNat), (5, b.toNat), (3, k.toNat), (3, g.toNat), (4, 6)]) := by
    rw [show encode (.VAND d a b k g) = word 32 1610612793 [(7, d.toNat), (12, a.toNat), (17, b.toNat), (22, k.toNat), (25, g.toNat)] from rfl, word_cons, word_cons, word_cons, word_cons, word_cons, word_nil]; exact congrArg (Prod.mk 32) (by simp only [pack]; omega)
  have hm := pack_get _ hf 0 7 57 0 rfl rfl
  rw [Nat.pow_zero, Nat.div_one] at hm
  refine Encoding.of32 _ _ he (pack_lt _ hf) hm rfl ?_
  rw [major_VArith _ hm]; unfold decodeVArith; rw [show bitsAt (pack _) 28 4 = 6 from pack_get _ hf 6 4 6 28 rfl rfl]
  show some _ = _
  rw [at_pack 7 1 _ hf d rfl rfl, at_pack 12 2 _ hf a rfl rfl, at_pack 17 3 _ hf b rfl rfl, at_pack 22 4 _ hf k rfl rfl, at_pack 25 5 _ hf g rfl rfl]

theorem Encoding.VOR (d : BitVec 5) (a : BitVec 5) (b : BitVec 5) (k : BitVec 3) (g : BitVec 3) : Encoding.Statement (.VOR d a b k g) := by
  have hf : fits [(7, 57), (5, d.toNat), (5, a.toNat), (5, b.toNat), (3, k.toNat), (3, g.toNat), (4, 7)] := ⟨by decide, d.isLt, a.isLt, b.isLt, k.isLt, g.isLt, by decide, trivial⟩
  have he : encode (.VOR d a b k g) = (32, pack [(7, 57), (5, d.toNat), (5, a.toNat), (5, b.toNat), (3, k.toNat), (3, g.toNat), (4, 7)]) := by
    rw [show encode (.VOR d a b k g) = word 32 1879048249 [(7, d.toNat), (12, a.toNat), (17, b.toNat), (22, k.toNat), (25, g.toNat)] from rfl, word_cons, word_cons, word_cons, word_cons, word_cons, word_nil]; exact congrArg (Prod.mk 32) (by simp only [pack]; omega)
  have hm := pack_get _ hf 0 7 57 0 rfl rfl
  rw [Nat.pow_zero, Nat.div_one] at hm
  refine Encoding.of32 _ _ he (pack_lt _ hf) hm rfl ?_
  rw [major_VArith _ hm]; unfold decodeVArith; rw [show bitsAt (pack _) 28 4 = 7 from pack_get _ hf 6 4 7 28 rfl rfl]
  show some _ = _
  rw [at_pack 7 1 _ hf d rfl rfl, at_pack 12 2 _ hf a rfl rfl, at_pack 17 3 _ hf b rfl rfl, at_pack 22 4 _ hf k rfl rfl, at_pack 25 5 _ hf g rfl rfl]

theorem Encoding.VXOR (d : BitVec 5) (a : BitVec 5) (b : BitVec 5) (k : BitVec 3) (g : BitVec 3) : Encoding.Statement (.VXOR d a b k g) := by
  have hf : fits [(7, 57), (5, d.toNat), (5, a.toNat), (5, b.toNat), (3, k.toNat), (3, g.toNat), (4, 8)] := ⟨by decide, d.isLt, a.isLt, b.isLt, k.isLt, g.isLt, by decide, trivial⟩
  have he : encode (.VXOR d a b k g) = (32, pack [(7, 57), (5, d.toNat), (5, a.toNat), (5, b.toNat), (3, k.toNat), (3, g.toNat), (4, 8)]) := by
    rw [show encode (.VXOR d a b k g) = word 32 2147483705 [(7, d.toNat), (12, a.toNat), (17, b.toNat), (22, k.toNat), (25, g.toNat)] from rfl, word_cons, word_cons, word_cons, word_cons, word_cons, word_nil]; exact congrArg (Prod.mk 32) (by simp only [pack]; omega)
  have hm := pack_get _ hf 0 7 57 0 rfl rfl
  rw [Nat.pow_zero, Nat.div_one] at hm
  refine Encoding.of32 _ _ he (pack_lt _ hf) hm rfl ?_
  rw [major_VArith _ hm]; unfold decodeVArith; rw [show bitsAt (pack _) 28 4 = 8 from pack_get _ hf 6 4 8 28 rfl rfl]
  show some _ = _
  rw [at_pack 7 1 _ hf d rfl rfl, at_pack 12 2 _ hf a rfl rfl, at_pack 17 3 _ hf b rfl rfl, at_pack 22 4 _ hf k rfl rfl, at_pack 25 5 _ hf g rfl rfl]

theorem Encoding.VSHL (d : BitVec 5) (a : BitVec 5) (b : BitVec 5) (k : BitVec 3) (g : BitVec 3) : Encoding.Statement (.VSHL d a b k g) := by
  have hf : fits [(7, 57), (5, d.toNat), (5, a.toNat), (5, b.toNat), (3, k.toNat), (3, g.toNat), (4, 9)] := ⟨by decide, d.isLt, a.isLt, b.isLt, k.isLt, g.isLt, by decide, trivial⟩
  have he : encode (.VSHL d a b k g) = (32, pack [(7, 57), (5, d.toNat), (5, a.toNat), (5, b.toNat), (3, k.toNat), (3, g.toNat), (4, 9)]) := by
    rw [show encode (.VSHL d a b k g) = word 32 2415919161 [(7, d.toNat), (12, a.toNat), (17, b.toNat), (22, k.toNat), (25, g.toNat)] from rfl, word_cons, word_cons, word_cons, word_cons, word_cons, word_nil]; exact congrArg (Prod.mk 32) (by simp only [pack]; omega)
  have hm := pack_get _ hf 0 7 57 0 rfl rfl
  rw [Nat.pow_zero, Nat.div_one] at hm
  refine Encoding.of32 _ _ he (pack_lt _ hf) hm rfl ?_
  rw [major_VArith _ hm]; unfold decodeVArith; rw [show bitsAt (pack _) 28 4 = 9 from pack_get _ hf 6 4 9 28 rfl rfl]
  show some _ = _
  rw [at_pack 7 1 _ hf d rfl rfl, at_pack 12 2 _ hf a rfl rfl, at_pack 17 3 _ hf b rfl rfl, at_pack 22 4 _ hf k rfl rfl, at_pack 25 5 _ hf g rfl rfl]

theorem Encoding.VSHR (d : BitVec 5) (a : BitVec 5) (b : BitVec 5) (k : BitVec 3) (g : BitVec 3) : Encoding.Statement (.VSHR d a b k g) := by
  have hf : fits [(7, 57), (5, d.toNat), (5, a.toNat), (5, b.toNat), (3, k.toNat), (3, g.toNat), (4, 10)] := ⟨by decide, d.isLt, a.isLt, b.isLt, k.isLt, g.isLt, by decide, trivial⟩
  have he : encode (.VSHR d a b k g) = (32, pack [(7, 57), (5, d.toNat), (5, a.toNat), (5, b.toNat), (3, k.toNat), (3, g.toNat), (4, 10)]) := by
    rw [show encode (.VSHR d a b k g) = word 32 2684354617 [(7, d.toNat), (12, a.toNat), (17, b.toNat), (22, k.toNat), (25, g.toNat)] from rfl, word_cons, word_cons, word_cons, word_cons, word_cons, word_nil]; exact congrArg (Prod.mk 32) (by simp only [pack]; omega)
  have hm := pack_get _ hf 0 7 57 0 rfl rfl
  rw [Nat.pow_zero, Nat.div_one] at hm
  refine Encoding.of32 _ _ he (pack_lt _ hf) hm rfl ?_
  rw [major_VArith _ hm]; unfold decodeVArith; rw [show bitsAt (pack _) 28 4 = 10 from pack_get _ hf 6 4 10 28 rfl rfl]
  show some _ = _
  rw [at_pack 7 1 _ hf d rfl rfl, at_pack 12 2 _ hf a rfl rfl, at_pack 17 3 _ hf b rfl rfl, at_pack 22 4 _ hf k rfl rfl, at_pack 25 5 _ hf g rfl rfl]

theorem Encoding.VCMPEQ (d : BitVec 5) (a : BitVec 5) (b : BitVec 5) (k : BitVec 3) (g : BitVec 3) : Encoding.Statement (.VCMPEQ d a b k g) := by
  have hf : fits [(7, 57), (5, d.toNat), (5, a.toNat), (5, b.toNat), (3, k.toNat), (3, g.toNat), (4, 11)] := ⟨by decide, d.isLt, a.isLt, b.isLt, k.isLt, g.isLt, by decide, trivial⟩
  have he : encode (.VCMPEQ d a b k g) = (32, pack [(7, 57), (5, d.toNat), (5, a.toNat), (5, b.toNat), (3, k.toNat), (3, g.toNat), (4, 11)]) := by
    rw [show encode (.VCMPEQ d a b k g) = word 32 2952790073 [(7, d.toNat), (12, a.toNat), (17, b.toNat), (22, k.toNat), (25, g.toNat)] from rfl, word_cons, word_cons, word_cons, word_cons, word_cons, word_nil]; exact congrArg (Prod.mk 32) (by simp only [pack]; omega)
  have hm := pack_get _ hf 0 7 57 0 rfl rfl
  rw [Nat.pow_zero, Nat.div_one] at hm
  refine Encoding.of32 _ _ he (pack_lt _ hf) hm rfl ?_
  rw [major_VArith _ hm]; unfold decodeVArith; rw [show bitsAt (pack _) 28 4 = 11 from pack_get _ hf 6 4 11 28 rfl rfl]
  show some _ = _
  rw [at_pack 7 1 _ hf d rfl rfl, at_pack 12 2 _ hf a rfl rfl, at_pack 17 3 _ hf b rfl rfl, at_pack 22 4 _ hf k rfl rfl, at_pack 25 5 _ hf g rfl rfl]

theorem Encoding.VCMPNE (d : BitVec 5) (a : BitVec 5) (b : BitVec 5) (k : BitVec 3) (g : BitVec 3) : Encoding.Statement (.VCMPNE d a b k g) := by
  have hf : fits [(7, 57), (5, d.toNat), (5, a.toNat), (5, b.toNat), (3, k.toNat), (3, g.toNat), (4, 12)] := ⟨by decide, d.isLt, a.isLt, b.isLt, k.isLt, g.isLt, by decide, trivial⟩
  have he : encode (.VCMPNE d a b k g) = (32, pack [(7, 57), (5, d.toNat), (5, a.toNat), (5, b.toNat), (3, k.toNat), (3, g.toNat), (4, 12)]) := by
    rw [show encode (.VCMPNE d a b k g) = word 32 3221225529 [(7, d.toNat), (12, a.toNat), (17, b.toNat), (22, k.toNat), (25, g.toNat)] from rfl, word_cons, word_cons, word_cons, word_cons, word_cons, word_nil]; exact congrArg (Prod.mk 32) (by simp only [pack]; omega)
  have hm := pack_get _ hf 0 7 57 0 rfl rfl
  rw [Nat.pow_zero, Nat.div_one] at hm
  refine Encoding.of32 _ _ he (pack_lt _ hf) hm rfl ?_
  rw [major_VArith _ hm]; unfold decodeVArith; rw [show bitsAt (pack _) 28 4 = 12 from pack_get _ hf 6 4 12 28 rfl rfl]
  show some _ = _
  rw [at_pack 7 1 _ hf d rfl rfl, at_pack 12 2 _ hf a rfl rfl, at_pack 17 3 _ hf b rfl rfl, at_pack 22 4 _ hf k rfl rfl, at_pack 25 5 _ hf g rfl rfl]

theorem Encoding.VCMPLT (d : BitVec 5) (a : BitVec 5) (b : BitVec 5) (k : BitVec 3) (g : BitVec 3) : Encoding.Statement (.VCMPLT d a b k g) := by
  have hf : fits [(7, 57), (5, d.toNat), (5, a.toNat), (5, b.toNat), (3, k.toNat), (3, g.toNat), (4, 13)] := ⟨by decide, d.isLt, a.isLt, b.isLt, k.isLt, g.isLt, by decide, trivial⟩
  have he : encode (.VCMPLT d a b k g) = (32, pack [(7, 57), (5, d.toNat), (5, a.toNat), (5, b.toNat), (3, k.toNat), (3, g.toNat), (4, 13)]) := by
    rw [show encode (.VCMPLT d a b k g) = word 32 3489660985 [(7, d.toNat), (12, a.toNat), (17, b.toNat), (22, k.toNat), (25, g.toNat)] from rfl, word_cons, word_cons, word_cons, word_cons, word_cons, word_nil]; exact congrArg (Prod.mk 32) (by simp only [pack]; omega)
  have hm := pack_get _ hf 0 7 57 0 rfl rfl
  rw [Nat.pow_zero, Nat.div_one] at hm
  refine Encoding.of32 _ _ he (pack_lt _ hf) hm rfl ?_
  rw [major_VArith _ hm]; unfold decodeVArith; rw [show bitsAt (pack _) 28 4 = 13 from pack_get _ hf 6 4 13 28 rfl rfl]
  show some _ = _
  rw [at_pack 7 1 _ hf d rfl rfl, at_pack 12 2 _ hf a rfl rfl, at_pack 17 3 _ hf b rfl rfl, at_pack 22 4 _ hf k rfl rfl, at_pack 25 5 _ hf g rfl rfl]

theorem Encoding.VCMPLE (d : BitVec 5) (a : BitVec 5) (b : BitVec 5) (k : BitVec 3) (g : BitVec 3) : Encoding.Statement (.VCMPLE d a b k g) := by
  have hf : fits [(7, 57), (5, d.toNat), (5, a.toNat), (5, b.toNat), (3, k.toNat), (3, g.toNat), (4, 14)] := ⟨by decide, d.isLt, a.isLt, b.isLt, k.isLt, g.isLt, by decide, trivial⟩
  have he : encode (.VCMPLE d a b k g) = (32, pack [(7, 57), (5, d.toNat), (5, a.toNat), (5, b.toNat), (3, k.toNat), (3, g.toNat), (4, 14)]) := by
    rw [show encode (.VCMPLE d a b k g) = word 32 3758096441 [(7, d.toNat), (12, a.toNat), (17, b.toNat), (22, k.toNat), (25, g.toNat)] from rfl, word_cons, word_cons, word_cons, word_cons, word_cons, word_nil]; exact congrArg (Prod.mk 32) (by simp only [pack]; omega)
  have hm := pack_get _ hf 0 7 57 0 rfl rfl
  rw [Nat.pow_zero, Nat.div_one] at hm
  refine Encoding.of32 _ _ he (pack_lt _ hf) hm rfl ?_
  rw [major_VArith _ hm]; unfold decodeVArith; rw [show bitsAt (pack _) 28 4 = 14 from pack_get _ hf 6 4 14 28 rfl rfl]
  show some _ = _
  rw [at_pack 7 1 _ hf d rfl rfl, at_pack 12 2 _ hf a rfl rfl, at_pack 17 3 _ hf b rfl rfl, at_pack 22 4 _ hf k rfl rfl, at_pack 25 5 _ hf g rfl rfl]

theorem Encoding.VSEL (d : BitVec 5) (a : BitVec 5) (b : BitVec 5) (k : BitVec 3) (g : BitVec 3) : Encoding.Statement (.VSEL d a b k g) := by
  have hf : fits [(7, 57), (5, d.toNat), (5, a.toNat), (5, b.toNat), (3, k.toNat), (3, g.toNat), (4, 15)] := ⟨by decide, d.isLt, a.isLt, b.isLt, k.isLt, g.isLt, by decide, trivial⟩
  have he : encode (.VSEL d a b k g) = (32, pack [(7, 57), (5, d.toNat), (5, a.toNat), (5, b.toNat), (3, k.toNat), (3, g.toNat), (4, 15)]) := by
    rw [show encode (.VSEL d a b k g) = word 32 4026531897 [(7, d.toNat), (12, a.toNat), (17, b.toNat), (22, k.toNat), (25, g.toNat)] from rfl, word_cons, word_cons, word_cons, word_cons, word_cons, word_nil]; exact congrArg (Prod.mk 32) (by simp only [pack]; omega)
  have hm := pack_get _ hf 0 7 57 0 rfl rfl
  rw [Nat.pow_zero, Nat.div_one] at hm
  refine Encoding.of32 _ _ he (pack_lt _ hf) hm rfl ?_
  rw [major_VArith _ hm]; unfold decodeVArith; rw [show bitsAt (pack _) 28 4 = 15 from pack_get _ hf 6 4 15 28 rfl rfl]
  show some _ = _
  rw [at_pack 7 1 _ hf d rfl rfl, at_pack 12 2 _ hf a rfl rfl, at_pack 17 3 _ hf b rfl rfl, at_pack 22 4 _ hf k rfl rfl, at_pack 25 5 _ hf g rfl rfl]

theorem Encoding.VNEG (d : BitVec 5) (a : BitVec 5) (k : BitVec 3) (g : BitVec 3) : Encoding.Statement (.VNEG d a k g) := by
  have hf : fits [(7, 59), (5, d.toNat), (5, a.toNat), (5, 0), (3, k.toNat), (3, g.toNat), (4, 0)] := ⟨by decide, d.isLt, a.isLt, by decide, k.isLt, g.isLt, by decide, trivial⟩
  have he : encode (.VNEG d a k g) = (32, pack [(7, 59), (5, d.toNat), (5, a.toNat), (5, 0), (3, k.toNat), (3, g.toNat), (4, 0)]) := by
    rw [show encode (.VNEG d a k g) = word 32 59 [(7, d.toNat), (12, a.toNat), (22, k.toNat), (25, g.toNat)] from rfl, word_cons, word_cons, word_cons, word_cons, word_nil]; exact congrArg (Prod.mk 32) (by simp only [pack]; omega)
  have hm := pack_get _ hf 0 7 59 0 rfl rfl
  rw [Nat.pow_zero, Nat.div_one] at hm
  refine Encoding.of32 _ _ he (pack_lt _ hf) hm rfl ?_
  rw [major_VUnary _ hm]; unfold decodeVUnary; rw [show bitsAt (pack _) 28 4 = 0 from pack_get _ hf 6 4 0 28 rfl rfl]
  show some _ = _
  rw [at_pack 7 1 _ hf d rfl rfl, at_pack 12 2 _ hf a rfl rfl, at_pack 22 4 _ hf k rfl rfl, at_pack 25 5 _ hf g rfl rfl]

theorem Encoding.VABS (d : BitVec 5) (a : BitVec 5) (k : BitVec 3) (g : BitVec 3) : Encoding.Statement (.VABS d a k g) := by
  have hf : fits [(7, 59), (5, d.toNat), (5, a.toNat), (5, 0), (3, k.toNat), (3, g.toNat), (4, 1)] := ⟨by decide, d.isLt, a.isLt, by decide, k.isLt, g.isLt, by decide, trivial⟩
  have he : encode (.VABS d a k g) = (32, pack [(7, 59), (5, d.toNat), (5, a.toNat), (5, 0), (3, k.toNat), (3, g.toNat), (4, 1)]) := by
    rw [show encode (.VABS d a k g) = word 32 268435515 [(7, d.toNat), (12, a.toNat), (22, k.toNat), (25, g.toNat)] from rfl, word_cons, word_cons, word_cons, word_cons, word_nil]; exact congrArg (Prod.mk 32) (by simp only [pack]; omega)
  have hm := pack_get _ hf 0 7 59 0 rfl rfl
  rw [Nat.pow_zero, Nat.div_one] at hm
  refine Encoding.of32 _ _ he (pack_lt _ hf) hm rfl ?_
  rw [major_VUnary _ hm]; unfold decodeVUnary; rw [show bitsAt (pack _) 28 4 = 1 from pack_get _ hf 6 4 1 28 rfl rfl]
  show some _ = _
  rw [at_pack 7 1 _ hf d rfl rfl, at_pack 12 2 _ hf a rfl rfl, at_pack 22 4 _ hf k rfl rfl, at_pack 25 5 _ hf g rfl rfl]

theorem Encoding.VEXP2 (d : BitVec 5) (a : BitVec 5) (k : BitVec 3) (g : BitVec 3) : Encoding.Statement (.VEXP2 d a k g) := by
  have hf : fits [(7, 59), (5, d.toNat), (5, a.toNat), (5, 0), (3, k.toNat), (3, g.toNat), (4, 2)] := ⟨by decide, d.isLt, a.isLt, by decide, k.isLt, g.isLt, by decide, trivial⟩
  have he : encode (.VEXP2 d a k g) = (32, pack [(7, 59), (5, d.toNat), (5, a.toNat), (5, 0), (3, k.toNat), (3, g.toNat), (4, 2)]) := by
    rw [show encode (.VEXP2 d a k g) = word 32 536870971 [(7, d.toNat), (12, a.toNat), (22, k.toNat), (25, g.toNat)] from rfl, word_cons, word_cons, word_cons, word_cons, word_nil]; exact congrArg (Prod.mk 32) (by simp only [pack]; omega)
  have hm := pack_get _ hf 0 7 59 0 rfl rfl
  rw [Nat.pow_zero, Nat.div_one] at hm
  refine Encoding.of32 _ _ he (pack_lt _ hf) hm rfl ?_
  rw [major_VUnary _ hm]; unfold decodeVUnary; rw [show bitsAt (pack _) 28 4 = 2 from pack_get _ hf 6 4 2 28 rfl rfl]
  show some _ = _
  rw [at_pack 7 1 _ hf d rfl rfl, at_pack 12 2 _ hf a rfl rfl, at_pack 22 4 _ hf k rfl rfl, at_pack 25 5 _ hf g rfl rfl]

theorem Encoding.VLOG2 (d : BitVec 5) (a : BitVec 5) (k : BitVec 3) (g : BitVec 3) : Encoding.Statement (.VLOG2 d a k g) := by
  have hf : fits [(7, 59), (5, d.toNat), (5, a.toNat), (5, 0), (3, k.toNat), (3, g.toNat), (4, 3)] := ⟨by decide, d.isLt, a.isLt, by decide, k.isLt, g.isLt, by decide, trivial⟩
  have he : encode (.VLOG2 d a k g) = (32, pack [(7, 59), (5, d.toNat), (5, a.toNat), (5, 0), (3, k.toNat), (3, g.toNat), (4, 3)]) := by
    rw [show encode (.VLOG2 d a k g) = word 32 805306427 [(7, d.toNat), (12, a.toNat), (22, k.toNat), (25, g.toNat)] from rfl, word_cons, word_cons, word_cons, word_cons, word_nil]; exact congrArg (Prod.mk 32) (by simp only [pack]; omega)
  have hm := pack_get _ hf 0 7 59 0 rfl rfl
  rw [Nat.pow_zero, Nat.div_one] at hm
  refine Encoding.of32 _ _ he (pack_lt _ hf) hm rfl ?_
  rw [major_VUnary _ hm]; unfold decodeVUnary; rw [show bitsAt (pack _) 28 4 = 3 from pack_get _ hf 6 4 3 28 rfl rfl]
  show some _ = _
  rw [at_pack 7 1 _ hf d rfl rfl, at_pack 12 2 _ hf a rfl rfl, at_pack 22 4 _ hf k rfl rfl, at_pack 25 5 _ hf g rfl rfl]

theorem Encoding.VRCP (d : BitVec 5) (a : BitVec 5) (k : BitVec 3) (g : BitVec 3) : Encoding.Statement (.VRCP d a k g) := by
  have hf : fits [(7, 59), (5, d.toNat), (5, a.toNat), (5, 0), (3, k.toNat), (3, g.toNat), (4, 4)] := ⟨by decide, d.isLt, a.isLt, by decide, k.isLt, g.isLt, by decide, trivial⟩
  have he : encode (.VRCP d a k g) = (32, pack [(7, 59), (5, d.toNat), (5, a.toNat), (5, 0), (3, k.toNat), (3, g.toNat), (4, 4)]) := by
    rw [show encode (.VRCP d a k g) = word 32 1073741883 [(7, d.toNat), (12, a.toNat), (22, k.toNat), (25, g.toNat)] from rfl, word_cons, word_cons, word_cons, word_cons, word_nil]; exact congrArg (Prod.mk 32) (by simp only [pack]; omega)
  have hm := pack_get _ hf 0 7 59 0 rfl rfl
  rw [Nat.pow_zero, Nat.div_one] at hm
  refine Encoding.of32 _ _ he (pack_lt _ hf) hm rfl ?_
  rw [major_VUnary _ hm]; unfold decodeVUnary; rw [show bitsAt (pack _) 28 4 = 4 from pack_get _ hf 6 4 4 28 rfl rfl]
  show some _ = _
  rw [at_pack 7 1 _ hf d rfl rfl, at_pack 12 2 _ hf a rfl rfl, at_pack 22 4 _ hf k rfl rfl, at_pack 25 5 _ hf g rfl rfl]

theorem Encoding.VRSQ (d : BitVec 5) (a : BitVec 5) (k : BitVec 3) (g : BitVec 3) : Encoding.Statement (.VRSQ d a k g) := by
  have hf : fits [(7, 59), (5, d.toNat), (5, a.toNat), (5, 0), (3, k.toNat), (3, g.toNat), (4, 5)] := ⟨by decide, d.isLt, a.isLt, by decide, k.isLt, g.isLt, by decide, trivial⟩
  have he : encode (.VRSQ d a k g) = (32, pack [(7, 59), (5, d.toNat), (5, a.toNat), (5, 0), (3, k.toNat), (3, g.toNat), (4, 5)]) := by
    rw [show encode (.VRSQ d a k g) = word 32 1342177339 [(7, d.toNat), (12, a.toNat), (22, k.toNat), (25, g.toNat)] from rfl, word_cons, word_cons, word_cons, word_cons, word_nil]; exact congrArg (Prod.mk 32) (by simp only [pack]; omega)
  have hm := pack_get _ hf 0 7 59 0 rfl rfl
  rw [Nat.pow_zero, Nat.div_one] at hm
  refine Encoding.of32 _ _ he (pack_lt _ hf) hm rfl ?_
  rw [major_VUnary _ hm]; unfold decodeVUnary; rw [show bitsAt (pack _) 28 4 = 5 from pack_get _ hf 6 4 5 28 rfl rfl]
  show some _ = _
  rw [at_pack 7 1 _ hf d rfl rfl, at_pack 12 2 _ hf a rfl rfl, at_pack 22 4 _ hf k rfl rfl, at_pack 25 5 _ hf g rfl rfl]

theorem Encoding.VSQRT (d : BitVec 5) (a : BitVec 5) (k : BitVec 3) (g : BitVec 3) : Encoding.Statement (.VSQRT d a k g) := by
  have hf : fits [(7, 59), (5, d.toNat), (5, a.toNat), (5, 0), (3, k.toNat), (3, g.toNat), (4, 6)] := ⟨by decide, d.isLt, a.isLt, by decide, k.isLt, g.isLt, by decide, trivial⟩
  have he : encode (.VSQRT d a k g) = (32, pack [(7, 59), (5, d.toNat), (5, a.toNat), (5, 0), (3, k.toNat), (3, g.toNat), (4, 6)]) := by
    rw [show encode (.VSQRT d a k g) = word 32 1610612795 [(7, d.toNat), (12, a.toNat), (22, k.toNat), (25, g.toNat)] from rfl, word_cons, word_cons, word_cons, word_cons, word_nil]; exact congrArg (Prod.mk 32) (by simp only [pack]; omega)
  have hm := pack_get _ hf 0 7 59 0 rfl rfl
  rw [Nat.pow_zero, Nat.div_one] at hm
  refine Encoding.of32 _ _ he (pack_lt _ hf) hm rfl ?_
  rw [major_VUnary _ hm]; unfold decodeVUnary; rw [show bitsAt (pack _) 28 4 = 6 from pack_get _ hf 6 4 6 28 rfl rfl]
  show some _ = _
  rw [at_pack 7 1 _ hf d rfl rfl, at_pack 12 2 _ hf a rfl rfl, at_pack 22 4 _ hf k rfl rfl, at_pack 25 5 _ hf g rfl rfl]

theorem Encoding.VTANH (d : BitVec 5) (a : BitVec 5) (k : BitVec 3) (g : BitVec 3) : Encoding.Statement (.VTANH d a k g) := by
  have hf : fits [(7, 59), (5, d.toNat), (5, a.toNat), (5, 0), (3, k.toNat), (3, g.toNat), (4, 7)] := ⟨by decide, d.isLt, a.isLt, by decide, k.isLt, g.isLt, by decide, trivial⟩
  have he : encode (.VTANH d a k g) = (32, pack [(7, 59), (5, d.toNat), (5, a.toNat), (5, 0), (3, k.toNat), (3, g.toNat), (4, 7)]) := by
    rw [show encode (.VTANH d a k g) = word 32 1879048251 [(7, d.toNat), (12, a.toNat), (22, k.toNat), (25, g.toNat)] from rfl, word_cons, word_cons, word_cons, word_cons, word_nil]; exact congrArg (Prod.mk 32) (by simp only [pack]; omega)
  have hm := pack_get _ hf 0 7 59 0 rfl rfl
  rw [Nat.pow_zero, Nat.div_one] at hm
  refine Encoding.of32 _ _ he (pack_lt _ hf) hm rfl ?_
  rw [major_VUnary _ hm]; unfold decodeVUnary; rw [show bitsAt (pack _) 28 4 = 7 from pack_get _ hf 6 4 7 28 rfl rfl]
  show some _ = _
  rw [at_pack 7 1 _ hf d rfl rfl, at_pack 12 2 _ hf a rfl rfl, at_pack 22 4 _ hf k rfl rfl, at_pack 25 5 _ hf g rfl rfl]

theorem Encoding.VSIGM (d : BitVec 5) (a : BitVec 5) (k : BitVec 3) (g : BitVec 3) : Encoding.Statement (.VSIGM d a k g) := by
  have hf : fits [(7, 59), (5, d.toNat), (5, a.toNat), (5, 0), (3, k.toNat), (3, g.toNat), (4, 8)] := ⟨by decide, d.isLt, a.isLt, by decide, k.isLt, g.isLt, by decide, trivial⟩
  have he : encode (.VSIGM d a k g) = (32, pack [(7, 59), (5, d.toNat), (5, a.toNat), (5, 0), (3, k.toNat), (3, g.toNat), (4, 8)]) := by
    rw [show encode (.VSIGM d a k g) = word 32 2147483707 [(7, d.toNat), (12, a.toNat), (22, k.toNat), (25, g.toNat)] from rfl, word_cons, word_cons, word_cons, word_cons, word_nil]; exact congrArg (Prod.mk 32) (by simp only [pack]; omega)
  have hm := pack_get _ hf 0 7 59 0 rfl rfl
  rw [Nat.pow_zero, Nat.div_one] at hm
  refine Encoding.of32 _ _ he (pack_lt _ hf) hm rfl ?_
  rw [major_VUnary _ hm]; unfold decodeVUnary; rw [show bitsAt (pack _) 28 4 = 8 from pack_get _ hf 6 4 8 28 rfl rfl]
  show some _ = _
  rw [at_pack 7 1 _ hf d rfl rfl, at_pack 12 2 _ hf a rfl rfl, at_pack 22 4 _ hf k rfl rfl, at_pack 25 5 _ hf g rfl rfl]

theorem Encoding.VFLOOR (d : BitVec 5) (a : BitVec 5) (k : BitVec 3) (g : BitVec 3) : Encoding.Statement (.VFLOOR d a k g) := by
  have hf : fits [(7, 59), (5, d.toNat), (5, a.toNat), (5, 0), (3, k.toNat), (3, g.toNat), (4, 9)] := ⟨by decide, d.isLt, a.isLt, by decide, k.isLt, g.isLt, by decide, trivial⟩
  have he : encode (.VFLOOR d a k g) = (32, pack [(7, 59), (5, d.toNat), (5, a.toNat), (5, 0), (3, k.toNat), (3, g.toNat), (4, 9)]) := by
    rw [show encode (.VFLOOR d a k g) = word 32 2415919163 [(7, d.toNat), (12, a.toNat), (22, k.toNat), (25, g.toNat)] from rfl, word_cons, word_cons, word_cons, word_cons, word_nil]; exact congrArg (Prod.mk 32) (by simp only [pack]; omega)
  have hm := pack_get _ hf 0 7 59 0 rfl rfl
  rw [Nat.pow_zero, Nat.div_one] at hm
  refine Encoding.of32 _ _ he (pack_lt _ hf) hm rfl ?_
  rw [major_VUnary _ hm]; unfold decodeVUnary; rw [show bitsAt (pack _) 28 4 = 9 from pack_get _ hf 6 4 9 28 rfl rfl]
  show some _ = _
  rw [at_pack 7 1 _ hf d rfl rfl, at_pack 12 2 _ hf a rfl rfl, at_pack 22 4 _ hf k rfl rfl, at_pack 25 5 _ hf g rfl rfl]

theorem Encoding.VCVT (d : BitVec 5) (a : BitVec 5) (f : BitVec 5) (k : BitVec 3) (g : BitVec 3) : Encoding.Statement (.VCVT d a f k g) := by
  have hf : fits [(7, 59), (5, d.toNat), (5, a.toNat), (5, f.toNat), (3, k.toNat), (3, g.toNat), (4, 10)] := ⟨by decide, d.isLt, a.isLt, f.isLt, k.isLt, g.isLt, by decide, trivial⟩
  have he : encode (.VCVT d a f k g) = (32, pack [(7, 59), (5, d.toNat), (5, a.toNat), (5, f.toNat), (3, k.toNat), (3, g.toNat), (4, 10)]) := by
    rw [show encode (.VCVT d a f k g) = word 32 2684354619 [(7, d.toNat), (12, a.toNat), (17, f.toNat), (22, k.toNat), (25, g.toNat)] from rfl, word_cons, word_cons, word_cons, word_cons, word_cons, word_nil]; exact congrArg (Prod.mk 32) (by simp only [pack]; omega)
  have hm := pack_get _ hf 0 7 59 0 rfl rfl
  rw [Nat.pow_zero, Nat.div_one] at hm
  refine Encoding.of32 _ _ he (pack_lt _ hf) hm rfl ?_
  rw [major_VUnary _ hm]; unfold decodeVUnary; rw [show bitsAt (pack _) 28 4 = 10 from pack_get _ hf 6 4 10 28 rfl rfl]
  show some _ = _
  rw [at_pack 7 1 _ hf d rfl rfl, at_pack 12 2 _ hf a rfl rfl, at_pack 17 3 _ hf f rfl rfl, at_pack 22 4 _ hf k rfl rfl, at_pack 25 5 _ hf g rfl rfl]

theorem Encoding.VCOAL (d : BitVec 5) (a : BitVec 5) (k : BitVec 3) (g : BitVec 3) : Encoding.Statement (.VCOAL d a k g) := by
  have hf : fits [(7, 59), (5, d.toNat), (5, a.toNat), (5, 0), (3, k.toNat), (3, g.toNat), (4, 11)] := ⟨by decide, d.isLt, a.isLt, by decide, k.isLt, g.isLt, by decide, trivial⟩
  have he : encode (.VCOAL d a k g) = (32, pack [(7, 59), (5, d.toNat), (5, a.toNat), (5, 0), (3, k.toNat), (3, g.toNat), (4, 11)]) := by
    rw [show encode (.VCOAL d a k g) = word 32 2952790075 [(7, d.toNat), (12, a.toNat), (22, k.toNat), (25, g.toNat)] from rfl, word_cons, word_cons, word_cons, word_cons, word_nil]; exact congrArg (Prod.mk 32) (by simp only [pack]; omega)
  have hm := pack_get _ hf 0 7 59 0 rfl rfl
  rw [Nat.pow_zero, Nat.div_one] at hm
  refine Encoding.of32 _ _ he (pack_lt _ hf) hm rfl ?_
  rw [major_VUnary _ hm]; unfold decodeVUnary; rw [show bitsAt (pack _) 28 4 = 11 from pack_get _ hf 6 4 11 28 rfl rfl]
  show some _ = _
  rw [at_pack 7 1 _ hf d rfl rfl, at_pack 12 2 _ hf a rfl rfl, at_pack 22 4 _ hf k rfl rfl, at_pack 25 5 _ hf g rfl rfl]

theorem Encoding.VMOV (d : BitVec 5) (a : BitVec 5) (k : BitVec 3) (g : BitVec 3) : Encoding.Statement (.VMOV d a k g) := by
  have hf : fits [(7, 59), (5, d.toNat), (5, a.toNat), (5, 0), (3, k.toNat), (3, g.toNat), (4, 12)] := ⟨by decide, d.isLt, a.isLt, by decide, k.isLt, g.isLt, by decide, trivial⟩
  have he : encode (.VMOV d a k g) = (32, pack [(7, 59), (5, d.toNat), (5, a.toNat), (5, 0), (3, k.toNat), (3, g.toNat), (4, 12)]) := by
    rw [show encode (.VMOV d a k g) = word 32 3221225531 [(7, d.toNat), (12, a.toNat), (22, k.toNat), (25, g.toNat)] from rfl, word_cons, word_cons, word_cons, word_cons, word_nil]; exact congrArg (Prod.mk 32) (by simp only [pack]; omega)
  have hm := pack_get _ hf 0 7 59 0 rfl rfl
  rw [Nat.pow_zero, Nat.div_one] at hm
  refine Encoding.of32 _ _ he (pack_lt _ hf) hm rfl ?_
  rw [major_VUnary _ hm]; unfold decodeVUnary; rw [show bitsAt (pack _) 28 4 = 12 from pack_get _ hf 6 4 12 28 rfl rfl]
  show some _ = _
  rw [at_pack 7 1 _ hf d rfl rfl, at_pack 12 2 _ hf a rfl rfl, at_pack 22 4 _ hf k rfl rfl, at_pack 25 5 _ hf g rfl rfl]

theorem Encoding.VSCAN (d : BitVec 5) (a : BitVec 5) (k : BitVec 3) (g : BitVec 3) : Encoding.Statement (.VSCAN d a k g) := by
  have hf : fits [(7, 59), (5, d.toNat), (5, a.toNat), (5, 0), (3, k.toNat), (3, g.toNat), (4, 13)] := ⟨by decide, d.isLt, a.isLt, by decide, k.isLt, g.isLt, by decide, trivial⟩
  have he : encode (.VSCAN d a k g) = (32, pack [(7, 59), (5, d.toNat), (5, a.toNat), (5, 0), (3, k.toNat), (3, g.toNat), (4, 13)]) := by
    rw [show encode (.VSCAN d a k g) = word 32 3489660987 [(7, d.toNat), (12, a.toNat), (22, k.toNat), (25, g.toNat)] from rfl, word_cons, word_cons, word_cons, word_cons, word_nil]; exact congrArg (Prod.mk 32) (by simp only [pack]; omega)
  have hm := pack_get _ hf 0 7 59 0 rfl rfl
  rw [Nat.pow_zero, Nat.div_one] at hm
  refine Encoding.of32 _ _ he (pack_lt _ hf) hm rfl ?_
  rw [major_VUnary _ hm]; unfold decodeVUnary; rw [show bitsAt (pack _) 28 4 = 13 from pack_get _ hf 6 4 13 28 rfl rfl]
  show some _ = _
  rw [at_pack 7 1 _ hf d rfl rfl, at_pack 12 2 _ hf a rfl rfl, at_pack 22 4 _ hf k rfl rfl, at_pack 25 5 _ hf g rfl rfl]

theorem Encoding.VNOT (d : BitVec 5) (a : BitVec 5) (k : BitVec 3) (g : BitVec 3) : Encoding.Statement (.VNOT d a k g) := by
  have hf : fits [(7, 59), (5, d.toNat), (5, a.toNat), (5, 0), (3, k.toNat), (3, g.toNat), (4, 14)] := ⟨by decide, d.isLt, a.isLt, by decide, k.isLt, g.isLt, by decide, trivial⟩
  have he : encode (.VNOT d a k g) = (32, pack [(7, 59), (5, d.toNat), (5, a.toNat), (5, 0), (3, k.toNat), (3, g.toNat), (4, 14)]) := by
    rw [show encode (.VNOT d a k g) = word 32 3758096443 [(7, d.toNat), (12, a.toNat), (22, k.toNat), (25, g.toNat)] from rfl, word_cons, word_cons, word_cons, word_cons, word_nil]; exact congrArg (Prod.mk 32) (by simp only [pack]; omega)
  have hm := pack_get _ hf 0 7 59 0 rfl rfl
  rw [Nat.pow_zero, Nat.div_one] at hm
  refine Encoding.of32 _ _ he (pack_lt _ hf) hm rfl ?_
  rw [major_VUnary _ hm]; unfold decodeVUnary; rw [show bitsAt (pack _) 28 4 = 14 from pack_get _ hf 6 4 14 28 rfl rfl]
  show some _ = _
  rw [at_pack 7 1 _ hf d rfl rfl, at_pack 12 2 _ hf a rfl rfl, at_pack 22 4 _ hf k rfl rfl, at_pack 25 5 _ hf g rfl rfl]

theorem Encoding.VRSUM (d : BitVec 5) (a : BitVec 5) (k : BitVec 3) (g : BitVec 3) : Encoding.Statement (.VRSUM d a k g) := by
  have hf : fits [(7, 61), (5, d.toNat), (5, a.toNat), (5, 0), (3, k.toNat), (3, g.toNat), (4, 0)] := ⟨by decide, d.isLt, a.isLt, by decide, k.isLt, g.isLt, by decide, trivial⟩
  have he : encode (.VRSUM d a k g) = (32, pack [(7, 61), (5, d.toNat), (5, a.toNat), (5, 0), (3, k.toNat), (3, g.toNat), (4, 0)]) := by
    rw [show encode (.VRSUM d a k g) = word 32 61 [(7, d.toNat), (12, a.toNat), (22, k.toNat), (25, g.toNat)] from rfl, word_cons, word_cons, word_cons, word_cons, word_nil]; exact congrArg (Prod.mk 32) (by simp only [pack]; omega)
  have hm := pack_get _ hf 0 7 61 0 rfl rfl
  rw [Nat.pow_zero, Nat.div_one] at hm
  refine Encoding.of32 _ _ he (pack_lt _ hf) hm rfl ?_
  rw [major_VRed _ hm]; unfold decodeVRed; rw [show bitsAt (pack _) 28 4 = 0 from pack_get _ hf 6 4 0 28 rfl rfl]
  show some _ = _
  rw [at_pack 7 1 _ hf d rfl rfl, at_pack 12 2 _ hf a rfl rfl, at_pack 22 4 _ hf k rfl rfl, at_pack 25 5 _ hf g rfl rfl]

theorem Encoding.VRMAX (d : BitVec 5) (a : BitVec 5) (k : BitVec 3) (g : BitVec 3) : Encoding.Statement (.VRMAX d a k g) := by
  have hf : fits [(7, 61), (5, d.toNat), (5, a.toNat), (5, 0), (3, k.toNat), (3, g.toNat), (4, 1)] := ⟨by decide, d.isLt, a.isLt, by decide, k.isLt, g.isLt, by decide, trivial⟩
  have he : encode (.VRMAX d a k g) = (32, pack [(7, 61), (5, d.toNat), (5, a.toNat), (5, 0), (3, k.toNat), (3, g.toNat), (4, 1)]) := by
    rw [show encode (.VRMAX d a k g) = word 32 268435517 [(7, d.toNat), (12, a.toNat), (22, k.toNat), (25, g.toNat)] from rfl, word_cons, word_cons, word_cons, word_cons, word_nil]; exact congrArg (Prod.mk 32) (by simp only [pack]; omega)
  have hm := pack_get _ hf 0 7 61 0 rfl rfl
  rw [Nat.pow_zero, Nat.div_one] at hm
  refine Encoding.of32 _ _ he (pack_lt _ hf) hm rfl ?_
  rw [major_VRed _ hm]; unfold decodeVRed; rw [show bitsAt (pack _) 28 4 = 1 from pack_get _ hf 6 4 1 28 rfl rfl]
  show some _ = _
  rw [at_pack 7 1 _ hf d rfl rfl, at_pack 12 2 _ hf a rfl rfl, at_pack 22 4 _ hf k rfl rfl, at_pack 25 5 _ hf g rfl rfl]

theorem Encoding.VRMIN (d : BitVec 5) (a : BitVec 5) (k : BitVec 3) (g : BitVec 3) : Encoding.Statement (.VRMIN d a k g) := by
  have hf : fits [(7, 61), (5, d.toNat), (5, a.toNat), (5, 0), (3, k.toNat), (3, g.toNat), (4, 2)] := ⟨by decide, d.isLt, a.isLt, by decide, k.isLt, g.isLt, by decide, trivial⟩
  have he : encode (.VRMIN d a k g) = (32, pack [(7, 61), (5, d.toNat), (5, a.toNat), (5, 0), (3, k.toNat), (3, g.toNat), (4, 2)]) := by
    rw [show encode (.VRMIN d a k g) = word 32 536870973 [(7, d.toNat), (12, a.toNat), (22, k.toNat), (25, g.toNat)] from rfl, word_cons, word_cons, word_cons, word_cons, word_nil]; exact congrArg (Prod.mk 32) (by simp only [pack]; omega)
  have hm := pack_get _ hf 0 7 61 0 rfl rfl
  rw [Nat.pow_zero, Nat.div_one] at hm
  refine Encoding.of32 _ _ he (pack_lt _ hf) hm rfl ?_
  rw [major_VRed _ hm]; unfold decodeVRed; rw [show bitsAt (pack _) 28 4 = 2 from pack_get _ hf 6 4 2 28 rfl rfl]
  show some _ = _
  rw [at_pack 7 1 _ hf d rfl rfl, at_pack 12 2 _ hf a rfl rfl, at_pack 22 4 _ hf k rfl rfl, at_pack 25 5 _ hf g rfl rfl]

theorem Encoding.VRCNT (d : BitVec 5) (a : BitVec 5) (k : BitVec 3) (g : BitVec 3) : Encoding.Statement (.VRCNT d a k g) := by
  have hf : fits [(7, 61), (5, d.toNat), (5, a.toNat), (5, 0), (3, k.toNat), (3, g.toNat), (4, 3)] := ⟨by decide, d.isLt, a.isLt, by decide, k.isLt, g.isLt, by decide, trivial⟩
  have he : encode (.VRCNT d a k g) = (32, pack [(7, 61), (5, d.toNat), (5, a.toNat), (5, 0), (3, k.toNat), (3, g.toNat), (4, 3)]) := by
    rw [show encode (.VRCNT d a k g) = word 32 805306429 [(7, d.toNat), (12, a.toNat), (22, k.toNat), (25, g.toNat)] from rfl, word_cons, word_cons, word_cons, word_cons, word_nil]; exact congrArg (Prod.mk 32) (by simp only [pack]; omega)
  have hm := pack_get _ hf 0 7 61 0 rfl rfl
  rw [Nat.pow_zero, Nat.div_one] at hm
  refine Encoding.of32 _ _ he (pack_lt _ hf) hm rfl ?_
  rw [major_VRed _ hm]; unfold decodeVRed; rw [show bitsAt (pack _) 28 4 = 3 from pack_get _ hf 6 4 3 28 rfl rfl]
  show some _ = _
  rw [at_pack 7 1 _ hf d rfl rfl, at_pack 12 2 _ hf a rfl rfl, at_pack 22 4 _ hf k rfl rfl, at_pack 25 5 _ hf g rfl rfl]

theorem Encoding.VRFIRST (d : BitVec 5) (a : BitVec 5) (k : BitVec 3) (g : BitVec 3) : Encoding.Statement (.VRFIRST d a k g) := by
  have hf : fits [(7, 61), (5, d.toNat), (5, a.toNat), (5, 0), (3, k.toNat), (3, g.toNat), (4, 4)] := ⟨by decide, d.isLt, a.isLt, by decide, k.isLt, g.isLt, by decide, trivial⟩
  have he : encode (.VRFIRST d a k g) = (32, pack [(7, 61), (5, d.toNat), (5, a.toNat), (5, 0), (3, k.toNat), (3, g.toNat), (4, 4)]) := by
    rw [show encode (.VRFIRST d a k g) = word 32 1073741885 [(7, d.toNat), (12, a.toNat), (22, k.toNat), (25, g.toNat)] from rfl, word_cons, word_cons, word_cons, word_cons, word_nil]; exact congrArg (Prod.mk 32) (by simp only [pack]; omega)
  have hm := pack_get _ hf 0 7 61 0 rfl rfl
  rw [Nat.pow_zero, Nat.div_one] at hm
  refine Encoding.of32 _ _ he (pack_lt _ hf) hm rfl ?_
  rw [major_VRed _ hm]; unfold decodeVRed; rw [show bitsAt (pack _) 28 4 = 4 from pack_get _ hf 6 4 4 28 rfl rfl]
  show some _ = _
  rw [at_pack 7 1 _ hf d rfl rfl, at_pack 12 2 _ hf a rfl rfl, at_pack 22 4 _ hf k rfl rfl, at_pack 25 5 _ hf g rfl rfl]

theorem Encoding.VLEN (d : BitVec 5) (a : BitVec 5) (g : BitVec 3) : Encoding.Statement (.VLEN d a g) := by
  have hf : fits [(7, 61), (5, d.toNat), (5, a.toNat), (8, 0), (3, g.toNat), (4, 5)] := ⟨by decide, d.isLt, a.isLt, by decide, g.isLt, by decide, trivial⟩
  have he : encode (.VLEN d a g) = (32, pack [(7, 61), (5, d.toNat), (5, a.toNat), (8, 0), (3, g.toNat), (4, 5)]) := by
    rw [show encode (.VLEN d a g) = word 32 1342177341 [(7, d.toNat), (12, a.toNat), (25, g.toNat)] from rfl, word_cons, word_cons, word_cons, word_nil]; exact congrArg (Prod.mk 32) (by simp only [pack]; omega)
  have hm := pack_get _ hf 0 7 61 0 rfl rfl
  rw [Nat.pow_zero, Nat.div_one] at hm
  refine Encoding.of32 _ _ he (pack_lt _ hf) hm rfl ?_
  rw [major_VRed _ hm]; unfold decodeVRed; rw [show bitsAt (pack _) 28 4 = 5 from pack_get _ hf 5 4 5 28 rfl rfl]
  show some _ = _
  rw [at_pack 7 1 _ hf d rfl rfl, at_pack 12 2 _ hf a rfl rfl, at_pack 25 4 _ hf g rfl rfl]

theorem Encoding.VRUNS (d : BitVec 5) (a : BitVec 5) (g : BitVec 3) : Encoding.Statement (.VRUNS d a g) := by
  have hf : fits [(7, 61), (5, d.toNat), (5, a.toNat), (8, 0), (3, g.toNat), (4, 6)] := ⟨by decide, d.isLt, a.isLt, by decide, g.isLt, by decide, trivial⟩
  have he : encode (.VRUNS d a g) = (32, pack [(7, 61), (5, d.toNat), (5, a.toNat), (8, 0), (3, g.toNat), (4, 6)]) := by
    rw [show encode (.VRUNS d a g) = word 32 1610612797 [(7, d.toNat), (12, a.toNat), (25, g.toNat)] from rfl, word_cons, word_cons, word_cons, word_nil]; exact congrArg (Prod.mk 32) (by simp only [pack]; omega)
  have hm := pack_get _ hf 0 7 61 0 rfl rfl
  rw [Nat.pow_zero, Nat.div_one] at hm
  refine Encoding.of32 _ _ he (pack_lt _ hf) hm rfl ?_
  rw [major_VRed _ hm]; unfold decodeVRed; rw [show bitsAt (pack _) 28 4 = 6 from pack_get _ hf 5 4 6 28 rfl rfl]
  show some _ = _
  rw [at_pack 7 1 _ hf d rfl rfl, at_pack 12 2 _ hf a rfl rfl, at_pack 25 4 _ hf g rfl rfl]

theorem Encoding.VSPLAT (d : BitVec 5) (a : BitVec 5) (b : BitVec 5) (k : BitVec 3) : Encoding.Statement (.VSPLAT d a b k) := by
  have hf : fits [(7, 61), (5, d.toNat), (5, a.toNat), (5, b.toNat), (3, k.toNat), (3, 1), (4, 7)] := ⟨by decide, d.isLt, a.isLt, b.isLt, k.isLt, by decide, by decide, trivial⟩
  have he : encode (.VSPLAT d a b k) = (32, pack [(7, 61), (5, d.toNat), (5, a.toNat), (5, b.toNat), (3, k.toNat), (3, 1), (4, 7)]) := by
    rw [show encode (.VSPLAT d a b k) = word 32 1912602685 [(7, d.toNat), (12, a.toNat), (17, b.toNat), (22, k.toNat)] from rfl, word_cons, word_cons, word_cons, word_cons, word_nil]; exact congrArg (Prod.mk 32) (by simp only [pack]; omega)
  have hm := pack_get _ hf 0 7 61 0 rfl rfl
  rw [Nat.pow_zero, Nat.div_one] at hm
  refine Encoding.of32 _ _ he (pack_lt _ hf) hm rfl ?_
  rw [major_VRed _ hm]; unfold decodeVRed; rw [show bitsAt (pack _) 28 4 = 7 from pack_get _ hf 6 4 7 28 rfl rfl]
  show some _ = _
  rw [at_pack 7 1 _ hf d rfl rfl, at_pack 12 2 _ hf a rfl rfl, at_pack 17 3 _ hf b rfl rfl, at_pack 22 4 _ hf k rfl rfl]

theorem Encoding.VIOTA (d : BitVec 5) (a : BitVec 5) (b : BitVec 5) (k : BitVec 3) : Encoding.Statement (.VIOTA d a b k) := by
  have hf : fits [(7, 61), (5, d.toNat), (5, a.toNat), (5, b.toNat), (3, k.toNat), (3, 1), (4, 8)] := ⟨by decide, d.isLt, a.isLt, b.isLt, k.isLt, by decide, by decide, trivial⟩
  have he : encode (.VIOTA d a b k) = (32, pack [(7, 61), (5, d.toNat), (5, a.toNat), (5, b.toNat), (3, k.toNat), (3, 1), (4, 8)]) := by
    rw [show encode (.VIOTA d a b k) = word 32 2181038141 [(7, d.toNat), (12, a.toNat), (17, b.toNat), (22, k.toNat)] from rfl, word_cons, word_cons, word_cons, word_cons, word_nil]; exact congrArg (Prod.mk 32) (by simp only [pack]; omega)
  have hm := pack_get _ hf 0 7 61 0 rfl rfl
  rw [Nat.pow_zero, Nat.div_one] at hm
  refine Encoding.of32 _ _ he (pack_lt _ hf) hm rfl ?_
  rw [major_VRed _ hm]; unfold decodeVRed; rw [show bitsAt (pack _) 28 4 = 8 from pack_get _ hf 6 4 8 28 rfl rfl]
  show some _ = _
  rw [at_pack 7 1 _ hf d rfl rfl, at_pack 12 2 _ hf a rfl rfl, at_pack 17 3 _ hf b rfl rfl, at_pack 22 4 _ hf k rfl rfl]

theorem Encoding.VSLICE (d : BitVec 5) (a : BitVec 5) (b : BitVec 5) : Encoding.Statement (.VSLICE d a b) := by
  have hf : fits [(7, 61), (5, d.toNat), (5, a.toNat), (5, b.toNat), (6, 8), (4, 9)] := ⟨by decide, d.isLt, a.isLt, b.isLt, by decide, by decide, trivial⟩
  have he : encode (.VSLICE d a b) = (32, pack [(7, 61), (5, d.toNat), (5, a.toNat), (5, b.toNat), (6, 8), (4, 9)]) := by
    rw [show encode (.VSLICE d a b) = word 32 2449473597 [(7, d.toNat), (12, a.toNat), (17, b.toNat)] from rfl, word_cons, word_cons, word_cons, word_nil]; exact congrArg (Prod.mk 32) (by simp only [pack]; omega)
  have hm := pack_get _ hf 0 7 61 0 rfl rfl
  rw [Nat.pow_zero, Nat.div_one] at hm
  refine Encoding.of32 _ _ he (pack_lt _ hf) hm rfl ?_
  rw [major_VRed _ hm]; unfold decodeVRed; rw [show bitsAt (pack _) 28 4 = 9 from pack_get _ hf 5 4 9 28 rfl rfl]
  show some _ = _
  rw [at_pack 7 1 _ hf d rfl rfl, at_pack 12 2 _ hf a rfl rfl, at_pack 17 3 _ hf b rfl rfl]

theorem Encoding.VCAT (d : BitVec 5) (a : BitVec 5) (b : BitVec 5) : Encoding.Statement (.VCAT d a b) := by
  have hf : fits [(7, 61), (5, d.toNat), (5, a.toNat), (5, b.toNat), (6, 8), (4, 10)] := ⟨by decide, d.isLt, a.isLt, b.isLt, by decide, by decide, trivial⟩
  have he : encode (.VCAT d a b) = (32, pack [(7, 61), (5, d.toNat), (5, a.toNat), (5, b.toNat), (6, 8), (4, 10)]) := by
    rw [show encode (.VCAT d a b) = word 32 2717909053 [(7, d.toNat), (12, a.toNat), (17, b.toNat)] from rfl, word_cons, word_cons, word_cons, word_nil]; exact congrArg (Prod.mk 32) (by simp only [pack]; omega)
  have hm := pack_get _ hf 0 7 61 0 rfl rfl
  rw [Nat.pow_zero, Nat.div_one] at hm
  refine Encoding.of32 _ _ he (pack_lt _ hf) hm rfl ?_
  rw [major_VRed _ hm]; unfold decodeVRed; rw [show bitsAt (pack _) 28 4 = 10 from pack_get _ hf 5 4 10 28 rfl rfl]
  show some _ = _
  rw [at_pack 7 1 _ hf d rfl rfl, at_pack 12 2 _ hf a rfl rfl, at_pack 17 3 _ hf b rfl rfl]

theorem Encoding.VSETLEN (d : BitVec 5) (a : BitVec 5) (b : BitVec 5) : Encoding.Statement (.VSETLEN d a b) := by
  have hf : fits [(7, 61), (5, d.toNat), (5, a.toNat), (5, b.toNat), (6, 8), (4, 11)] := ⟨by decide, d.isLt, a.isLt, b.isLt, by decide, by decide, trivial⟩
  have he : encode (.VSETLEN d a b) = (32, pack [(7, 61), (5, d.toNat), (5, a.toNat), (5, b.toNat), (6, 8), (4, 11)]) := by
    rw [show encode (.VSETLEN d a b) = word 32 2986344509 [(7, d.toNat), (12, a.toNat), (17, b.toNat)] from rfl, word_cons, word_cons, word_cons, word_nil]; exact congrArg (Prod.mk 32) (by simp only [pack]; omega)
  have hm := pack_get _ hf 0 7 61 0 rfl rfl
  rw [Nat.pow_zero, Nat.div_one] at hm
  refine Encoding.of32 _ _ he (pack_lt _ hf) hm rfl ?_
  rw [major_VRed _ hm]; unfold decodeVRed; rw [show bitsAt (pack _) 28 4 = 11 from pack_get _ hf 5 4 11 28 rfl rfl]
  show some _ = _
  rw [at_pack 7 1 _ hf d rfl rfl, at_pack 12 2 _ hf a rfl rfl, at_pack 17 3 _ hf b rfl rfl]

theorem Encoding.VEXTR (d : BitVec 5) (a : BitVec 5) (b : BitVec 5) : Encoding.Statement (.VEXTR d a b) := by
  have hf : fits [(7, 61), (5, d.toNat), (5, a.toNat), (5, b.toNat), (6, 8), (4, 12)] := ⟨by decide, d.isLt, a.isLt, b.isLt, by decide, by decide, trivial⟩
  have he : encode (.VEXTR d a b) = (32, pack [(7, 61), (5, d.toNat), (5, a.toNat), (5, b.toNat), (6, 8), (4, 12)]) := by
    rw [show encode (.VEXTR d a b) = word 32 3254779965 [(7, d.toNat), (12, a.toNat), (17, b.toNat)] from rfl, word_cons, word_cons, word_cons, word_nil]; exact congrArg (Prod.mk 32) (by simp only [pack]; omega)
  have hm := pack_get _ hf 0 7 61 0 rfl rfl
  rw [Nat.pow_zero, Nat.div_one] at hm
  refine Encoding.of32 _ _ he (pack_lt _ hf) hm rfl ?_
  rw [major_VRed _ hm]; unfold decodeVRed; rw [show bitsAt (pack _) 28 4 = 12 from pack_get _ hf 5 4 12 28 rfl rfl]
  show some _ = _
  rw [at_pack 7 1 _ hf d rfl rfl, at_pack 12 2 _ hf a rfl rfl, at_pack 17 3 _ hf b rfl rfl]

theorem Encoding.VINS (d : BitVec 5) (a : BitVec 5) (b : BitVec 5) : Encoding.Statement (.VINS d a b) := by
  have hf : fits [(7, 61), (5, d.toNat), (5, a.toNat), (5, b.toNat), (6, 8), (4, 13)] := ⟨by decide, d.isLt, a.isLt, b.isLt, by decide, by decide, trivial⟩
  have he : encode (.VINS d a b) = (32, pack [(7, 61), (5, d.toNat), (5, a.toNat), (5, b.toNat), (6, 8), (4, 13)]) := by
    rw [show encode (.VINS d a b) = word 32 3523215421 [(7, d.toNat), (12, a.toNat), (17, b.toNat)] from rfl, word_cons, word_cons, word_cons, word_nil]; exact congrArg (Prod.mk 32) (by simp only [pack]; omega)
  have hm := pack_get _ hf 0 7 61 0 rfl rfl
  rw [Nat.pow_zero, Nat.div_one] at hm
  refine Encoding.of32 _ _ he (pack_lt _ hf) hm rfl ?_
  rw [major_VRed _ hm]; unfold decodeVRed; rw [show bitsAt (pack _) 28 4 = 13 from pack_get _ hf 5 4 13 28 rfl rfl]
  show some _ = _
  rw [at_pack 7 1 _ hf d rfl rfl, at_pack 12 2 _ hf a rfl rfl, at_pack 17 3 _ hf b rfl rfl]

theorem Encoding.VLD (d : BitVec 5) (a : BitVec 5) (b : BitVec 5) (m : BitVec 4) : Encoding.Statement (.VLD d a b m) := by
  have hf : fits [(7, 63), (5, d.toNat), (5, a.toNat), (5, b.toNat), (3, 0), (4, m.toNat), (3, 0)] := ⟨by decide, d.isLt, a.isLt, b.isLt, by decide, m.isLt, by decide, trivial⟩
  have he : encode (.VLD d a b m) = (32, pack [(7, 63), (5, d.toNat), (5, a.toNat), (5, b.toNat), (3, 0), (4, m.toNat), (3, 0)]) := by
    rw [show encode (.VLD d a b m) = word 32 63 [(7, d.toNat), (12, a.toNat), (17, b.toNat), (25, m.toNat)] from rfl, word_cons, word_cons, word_cons, word_cons, word_nil]; exact congrArg (Prod.mk 32) (by simp only [pack]; omega)
  have hm := pack_get _ hf 0 7 63 0 rfl rfl
  rw [Nat.pow_zero, Nat.div_one] at hm
  refine Encoding.of32 _ _ he (pack_lt _ hf) hm rfl ?_
  rw [major_VMem _ hm]; unfold decodeVMem; rw [show bitsAt (pack _) 29 3 = 0 from pack_get _ hf 6 3 0 29 rfl rfl]
  show some _ = _
  rw [at_pack 7 1 _ hf d rfl rfl, at_pack 12 2 _ hf a rfl rfl, at_pack 17 3 _ hf b rfl rfl, at_pack 25 5 _ hf m rfl rfl]

theorem Encoding.VLDS (d : BitVec 5) (a : BitVec 5) (b : BitVec 5) (k : BitVec 3) (m : BitVec 4) : Encoding.Statement (.VLDS d a b k m) := by
  have hf : fits [(7, 63), (5, d.toNat), (5, a.toNat), (5, b.toNat), (3, k.toNat), (4, m.toNat), (3, 1)] := ⟨by decide, d.isLt, a.isLt, b.isLt, k.isLt, m.isLt, by decide, trivial⟩
  have he : encode (.VLDS d a b k m) = (32, pack [(7, 63), (5, d.toNat), (5, a.toNat), (5, b.toNat), (3, k.toNat), (4, m.toNat), (3, 1)]) := by
    rw [show encode (.VLDS d a b k m) = word 32 536870975 [(7, d.toNat), (12, a.toNat), (17, b.toNat), (22, k.toNat), (25, m.toNat)] from rfl, word_cons, word_cons, word_cons, word_cons, word_cons, word_nil]; exact congrArg (Prod.mk 32) (by simp only [pack]; omega)
  have hm := pack_get _ hf 0 7 63 0 rfl rfl
  rw [Nat.pow_zero, Nat.div_one] at hm
  refine Encoding.of32 _ _ he (pack_lt _ hf) hm rfl ?_
  rw [major_VMem _ hm]; unfold decodeVMem; rw [show bitsAt (pack _) 29 3 = 1 from pack_get _ hf 6 3 1 29 rfl rfl]
  show some _ = _
  rw [at_pack 7 1 _ hf d rfl rfl, at_pack 12 2 _ hf a rfl rfl, at_pack 17 3 _ hf b rfl rfl, at_pack 22 4 _ hf k rfl rfl, at_pack 25 5 _ hf m rfl rfl]

theorem Encoding.VLDFF (d : BitVec 5) (a : BitVec 5) (b : BitVec 5) (k : BitVec 3) (m : BitVec 4) : Encoding.Statement (.VLDFF d a b k m) := by
  have hf : fits [(7, 63), (5, d.toNat), (5, a.toNat), (5, b.toNat), (3, k.toNat), (4, m.toNat), (3, 2)] := ⟨by decide, d.isLt, a.isLt, b.isLt, k.isLt, m.isLt, by decide, trivial⟩
  have he : encode (.VLDFF d a b k m) = (32, pack [(7, 63), (5, d.toNat), (5, a.toNat), (5, b.toNat), (3, k.toNat), (4, m.toNat), (3, 2)]) := by
    rw [show encode (.VLDFF d a b k m) = word 32 1073741887 [(7, d.toNat), (12, a.toNat), (17, b.toNat), (22, k.toNat), (25, m.toNat)] from rfl, word_cons, word_cons, word_cons, word_cons, word_cons, word_nil]; exact congrArg (Prod.mk 32) (by simp only [pack]; omega)
  have hm := pack_get _ hf 0 7 63 0 rfl rfl
  rw [Nat.pow_zero, Nat.div_one] at hm
  refine Encoding.of32 _ _ he (pack_lt _ hf) hm rfl ?_
  rw [major_VMem _ hm]; unfold decodeVMem; rw [show bitsAt (pack _) 29 3 = 2 from pack_get _ hf 6 3 2 29 rfl rfl]
  show some _ = _
  rw [at_pack 7 1 _ hf d rfl rfl, at_pack 12 2 _ hf a rfl rfl, at_pack 17 3 _ hf b rfl rfl, at_pack 22 4 _ hf k rfl rfl, at_pack 25 5 _ hf m rfl rfl]

theorem Encoding.VST (d : BitVec 5) (a : BitVec 5) (k : BitVec 3) (m : BitVec 4) : Encoding.Statement (.VST d a k m) := by
  have hf : fits [(7, 63), (5, d.toNat), (5, a.toNat), (5, 0), (3, k.toNat), (4, m.toNat), (3, 3)] := ⟨by decide, d.isLt, a.isLt, by decide, k.isLt, m.isLt, by decide, trivial⟩
  have he : encode (.VST d a k m) = (32, pack [(7, 63), (5, d.toNat), (5, a.toNat), (5, 0), (3, k.toNat), (4, m.toNat), (3, 3)]) := by
    rw [show encode (.VST d a k m) = word 32 1610612799 [(7, d.toNat), (12, a.toNat), (22, k.toNat), (25, m.toNat)] from rfl, word_cons, word_cons, word_cons, word_cons, word_nil]; exact congrArg (Prod.mk 32) (by simp only [pack]; omega)
  have hm := pack_get _ hf 0 7 63 0 rfl rfl
  rw [Nat.pow_zero, Nat.div_one] at hm
  refine Encoding.of32 _ _ he (pack_lt _ hf) hm rfl ?_
  rw [major_VMem _ hm]; unfold decodeVMem; rw [show bitsAt (pack _) 29 3 = 3 from pack_get _ hf 6 3 3 29 rfl rfl]
  show some _ = _
  rw [at_pack 7 1 _ hf d rfl rfl, at_pack 12 2 _ hf a rfl rfl, at_pack 22 4 _ hf k rfl rfl, at_pack 25 5 _ hf m rfl rfl]

theorem Encoding.VSTS (d : BitVec 5) (a : BitVec 5) (b : BitVec 5) (k : BitVec 3) (m : BitVec 4) : Encoding.Statement (.VSTS d a b k m) := by
  have hf : fits [(7, 63), (5, d.toNat), (5, a.toNat), (5, b.toNat), (3, k.toNat), (4, m.toNat), (3, 4)] := ⟨by decide, d.isLt, a.isLt, b.isLt, k.isLt, m.isLt, by decide, trivial⟩
  have he : encode (.VSTS d a b k m) = (32, pack [(7, 63), (5, d.toNat), (5, a.toNat), (5, b.toNat), (3, k.toNat), (4, m.toNat), (3, 4)]) := by
    rw [show encode (.VSTS d a b k m) = word 32 2147483711 [(7, d.toNat), (12, a.toNat), (17, b.toNat), (22, k.toNat), (25, m.toNat)] from rfl, word_cons, word_cons, word_cons, word_cons, word_cons, word_nil]; exact congrArg (Prod.mk 32) (by simp only [pack]; omega)
  have hm := pack_get _ hf 0 7 63 0 rfl rfl
  rw [Nat.pow_zero, Nat.div_one] at hm
  refine Encoding.of32 _ _ he (pack_lt _ hf) hm rfl ?_
  rw [major_VMem _ hm]; unfold decodeVMem; rw [show bitsAt (pack _) 29 3 = 4 from pack_get _ hf 6 3 4 29 rfl rfl]
  show some _ = _
  rw [at_pack 7 1 _ hf d rfl rfl, at_pack 12 2 _ hf a rfl rfl, at_pack 17 3 _ hf b rfl rfl, at_pack 22 4 _ hf k rfl rfl, at_pack 25 5 _ hf m rfl rfl]

theorem Encoding.VPOP (d : BitVec 5) (b : BitVec 5) (n : BitVec 3) (m : BitVec 4) : Encoding.Statement (.VPOP d b n m) := by
  have hf : fits [(7, 63), (5, d.toNat), (5, 0), (5, b.toNat), (3, n.toNat), (4, m.toNat), (3, 5)] := ⟨by decide, d.isLt, by decide, b.isLt, n.isLt, m.isLt, by decide, trivial⟩
  have he : encode (.VPOP d b n m) = (32, pack [(7, 63), (5, d.toNat), (5, 0), (5, b.toNat), (3, n.toNat), (4, m.toNat), (3, 5)]) := by
    rw [show encode (.VPOP d b n m) = word 32 2684354623 [(7, d.toNat), (17, b.toNat), (22, n.toNat), (25, m.toNat)] from rfl, word_cons, word_cons, word_cons, word_cons, word_nil]; exact congrArg (Prod.mk 32) (by simp only [pack]; omega)
  have hm := pack_get _ hf 0 7 63 0 rfl rfl
  rw [Nat.pow_zero, Nat.div_one] at hm
  refine Encoding.of32 _ _ he (pack_lt _ hf) hm rfl ?_
  rw [major_VMem _ hm]; unfold decodeVMem; rw [show bitsAt (pack _) 29 3 = 5 from pack_get _ hf 6 3 5 29 rfl rfl]
  show some _ = _
  rw [at_pack 7 1 _ hf d rfl rfl, at_pack 17 3 _ hf b rfl rfl, at_pack 22 4 _ hf n rfl rfl, at_pack 25 5 _ hf m rfl rfl]

theorem Encoding.PSET (k : BitVec 3) (a : BitVec 6) (w : BitVec 2) : Encoding.Statement (.PSET k a w) := by
  have hf : fits [(7, 65), (3, k.toNat), (3, 0), (6, a.toNat), (2, w.toNat), (4, 0), (7, 0)] := ⟨by decide, k.isLt, by decide, a.isLt, w.isLt, by decide, by decide, trivial⟩
  have he : encode (.PSET k a w) = (32, pack [(7, 65), (3, k.toNat), (3, 0), (6, a.toNat), (2, w.toNat), (4, 0), (7, 0)]) := by
    rw [show encode (.PSET k a w) = word 32 65 [(7, k.toNat), (13, a.toNat), (19, w.toNat)] from rfl, word_cons, word_cons, word_cons, word_nil]; exact congrArg (Prod.mk 32) (by simp only [pack]; omega)
  have hm := pack_get _ hf 0 7 65 0 rfl rfl
  rw [Nat.pow_zero, Nat.div_one] at hm
  refine Encoding.of32 _ _ he (pack_lt _ hf) hm rfl ?_
  rw [major_Pred _ hm]; unfold decodePred; rw [show bitsAt (pack _) 25 7 = 0 from pack_get _ hf 6 7 0 25 rfl rfl]
  show some _ = _
  rw [at_pack 7 1 _ hf k rfl rfl, at_pack 13 3 _ hf a rfl rfl, at_pack 19 4 _ hf w rfl rfl]

theorem Encoding.PCNT (k : BitVec 3) (a : BitVec 6) : Encoding.Statement (.PCNT k a) := by
  have hf : fits [(7, 65), (3, k.toNat), (3, 0), (6, a.toNat), (6, 0), (7, 1)] := ⟨by decide, k.isLt, by decide, a.isLt, by decide, by decide, trivial⟩
  have he : encode (.PCNT k a) = (32, pack [(7, 65), (3, k.toNat), (3, 0), (6, a.toNat), (6, 0), (7, 1)]) := by
    rw [show encode (.PCNT k a) = word 32 33554497 [(7, k.toNat), (13, a.toNat)] from rfl, word_cons, word_cons, word_nil]; exact congrArg (Prod.mk 32) (by simp only [pack]; omega)
  have hm := pack_get _ hf 0 7 65 0 rfl rfl
  rw [Nat.pow_zero, Nat.div_one] at hm
  refine Encoding.of32 _ _ he (pack_lt _ hf) hm rfl ?_
  rw [major_Pred _ hm]; unfold decodePred; rw [show bitsAt (pack _) 25 7 = 1 from pack_get _ hf 5 7 1 25 rfl rfl]
  show some _ = _
  rw [at_pack 7 1 _ hf k rfl rfl, at_pack 13 3 _ hf a rfl rfl]

theorem Encoding.PMIN (k : BitVec 3) (i : BitVec 3) (j : BitVec 3) : Encoding.Statement (.PMIN k i j) := by
  have hf : fits [(7, 65), (3, k.toNat), (3, 0), (3, i.toNat), (3, 0), (3, j.toNat), (3, 0), (7, 2)] := ⟨by decide, k.isLt, by decide, i.isLt, by decide, j.isLt, by decide, by decide, trivial⟩
  have he : encode (.PMIN k i j) = (32, pack [(7, 65), (3, k.toNat), (3, 0), (3, i.toNat), (3, 0), (3, j.toNat), (3, 0), (7, 2)]) := by
    rw [show encode (.PMIN k i j) = word 32 67108929 [(7, k.toNat), (13, i.toNat), (19, j.toNat)] from rfl, word_cons, word_cons, word_cons, word_nil]; exact congrArg (Prod.mk 32) (by simp only [pack]; omega)
  have hm := pack_get _ hf 0 7 65 0 rfl rfl
  rw [Nat.pow_zero, Nat.div_one] at hm
  refine Encoding.of32 _ _ he (pack_lt _ hf) hm rfl ?_
  rw [major_Pred _ hm]; unfold decodePred; rw [show bitsAt (pack _) 25 7 = 2 from pack_get _ hf 7 7 2 25 rfl rfl]
  show some _ = _
  rw [at_pack 7 1 _ hf k rfl rfl, at_pack 13 3 _ hf i rfl rfl, at_pack 19 5 _ hf j rfl rfl]

theorem Encoding.PGET (d : BitVec 6) (i : BitVec 3) : Encoding.Statement (.PGET d i) := by
  have hf : fits [(7, 65), (6, d.toNat), (3, i.toNat), (9, 0), (7, 3)] := ⟨by decide, d.isLt, i.isLt, by decide, by decide, trivial⟩
  have he : encode (.PGET d i) = (32, pack [(7, 65), (6, d.toNat), (3, i.toNat), (9, 0), (7, 3)]) := by
    rw [show encode (.PGET d i) = word 32 100663361 [(7, d.toNat), (13, i.toNat)] from rfl, word_cons, word_cons, word_nil]; exact congrArg (Prod.mk 32) (by simp only [pack]; omega)
  have hm := pack_get _ hf 0 7 65 0 rfl rfl
  rw [Nat.pow_zero, Nat.div_one] at hm
  refine Encoding.of32 _ _ he (pack_lt _ hf) hm rfl ?_
  rw [major_Pred _ hm]; unfold decodePred; rw [show bitsAt (pack _) 25 7 = 3 from pack_get _ hf 4 7 3 25 rfl rfl]
  show some _ = _
  rw [at_pack 7 1 _ hf d rfl rfl, at_pack 13 2 _ hf i rfl rfl]

theorem Encoding.PALL (k : BitVec 3) : Encoding.Statement (.PALL k) := by
  have hf : fits [(7, 65), (3, k.toNat), (15, 0), (7, 4)] := ⟨by decide, k.isLt, by decide, by decide, trivial⟩
  have he : encode (.PALL k) = (32, pack [(7, 65), (3, k.toNat), (15, 0), (7, 4)]) := by
    rw [show encode (.PALL k) = word 32 134217793 [(7, k.toNat)] from rfl, word_cons, word_nil]; exact congrArg (Prod.mk 32) (by simp only [pack]; omega)
  have hm := pack_get _ hf 0 7 65 0 rfl rfl
  rw [Nat.pow_zero, Nat.div_one] at hm
  refine Encoding.of32 _ _ he (pack_lt _ hf) hm rfl ?_
  rw [major_Pred _ hm]; unfold decodePred; rw [show bitsAt (pack _) 25 7 = 4 from pack_get _ hf 3 7 4 25 rfl rfl]
  show some _ = _
  rw [at_pack 7 1 _ hf k rfl rfl]

theorem Encoding.EALLOC (a : BitVec 6) (b : BitVec 6) : Encoding.Statement (.EALLOC a b) := by
  have hf : fits [(7, 67), (6, 0), (6, a.toNat), (6, b.toNat), (7, 0)] := ⟨by decide, by decide, a.isLt, b.isLt, by decide, trivial⟩
  have he : encode (.EALLOC a b) = (32, pack [(7, 67), (6, 0), (6, a.toNat), (6, b.toNat), (7, 0)]) := by
    rw [show encode (.EALLOC a b) = word 32 67 [(13, a.toNat), (19, b.toNat)] from rfl, word_cons, word_cons, word_nil]; exact congrArg (Prod.mk 32) (by simp only [pack]; omega)
  have hm := pack_get _ hf 0 7 67 0 rfl rfl
  rw [Nat.pow_zero, Nat.div_one] at hm
  refine Encoding.of32 _ _ he (pack_lt _ hf) hm rfl ?_
  rw [major_Emb _ hm]; unfold decodeEmb; rw [show bitsAt (pack _) 25 7 = 0 from pack_get _ hf 4 7 0 25 rfl rfl]
  show some _ = _
  rw [at_pack 13 2 _ hf a rfl rfl, at_pack 19 3 _ hf b rfl rfl]

theorem Encoding.EFREE (a : BitVec 6) (b : BitVec 6) : Encoding.Statement (.EFREE a b) := by
  have hf : fits [(7, 67), (6, 0), (6, a.toNat), (6, b.toNat), (7, 1)] := ⟨by decide, by decide, a.isLt, b.isLt, by decide, trivial⟩
  have he : encode (.EFREE a b) = (32, pack [(7, 67), (6, 0), (6, a.toNat), (6, b.toNat), (7, 1)]) := by
    rw [show encode (.EFREE a b) = word 32 33554499 [(13, a.toNat), (19, b.toNat)] from rfl, word_cons, word_cons, word_nil]; exact congrArg (Prod.mk 32) (by simp only [pack]; omega)
  have hm := pack_get _ hf 0 7 67 0 rfl rfl
  rw [Nat.pow_zero, Nat.div_one] at hm
  refine Encoding.of32 _ _ he (pack_lt _ hf) hm rfl ?_
  rw [major_Emb _ hm]; unfold decodeEmb; rw [show bitsAt (pack _) 25 7 = 1 from pack_get _ hf 4 7 1 25 rfl rfl]
  show some _ = _
  rw [at_pack 13 2 _ hf a rfl rfl, at_pack 19 3 _ hf b rfl rfl]

theorem Encoding.ETOUCH (a : BitVec 6) (b : BitVec 6) : Encoding.Statement (.ETOUCH a b) := by
  have hf : fits [(7, 67), (6, 0), (6, a.toNat), (6, b.toNat), (7, 2)] := ⟨by decide, by decide, a.isLt, b.isLt, by decide, trivial⟩
  have he : encode (.ETOUCH a b) = (32, pack [(7, 67), (6, 0), (6, a.toNat), (6, b.toNat), (7, 2)]) := by
    rw [show encode (.ETOUCH a b) = word 32 67108931 [(13, a.toNat), (19, b.toNat)] from rfl, word_cons, word_cons, word_nil]; exact congrArg (Prod.mk 32) (by simp only [pack]; omega)
  have hm := pack_get _ hf 0 7 67 0 rfl rfl
  rw [Nat.pow_zero, Nat.div_one] at hm
  refine Encoding.of32 _ _ he (pack_lt _ hf) hm rfl ?_
  rw [major_Emb _ hm]; unfold decodeEmb; rw [show bitsAt (pack _) 25 7 = 2 from pack_get _ hf 4 7 2 25 rfl rfl]
  show some _ = _
  rw [at_pack 13 2 _ hf a rfl rfl, at_pack 19 3 _ hf b rfl rfl]

theorem Encoding.EAGE (d : BitVec 6) (a : BitVec 6) : Encoding.Statement (.EAGE d a) := by
  have hf : fits [(7, 67), (6, d.toNat), (6, a.toNat), (6, 0), (7, 3)] := ⟨by decide, d.isLt, a.isLt, by decide, by decide, trivial⟩
  have he : encode (.EAGE d a) = (32, pack [(7, 67), (6, d.toNat), (6, a.toNat), (6, 0), (7, 3)]) := by
    rw [show encode (.EAGE d a) = word 32 100663363 [(7, d.toNat), (13, a.toNat)] from rfl, word_cons, word_cons, word_nil]; exact congrArg (Prod.mk 32) (by simp only [pack]; omega)
  have hm := pack_get _ hf 0 7 67 0 rfl rfl
  rw [Nat.pow_zero, Nat.div_one] at hm
  refine Encoding.of32 _ _ he (pack_lt _ hf) hm rfl ?_
  rw [major_Emb _ hm]; unfold decodeEmb; rw [show bitsAt (pack _) 25 7 = 3 from pack_get _ hf 4 7 3 25 rfl rfl]
  show some _ = _
  rw [at_pack 7 1 _ hf d rfl rfl, at_pack 13 2 _ hf a rfl rfl]

theorem Encoding.ECLASS (a : BitVec 6) (b : BitVec 6) : Encoding.Statement (.ECLASS a b) := by
  have hf : fits [(7, 67), (6, 0), (6, a.toNat), (6, b.toNat), (7, 4)] := ⟨by decide, by decide, a.isLt, b.isLt, by decide, trivial⟩
  have he : encode (.ECLASS a b) = (32, pack [(7, 67), (6, 0), (6, a.toNat), (6, b.toNat), (7, 4)]) := by
    rw [show encode (.ECLASS a b) = word 32 134217795 [(13, a.toNat), (19, b.toNat)] from rfl, word_cons, word_cons, word_nil]; exact congrArg (Prod.mk 32) (by simp only [pack]; omega)
  have hm := pack_get _ hf 0 7 67 0 rfl rfl
  rw [Nat.pow_zero, Nat.div_one] at hm
  refine Encoding.of32 _ _ he (pack_lt _ hf) hm rfl ?_
  rw [major_Emb _ hm]; unfold decodeEmb; rw [show bitsAt (pack _) 25 7 = 4 from pack_get _ hf 4 7 4 25 rfl rfl]
  show some _ = _
  rw [at_pack 13 2 _ hf a rfl rfl, at_pack 19 3 _ hf b rfl rfl]

theorem Encoding.TDSET (a : BitVec 6) (b : BitVec 6) : Encoding.Statement (.TDSET a b) := by
  have hf : fits [(7, 69), (6, 0), (6, a.toNat), (6, b.toNat), (7, 0)] := ⟨by decide, by decide, a.isLt, b.isLt, by decide, trivial⟩
  have he : encode (.TDSET a b) = (32, pack [(7, 69), (6, 0), (6, a.toNat), (6, b.toNat), (7, 0)]) := by
    rw [show encode (.TDSET a b) = word 32 69 [(13, a.toNat), (19, b.toNat)] from rfl, word_cons, word_cons, word_nil]; exact congrArg (Prod.mk 32) (by simp only [pack]; omega)
  have hm := pack_get _ hf 0 7 69 0 rfl rfl
  rw [Nat.pow_zero, Nat.div_one] at hm
  refine Encoding.of32 _ _ he (pack_lt _ hf) hm rfl ?_
  rw [major_Td _ hm]; unfold decodeTd; rw [show bitsAt (pack _) 25 7 = 0 from pack_get _ hf 4 7 0 25 rfl rfl]
  show some _ = _
  rw [at_pack 13 2 _ hf a rfl rfl, at_pack 19 3 _ hf b rfl rfl]

theorem Encoding.TDGET (d : BitVec 6) (a : BitVec 6) : Encoding.Statement (.TDGET d a) := by
  have hf : fits [(7, 69), (6, d.toNat), (6, a.toNat), (6, 0), (7, 1)] := ⟨by decide, d.isLt, a.isLt, by decide, by decide, trivial⟩
  have he : encode (.TDGET d a) = (32, pack [(7, 69), (6, d.toNat), (6, a.toNat), (6, 0), (7, 1)]) := by
    rw [show encode (.TDGET d a) = word 32 33554501 [(7, d.toNat), (13, a.toNat)] from rfl, word_cons, word_cons, word_nil]; exact congrArg (Prod.mk 32) (by simp only [pack]; omega)
  have hm := pack_get _ hf 0 7 69 0 rfl rfl
  rw [Nat.pow_zero, Nat.div_one] at hm
  refine Encoding.of32 _ _ he (pack_lt _ hf) hm rfl ?_
  rw [major_Td _ hm]; unfold decodeTd; rw [show bitsAt (pack _) 25 7 = 1 from pack_get _ hf 4 7 1 25 rfl rfl]
  show some _ = _
  rw [at_pack 7 1 _ hf d rfl rfl, at_pack 13 2 _ hf a rfl rfl]

theorem Encoding.TDCOPY (a : BitVec 6) (b : BitVec 6) : Encoding.Statement (.TDCOPY a b) := by
  have hf : fits [(7, 69), (6, 0), (6, a.toNat), (6, b.toNat), (7, 2)] := ⟨by decide, by decide, a.isLt, b.isLt, by decide, trivial⟩
  have he : encode (.TDCOPY a b) = (32, pack [(7, 69), (6, 0), (6, a.toNat), (6, b.toNat), (7, 2)]) := by
    rw [show encode (.TDCOPY a b) = word 32 67108933 [(13, a.toNat), (19, b.toNat)] from rfl, word_cons, word_cons, word_nil]; exact congrArg (Prod.mk 32) (by simp only [pack]; omega)
  have hm := pack_get _ hf 0 7 69 0 rfl rfl
  rw [Nat.pow_zero, Nat.div_one] at hm
  refine Encoding.of32 _ _ he (pack_lt _ hf) hm rfl ?_
  rw [major_Td _ hm]; unfold decodeTd; rw [show bitsAt (pack _) 25 7 = 2 from pack_get _ hf 4 7 2 25 rfl rfl]
  show some _ = _
  rw [at_pack 13 2 _ hf a rfl rfl, at_pack 19 3 _ hf b rfl rfl]

theorem Encoding.TDCLR (a : BitVec 6) : Encoding.Statement (.TDCLR a) := by
  have hf : fits [(7, 69), (6, 0), (6, a.toNat), (6, 0), (7, 3)] := ⟨by decide, by decide, a.isLt, by decide, by decide, trivial⟩
  have he : encode (.TDCLR a) = (32, pack [(7, 69), (6, 0), (6, a.toNat), (6, 0), (7, 3)]) := by
    rw [show encode (.TDCLR a) = word 32 100663365 [(13, a.toNat)] from rfl, word_cons, word_nil]; exact congrArg (Prod.mk 32) (by simp only [pack]; omega)
  have hm := pack_get _ hf 0 7 69 0 rfl rfl
  rw [Nat.pow_zero, Nat.div_one] at hm
  refine Encoding.of32 _ _ he (pack_lt _ hf) hm rfl ?_
  rw [major_Td _ hm]; unfold decodeTd; rw [show bitsAt (pack _) 25 7 = 3 from pack_get _ hf 4 7 3 25 rfl rfl]
  show some _ = _
  rw [at_pack 13 2 _ hf a rfl rfl]

theorem Encoding.BSET (a : BitVec 6) (b : BitVec 6) : Encoding.Statement (.BSET a b) := by
  have hf : fits [(7, 69), (6, 0), (6, a.toNat), (6, b.toNat), (7, 4)] := ⟨by decide, by decide, a.isLt, b.isLt, by decide, trivial⟩
  have he : encode (.BSET a b) = (32, pack [(7, 69), (6, 0), (6, a.toNat), (6, b.toNat), (7, 4)]) := by
    rw [show encode (.BSET a b) = word 32 134217797 [(13, a.toNat), (19, b.toNat)] from rfl, word_cons, word_cons, word_nil]; exact congrArg (Prod.mk 32) (by simp only [pack]; omega)
  have hm := pack_get _ hf 0 7 69 0 rfl rfl
  rw [Nat.pow_zero, Nat.div_one] at hm
  refine Encoding.of32 _ _ he (pack_lt _ hf) hm rfl ?_
  rw [major_Td _ hm]; unfold decodeTd; rw [show bitsAt (pack _) 25 7 = 4 from pack_get _ hf 4 7 4 25 rfl rfl]
  show some _ = _
  rw [at_pack 13 2 _ hf a rfl rfl, at_pack 19 3 _ hf b rfl rfl]

theorem Encoding.BGET (d : BitVec 6) (a : BitVec 6) : Encoding.Statement (.BGET d a) := by
  have hf : fits [(7, 69), (6, d.toNat), (6, a.toNat), (6, 0), (7, 5)] := ⟨by decide, d.isLt, a.isLt, by decide, by decide, trivial⟩
  have he : encode (.BGET d a) = (32, pack [(7, 69), (6, d.toNat), (6, a.toNat), (6, 0), (7, 5)]) := by
    rw [show encode (.BGET d a) = word 32 167772229 [(7, d.toNat), (13, a.toNat)] from rfl, word_cons, word_cons, word_nil]; exact congrArg (Prod.mk 32) (by simp only [pack]; omega)
  have hm := pack_get _ hf 0 7 69 0 rfl rfl
  rw [Nat.pow_zero, Nat.div_one] at hm
  refine Encoding.of32 _ _ he (pack_lt _ hf) hm rfl ?_
  rw [major_Td _ hm]; unfold decodeTd; rw [show bitsAt (pack _) 25 7 = 5 from pack_get _ hf 4 7 5 25 rfl rfl]
  show some _ = _
  rw [at_pack 7 1 _ hf d rfl rfl, at_pack 13 2 _ hf a rfl rfl]

theorem Encoding.COPY (x : BitVec 5) (y : BitVec 6) (z : BitVec 6) (t : BitVec 1) : Encoding.Statement (.COPY x y z t) := by
  have hf : fits [(7, 71), (5, x.toNat), (6, y.toNat), (6, z.toNat), (3, 0), (1, t.toNat), (4, 0)] := ⟨by decide, x.isLt, y.isLt, z.isLt, by decide, t.isLt, by decide, trivial⟩
  have he : encode (.COPY x y z t) = (32, pack [(7, 71), (5, x.toNat), (6, y.toNat), (6, z.toNat), (3, 0), (1, t.toNat), (4, 0)]) := by
    rw [show encode (.COPY x y z t) = word 32 71 [(7, x.toNat), (12, y.toNat), (18, z.toNat), (27, t.toNat)] from rfl, word_cons, word_cons, word_cons, word_cons, word_nil]; exact congrArg (Prod.mk 32) (by simp only [pack]; omega)
  have hm := pack_get _ hf 0 7 71 0 rfl rfl
  rw [Nat.pow_zero, Nat.div_one] at hm
  refine Encoding.of32 _ _ he (pack_lt _ hf) hm rfl ?_
  rw [major_Copy _ hm]; unfold decodeCopy; rw [show bitsAt (pack _) 24 3 = 0 from pack_get _ hf 4 3 0 24 rfl rfl]
  show some _ = _
  rw [at_pack 7 1 _ hf x rfl rfl, at_pack 12 2 _ hf y rfl rfl, at_pack 18 3 _ hf z rfl rfl, at_pack 27 5 _ hf t rfl rfl]

theorem Encoding.COPYX (x : BitVec 5) (y : BitVec 6) (z : BitVec 6) (t : BitVec 1) (f : BitVec 1) (s : BitVec 1) : Encoding.Statement (.COPYX x y z t f s) := by
  have hf : fits [(7, 71), (5, x.toNat), (6, y.toNat), (6, z.toNat), (3, 1), (1, t.toNat), (1, f.toNat), (1, s.toNat), (2, 0)] := ⟨by decide, x.isLt, y.isLt, z.isLt, by decide, t.isLt, f.isLt, s.isLt, by decide, trivial⟩
  have he : encode (.COPYX x y z t f s) = (32, pack [(7, 71), (5, x.toNat), (6, y.toNat), (6, z.toNat), (3, 1), (1, t.toNat), (1, f.toNat), (1, s.toNat), (2, 0)]) := by
    rw [show encode (.COPYX x y z t f s) = word 32 16777287 [(7, x.toNat), (12, y.toNat), (18, z.toNat), (27, t.toNat), (28, f.toNat), (29, s.toNat)] from rfl, word_cons, word_cons, word_cons, word_cons, word_cons, word_cons, word_nil]; exact congrArg (Prod.mk 32) (by simp only [pack]; omega)
  have hm := pack_get _ hf 0 7 71 0 rfl rfl
  rw [Nat.pow_zero, Nat.div_one] at hm
  refine Encoding.of32 _ _ he (pack_lt _ hf) hm rfl ?_
  rw [major_Copy _ hm]; unfold decodeCopy; rw [show bitsAt (pack _) 24 3 = 1 from pack_get _ hf 4 3 1 24 rfl rfl]
  show some _ = _
  rw [at_pack 7 1 _ hf x rfl rfl, at_pack 12 2 _ hf y rfl rfl, at_pack 18 3 _ hf z rfl rfl, at_pack 27 5 _ hf t rfl rfl, at_pack 28 6 _ hf f rfl rfl, at_pack 29 7 _ hf s rfl rfl]

theorem Encoding.COPYM (x : BitVec 4) (y : BitVec 6) (z : BitVec 6) (t : BitVec 1) (l : BitVec 1) : Encoding.Statement (.COPYM x y z t l) := by
  have hf : fits [(7, 71), (4, x.toNat), (1, 1), (6, y.toNat), (6, z.toNat), (3, 2), (1, t.toNat), (1, l.toNat), (3, 0)] := ⟨by decide, x.isLt, by decide, y.isLt, z.isLt, by decide, t.isLt, l.isLt, by decide, trivial⟩
  have he : encode (.COPYM x y z t l) = (32, pack [(7, 71), (4, x.toNat), (1, 1), (6, y.toNat), (6, z.toNat), (3, 2), (1, t.toNat), (1, l.toNat), (3, 0)]) := by
    rw [show encode (.COPYM x y z t l) = word 32 33556551 [(7, x.toNat), (12, y.toNat), (18, z.toNat), (27, t.toNat), (28, l.toNat)] from rfl, word_cons, word_cons, word_cons, word_cons, word_cons, word_nil]; exact congrArg (Prod.mk 32) (by simp only [pack]; omega)
  have hm := pack_get _ hf 0 7 71 0 rfl rfl
  rw [Nat.pow_zero, Nat.div_one] at hm
  refine Encoding.of32 _ _ he (pack_lt _ hf) hm rfl ?_
  rw [major_Copy _ hm]; unfold decodeCopy; rw [show bitsAt (pack _) 24 3 = 2 from pack_get _ hf 5 3 2 24 rfl rfl]
  show some _ = _
  rw [at_pack 7 1 _ hf x rfl rfl, at_pack 12 3 _ hf y rfl rfl, at_pack 18 4 _ hf z rfl rfl, at_pack 27 6 _ hf t rfl rfl, at_pack 28 7 _ hf l rfl rfl]

theorem Encoding.COPYF (x : BitVec 5) (p : BitVec 3) (n : BitVec 2) (z : BitVec 6) (t : BitVec 1) : Encoding.Statement (.COPYF x p n z t) := by
  have hf : fits [(7, 71), (5, x.toNat), (3, p.toNat), (2, n.toNat), (1, 0), (6, z.toNat), (3, 3), (1, t.toNat), (4, 0)] := ⟨by decide, x.isLt, p.isLt, n.isLt, by decide, z.isLt, by decide, t.isLt, by decide, trivial⟩
  have he : encode (.COPYF x p n z t) = (32, pack [(7, 71), (5, x.toNat), (3, p.toNat), (2, n.toNat), (1, 0), (6, z.toNat), (3, 3), (1, t.toNat), (4, 0)]) := by
    rw [show encode (.COPYF x p n z t) = word 32 50331719 [(7, x.toNat), (12, p.toNat), (15, n.toNat), (18, z.toNat), (27, t.toNat)] from rfl, word_cons, word_cons, word_cons, word_cons, word_cons, word_nil]; exact congrArg (Prod.mk 32) (by simp only [pack]; omega)
  have hm := pack_get _ hf 0 7 71 0 rfl rfl
  rw [Nat.pow_zero, Nat.div_one] at hm
  refine Encoding.of32 _ _ he (pack_lt _ hf) hm rfl ?_
  rw [major_Copy _ hm]; unfold decodeCopy; rw [show bitsAt (pack _) 24 3 = 3 from pack_get _ hf 6 3 3 24 rfl rfl]
  show some _ = _
  rw [at_pack 7 1 _ hf x rfl rfl, at_pack 12 2 _ hf p rfl rfl, at_pack 15 3 _ hf n rfl rfl, at_pack 18 5 _ hf z rfl rfl, at_pack 27 7 _ hf t rfl rfl]

theorem Encoding.COPYT (x : BitVec 5) (y : BitVec 6) (z : BitVec 6) (t : BitVec 1) : Encoding.Statement (.COPYT x y z t) := by
  have hf : fits [(7, 71), (5, x.toNat), (6, y.toNat), (6, z.toNat), (3, 4), (1, t.toNat), (4, 0)] := ⟨by decide, x.isLt, y.isLt, z.isLt, by decide, t.isLt, by decide, trivial⟩
  have he : encode (.COPYT x y z t) = (32, pack [(7, 71), (5, x.toNat), (6, y.toNat), (6, z.toNat), (3, 4), (1, t.toNat), (4, 0)]) := by
    rw [show encode (.COPYT x y z t) = word 32 67108935 [(7, x.toNat), (12, y.toNat), (18, z.toNat), (27, t.toNat)] from rfl, word_cons, word_cons, word_cons, word_cons, word_nil]; exact congrArg (Prod.mk 32) (by simp only [pack]; omega)
  have hm := pack_get _ hf 0 7 71 0 rfl rfl
  rw [Nat.pow_zero, Nat.div_one] at hm
  refine Encoding.of32 _ _ he (pack_lt _ hf) hm rfl ?_
  rw [major_Copy _ hm]; unfold decodeCopy; rw [show bitsAt (pack _) 24 3 = 4 from pack_get _ hf 4 3 4 24 rfl rfl]
  show some _ = _
  rw [at_pack 7 1 _ hf x rfl rfl, at_pack 12 2 _ hf y rfl rfl, at_pack 18 3 _ hf z rfl rfl, at_pack 27 5 _ hf t rfl rfl]

theorem Encoding.COPYO (x : BitVec 5) (y : BitVec 6) (z : BitVec 6) (t : BitVec 1) : Encoding.Statement (.COPYO x y z t) := by
  have hf : fits [(7, 71), (5, x.toNat), (6, y.toNat), (6, z.toNat), (3, 5), (1, t.toNat), (4, 0)] := ⟨by decide, x.isLt, y.isLt, z.isLt, by decide, t.isLt, by decide, trivial⟩
  have he : encode (.COPYO x y z t) = (32, pack [(7, 71), (5, x.toNat), (6, y.toNat), (6, z.toNat), (3, 5), (1, t.toNat), (4, 0)]) := by
    rw [show encode (.COPYO x y z t) = word 32 83886151 [(7, x.toNat), (12, y.toNat), (18, z.toNat), (27, t.toNat)] from rfl, word_cons, word_cons, word_cons, word_cons, word_nil]; exact congrArg (Prod.mk 32) (by simp only [pack]; omega)
  have hm := pack_get _ hf 0 7 71 0 rfl rfl
  rw [Nat.pow_zero, Nat.div_one] at hm
  refine Encoding.of32 _ _ he (pack_lt _ hf) hm rfl ?_
  rw [major_Copy _ hm]; unfold decodeCopy; rw [show bitsAt (pack _) 24 3 = 5 from pack_get _ hf 4 3 5 24 rfl rfl]
  show some _ = _
  rw [at_pack 7 1 _ hf x rfl rfl, at_pack 12 2 _ hf y rfl rfl, at_pack 18 3 _ hf z rfl rfl, at_pack 27 5 _ hf t rfl rfl]

theorem Encoding.EXPORT (y : BitVec 6) (z : BitVec 6) (t : BitVec 1) : Encoding.Statement (.EXPORT y z t) := by
  have hf : fits [(7, 71), (5, 0), (6, y.toNat), (6, z.toNat), (3, 6), (1, t.toNat), (4, 0)] := ⟨by decide, by decide, y.isLt, z.isLt, by decide, t.isLt, by decide, trivial⟩
  have he : encode (.EXPORT y z t) = (32, pack [(7, 71), (5, 0), (6, y.toNat), (6, z.toNat), (3, 6), (1, t.toNat), (4, 0)]) := by
    rw [show encode (.EXPORT y z t) = word 32 100663367 [(12, y.toNat), (18, z.toNat), (27, t.toNat)] from rfl, word_cons, word_cons, word_cons, word_nil]; exact congrArg (Prod.mk 32) (by simp only [pack]; omega)
  have hm := pack_get _ hf 0 7 71 0 rfl rfl
  rw [Nat.pow_zero, Nat.div_one] at hm
  refine Encoding.of32 _ _ he (pack_lt _ hf) hm rfl ?_
  rw [major_Copy _ hm]; unfold decodeCopy; rw [show bitsAt (pack _) 24 3 = 6 from pack_get _ hf 4 3 6 24 rfl rfl]
  show some _ = _
  rw [at_pack 12 2 _ hf y rfl rfl, at_pack 18 3 _ hf z rfl rfl, at_pack 27 5 _ hf t rfl rfl]

theorem Encoding.SACC (y : BitVec 6) (z : BitVec 6) (o : BitVec 3) : Encoding.Statement (.SACC y z o) := by
  have hf : fits [(7, 73), (5, 0), (6, y.toNat), (6, z.toNat), (3, 0), (3, o.toNat), (2, 0)] := ⟨by decide, by decide, y.isLt, z.isLt, by decide, o.isLt, by decide, trivial⟩
  have he : encode (.SACC y z o) = (32, pack [(7, 73), (5, 0), (6, y.toNat), (6, z.toNat), (3, 0), (3, o.toNat), (2, 0)]) := by
    rw [show encode (.SACC y z o) = word 32 73 [(12, y.toNat), (18, z.toNat), (27, o.toNat)] from rfl, word_cons, word_cons, word_cons, word_nil]; exact congrArg (Prod.mk 32) (by simp only [pack]; omega)
  have hm := pack_get _ hf 0 7 73 0 rfl rfl
  rw [Nat.pow_zero, Nat.div_one] at hm
  refine Encoding.of32 _ _ he (pack_lt _ hf) hm rfl ?_
  rw [major_Swage _ hm]; unfold decodeSwage; rw [show bitsAt (pack _) 24 3 = 0 from pack_get _ hf 4 3 0 24 rfl rfl]
  show some _ = _
  rw [at_pack 12 2 _ hf y rfl rfl, at_pack 18 3 _ hf z rfl rfl, at_pack 27 5 _ hf o rfl rfl]

theorem Encoding.SACCR (f : BitVec 3) (y : BitVec 6) (z : BitVec 6) (o : BitVec 3) : Encoding.Statement (.SACCR f y z o) := by
  have hf : fits [(7, 73), (3, f.toNat), (2, 0), (6, y.toNat), (6, z.toNat), (3, 1), (3, o.toNat), (2, 0)] := ⟨by decide, f.isLt, by decide, y.isLt, z.isLt, by decide, o.isLt, by decide, trivial⟩
  have he : encode (.SACCR f y z o) = (32, pack [(7, 73), (3, f.toNat), (2, 0), (6, y.toNat), (6, z.toNat), (3, 1), (3, o.toNat), (2, 0)]) := by
    rw [show encode (.SACCR f y z o) = word 32 16777289 [(7, f.toNat), (12, y.toNat), (18, z.toNat), (27, o.toNat)] from rfl, word_cons, word_cons, word_cons, word_cons, word_nil]; exact congrArg (Prod.mk 32) (by simp only [pack]; omega)
  have hm := pack_get _ hf 0 7 73 0 rfl rfl
  rw [Nat.pow_zero, Nat.div_one] at hm
  refine Encoding.of32 _ _ he (pack_lt _ hf) hm rfl ?_
  rw [major_Swage _ hm]; unfold decodeSwage; rw [show bitsAt (pack _) 24 3 = 1 from pack_get _ hf 5 3 1 24 rfl rfl]
  show some _ = _
  rw [at_pack 7 1 _ hf f rfl rfl, at_pack 12 3 _ hf y rfl rfl, at_pack 18 4 _ hf z rfl rfl, at_pack 27 6 _ hf o rfl rfl]

theorem Encoding.ROWSM (y : BitVec 6) (z : BitVec 6) : Encoding.Statement (.ROWSM y z) := by
  have hf : fits [(7, 75), (5, 0), (6, y.toNat), (6, z.toNat), (3, 0), (5, 0)] := ⟨by decide, by decide, y.isLt, z.isLt, by decide, by decide, trivial⟩
  have he : encode (.ROWSM y z) = (32, pack [(7, 75), (5, 0), (6, y.toNat), (6, z.toNat), (3, 0), (5, 0)]) := by
    rw [show encode (.ROWSM y z) = word 32 75 [(12, y.toNat), (18, z.toNat)] from rfl, word_cons, word_cons, word_nil]; exact congrArg (Prod.mk 32) (by simp only [pack]; omega)
  have hm := pack_get _ hf 0 7 75 0 rfl rfl
  rw [Nat.pow_zero, Nat.div_one] at hm
  refine Encoding.of32 _ _ he (pack_lt _ hf) hm rfl ?_
  rw [major_RowMajor _ hm]; unfold decodeRowMajor; rw [show bitsAt (pack _) 24 3 = 0 from pack_get _ hf 4 3 0 24 rfl rfl]
  show some _ = _
  rw [at_pack 12 2 _ hf y rfl rfl, at_pack 18 3 _ hf z rfl rfl]

theorem Encoding.ROWNM (x : BitVec 5) (y : BitVec 6) (z : BitVec 6) (e : BitVec 5) : Encoding.Statement (.ROWNM x y z e) := by
  have hf : fits [(7, 75), (5, x.toNat), (6, y.toNat), (6, z.toNat), (3, 1), (5, e.toNat)] := ⟨by decide, x.isLt, y.isLt, z.isLt, by decide, e.isLt, trivial⟩
  have he : encode (.ROWNM x y z e) = (32, pack [(7, 75), (5, x.toNat), (6, y.toNat), (6, z.toNat), (3, 1), (5, e.toNat)]) := by
    rw [show encode (.ROWNM x y z e) = word 32 16777291 [(7, x.toNat), (12, y.toNat), (18, z.toNat), (27, e.toNat)] from rfl, word_cons, word_cons, word_cons, word_cons, word_nil]; exact congrArg (Prod.mk 32) (by simp only [pack]; omega)
  have hm := pack_get _ hf 0 7 75 0 rfl rfl
  rw [Nat.pow_zero, Nat.div_one] at hm
  refine Encoding.of32 _ _ he (pack_lt _ hf) hm rfl ?_
  rw [major_RowMajor _ hm]; unfold decodeRowMajor; rw [show bitsAt (pack _) 24 3 = 1 from pack_get _ hf 4 3 1 24 rfl rfl]
  show some _ = _
  rw [at_pack 7 1 _ hf x rfl rfl, at_pack 12 2 _ hf y rfl rfl, at_pack 18 3 _ hf z rfl rfl, at_pack 27 5 _ hf e rfl rfl]

theorem Encoding.ROWLN (x : BitVec 5) (y : BitVec 6) (z : BitVec 6) (e : BitVec 5) : Encoding.Statement (.ROWLN x y z e) := by
  have hf : fits [(7, 75), (5, x.toNat), (6, y.toNat), (6, z.toNat), (3, 2), (5, e.toNat)] := ⟨by decide, x.isLt, y.isLt, z.isLt, by decide, e.isLt, trivial⟩
  have he : encode (.ROWLN x y z e) = (32, pack [(7, 75), (5, x.toNat), (6, y.toNat), (6, z.toNat), (3, 2), (5, e.toNat)]) := by
    rw [show encode (.ROWLN x y z e) = word 32 33554507 [(7, x.toNat), (12, y.toNat), (18, z.toNat), (27, e.toNat)] from rfl, word_cons, word_cons, word_cons, word_cons, word_nil]; exact congrArg (Prod.mk 32) (by simp only [pack]; omega)
  have hm := pack_get _ hf 0 7 75 0 rfl rfl
  rw [Nat.pow_zero, Nat.div_one] at hm
  refine Encoding.of32 _ _ he (pack_lt _ hf) hm rfl ?_
  rw [major_RowMajor _ hm]; unfold decodeRowMajor; rw [show bitsAt (pack _) 24 3 = 2 from pack_get _ hf 4 3 2 24 rfl rfl]
  show some _ = _
  rw [at_pack 7 1 _ hf x rfl rfl, at_pack 12 2 _ hf y rfl rfl, at_pack 18 3 _ hf z rfl rfl, at_pack 27 5 _ hf e rfl rfl]

theorem Encoding.ROWMX (y : BitVec 6) (z : BitVec 6) : Encoding.Statement (.ROWMX y z) := by
  have hf : fits [(7, 75), (5, 0), (6, y.toNat), (6, z.toNat), (3, 3), (5, 0)] := ⟨by decide, by decide, y.isLt, z.isLt, by decide, by decide, trivial⟩
  have he : encode (.ROWMX y z) = (32, pack [(7, 75), (5, 0), (6, y.toNat), (6, z.toNat), (3, 3), (5, 0)]) := by
    rw [show encode (.ROWMX y z) = word 32 50331723 [(12, y.toNat), (18, z.toNat)] from rfl, word_cons, word_cons, word_nil]; exact congrArg (Prod.mk 32) (by simp only [pack]; omega)
  have hm := pack_get _ hf 0 7 75 0 rfl rfl
  rw [Nat.pow_zero, Nat.div_one] at hm
  refine Encoding.of32 _ _ he (pack_lt _ hf) hm rfl ?_
  rw [major_RowMajor _ hm]; unfold decodeRowMajor; rw [show bitsAt (pack _) 24 3 = 3 from pack_get _ hf 4 3 3 24 rfl rfl]
  show some _ = _
  rw [at_pack 12 2 _ hf y rfl rfl, at_pack 18 3 _ hf z rfl rfl]

theorem Encoding.MMA (t : BitVec 2) (a : BitVec 6) (b : BitVec 6) (m : BitVec 2) (n : BitVec 6) (c : BitVec 1) (s : BitVec 1) : Encoding.Statement (.MMA t a b m n c s) := by
  have hf : fits [(7, 77), (2, t.toNat), (6, a.toNat), (6, b.toNat), (2, m.toNat), (6, n.toNat), (1, c.toNat), (1, s.toNat), (1, 0)] := ⟨by decide, t.isLt, a.isLt, b.isLt, m.isLt, n.isLt, c.isLt, s.isLt, by decide, trivial⟩
  have he : encode (.MMA t a b m n c s) = (32, pack [(7, 77), (2, t.toNat), (6, a.toNat), (6, b.toNat), (2, m.toNat), (6, n.toNat), (1, c.toNat), (1, s.toNat), (1, 0)]) := by
    rw [show encode (.MMA t a b m n c s) = word 32 77 [(7, t.toNat), (9, a.toNat), (15, b.toNat), (21, m.toNat), (23, n.toNat), (29, c.toNat), (30, s.toNat)] from rfl, word_cons, word_cons, word_cons, word_cons, word_cons, word_cons, word_cons, word_nil]; exact congrArg (Prod.mk 32) (by simp only [pack]; omega)
  have hm := pack_get _ hf 0 7 77 0 rfl rfl
  rw [Nat.pow_zero, Nat.div_one] at hm
  refine Encoding.of32 _ _ he (pack_lt _ hf) hm rfl ?_
  unfold decodeRow32; rw [show pack _ % 128 = 77 from hm]
  show some _ = _
  rw [at_pack 7 1 _ hf t rfl rfl, at_pack 9 2 _ hf a rfl rfl, at_pack 15 3 _ hf b rfl rfl, at_pack 21 4 _ hf m rfl rfl, at_pack 23 5 _ hf n rfl rfl, at_pack 29 6 _ hf c rfl rfl, at_pack 30 7 _ hf s rfl rfl]

theorem Encoding.MZERO (t : BitVec 2) (f : BitVec 2) : Encoding.Statement (.MZERO t f) := by
  have hf : fits [(7, 79), (2, t.toNat), (15, 0), (3, 0), (2, f.toNat), (3, 0)] := ⟨by decide, t.isLt, by decide, by decide, f.isLt, by decide, trivial⟩
  have he : encode (.MZERO t f) = (32, pack [(7, 79), (2, t.toNat), (15, 0), (3, 0), (2, f.toNat), (3, 0)]) := by
    rw [show encode (.MZERO t f) = word 32 79 [(7, t.toNat), (27, f.toNat)] from rfl, word_cons, word_cons, word_nil]; exact congrArg (Prod.mk 32) (by simp only [pack]; omega)
  have hm := pack_get _ hf 0 7 79 0 rfl rfl
  rw [Nat.pow_zero, Nat.div_one] at hm
  refine Encoding.of32 _ _ he (pack_lt _ hf) hm rfl ?_
  rw [major_MTile _ hm]; unfold decodeMTile; rw [show bitsAt (pack _) 24 3 = 0 from pack_get _ hf 3 3 0 24 rfl rfl]
  show some _ = _
  rw [at_pack 7 1 _ hf t rfl rfl, at_pack 27 4 _ hf f rfl rfl]

theorem Encoding.MSTORE (t : BitVec 2) (y : BitVec 6) : Encoding.Statement (.MSTORE t y) := by
  have hf : fits [(7, 79), (2, t.toNat), (3, 0), (6, y.toNat), (6, 0), (3, 1), (5, 0)] := ⟨by decide, t.isLt, by decide, y.isLt, by decide, by decide, by decide, trivial⟩
  have he : encode (.MSTORE t y) = (32, pack [(7, 79), (2, t.toNat), (3, 0), (6, y.toNat), (6, 0), (3, 1), (5, 0)]) := by
    rw [show encode (.MSTORE t y) = word 32 16777295 [(7, t.toNat), (12, y.toNat)] from rfl, word_cons, word_cons, word_nil]; exact congrArg (Prod.mk 32) (by simp only [pack]; omega)
  have hm := pack_get _ hf 0 7 79 0 rfl rfl
  rw [Nat.pow_zero, Nat.div_one] at hm
  refine Encoding.of32 _ _ he (pack_lt _ hf) hm rfl ?_
  rw [major_MTile _ hm]; unfold decodeMTile; rw [show bitsAt (pack _) 24 3 = 1 from pack_get _ hf 5 3 1 24 rfl rfl]
  show some _ = _
  rw [at_pack 7 1 _ hf t rfl rfl, at_pack 12 3 _ hf y rfl rfl]

theorem Encoding.MLOAD (t : BitVec 2) (z : BitVec 6) (f : BitVec 2) : Encoding.Statement (.MLOAD t z f) := by
  have hf : fits [(7, 79), (2, t.toNat), (9, 0), (6, z.toNat), (3, 2), (2, f.toNat), (3, 0)] := ⟨by decide, t.isLt, by decide, z.isLt, by decide, f.isLt, by decide, trivial⟩
  have he : encode (.MLOAD t z f) = (32, pack [(7, 79), (2, t.toNat), (9, 0), (6, z.toNat), (3, 2), (2, f.toNat), (3, 0)]) := by
    rw [show encode (.MLOAD t z f) = word 32 33554511 [(7, t.toNat), (18, z.toNat), (27, f.toNat)] from rfl, word_cons, word_cons, word_cons, word_nil]; exact congrArg (Prod.mk 32) (by simp only [pack]; omega)
  have hm := pack_get _ hf 0 7 79 0 rfl rfl
  rw [Nat.pow_zero, Nat.div_one] at hm
  refine Encoding.of32 _ _ he (pack_lt _ hf) hm rfl ?_
  rw [major_MTile _ hm]; unfold decodeMTile; rw [show bitsAt (pack _) 24 3 = 2 from pack_get _ hf 4 3 2 24 rfl rfl]
  show some _ = _
  rw [at_pack 7 1 _ hf t rfl rfl, at_pack 18 3 _ hf z rfl rfl, at_pack 27 5 _ hf f rfl rfl]

theorem Encoding.BAR (a : BitVec 6) : Encoding.Statement (.BAR a) := by
  have hf : fits [(7, 81), (6, 0), (6, a.toNat), (6, 0), (7, 0)] := ⟨by decide, by decide, a.isLt, by decide, by decide, trivial⟩
  have he : encode (.BAR a) = (32, pack [(7, 81), (6, 0), (6, a.toNat), (6, 0), (7, 0)]) := by
    rw [show encode (.BAR a) = word 32 81 [(13, a.toNat)] from rfl, word_cons, word_nil]; exact congrArg (Prod.mk 32) (by simp only [pack]; omega)
  have hm := pack_get _ hf 0 7 81 0 rfl rfl
  rw [Nat.pow_zero, Nat.div_one] at hm
  refine Encoding.of32 _ _ he (pack_lt _ hf) hm rfl ?_
  rw [major_Sync _ hm]; unfold decodeSync; rw [show bitsAt (pack _) 25 7 = 0 from pack_get _ hf 4 7 0 25 rfl rfl]
  show some _ = _
  rw [at_pack 13 2 _ hf a rfl rfl]

theorem Encoding.BARA (a : BitVec 6) : Encoding.Statement (.BARA a) := by
  have hf : fits [(7, 81), (6, 0), (6, a.toNat), (6, 0), (7, 1)] := ⟨by decide, by decide, a.isLt, by decide, by decide, trivial⟩
  have he : encode (.BARA a) = (32, pack [(7, 81), (6, 0), (6, a.toNat), (6, 0), (7, 1)]) := by
    rw [show encode (.BARA a) = word 32 33554513 [(13, a.toNat)] from rfl, word_cons, word_nil]; exact congrArg (Prod.mk 32) (by simp only [pack]; omega)
  have hm := pack_get _ hf 0 7 81 0 rfl rfl
  rw [Nat.pow_zero, Nat.div_one] at hm
  refine Encoding.of32 _ _ he (pack_lt _ hf) hm rfl ?_
  rw [major_Sync _ hm]; unfold decodeSync; rw [show bitsAt (pack _) 25 7 = 1 from pack_get _ hf 4 7 1 25 rfl rfl]
  show some _ = _
  rw [at_pack 13 2 _ hf a rfl rfl]

theorem Encoding.BARW (a : BitVec 6) : Encoding.Statement (.BARW a) := by
  have hf : fits [(7, 81), (6, 0), (6, a.toNat), (6, 0), (7, 2)] := ⟨by decide, by decide, a.isLt, by decide, by decide, trivial⟩
  have he : encode (.BARW a) = (32, pack [(7, 81), (6, 0), (6, a.toNat), (6, 0), (7, 2)]) := by
    rw [show encode (.BARW a) = word 32 67108945 [(13, a.toNat)] from rfl, word_cons, word_nil]; exact congrArg (Prod.mk 32) (by simp only [pack]; omega)
  have hm := pack_get _ hf 0 7 81 0 rfl rfl
  rw [Nat.pow_zero, Nat.div_one] at hm
  refine Encoding.of32 _ _ he (pack_lt _ hf) hm rfl ?_
  rw [major_Sync _ hm]; unfold decodeSync; rw [show bitsAt (pack _) 25 7 = 2 from pack_get _ hf 4 7 2 25 rfl rfl]
  show some _ = _
  rw [at_pack 13 2 _ hf a rfl rfl]

theorem Encoding.BARX (a : BitVec 6) : Encoding.Statement (.BARX a) := by
  have hf : fits [(7, 81), (6, 0), (6, a.toNat), (6, 0), (7, 3)] := ⟨by decide, by decide, a.isLt, by decide, by decide, trivial⟩
  have he : encode (.BARX a) = (32, pack [(7, 81), (6, 0), (6, a.toNat), (6, 0), (7, 3)]) := by
    rw [show encode (.BARX a) = word 32 100663377 [(13, a.toNat)] from rfl, word_cons, word_nil]; exact congrArg (Prod.mk 32) (by simp only [pack]; omega)
  have hm := pack_get _ hf 0 7 81 0 rfl rfl
  rw [Nat.pow_zero, Nat.div_one] at hm
  refine Encoding.of32 _ _ he (pack_lt _ hf) hm rfl ?_
  rw [major_Sync _ hm]; unfold decodeSync; rw [show bitsAt (pack _) 25 7 = 3 from pack_get _ hf 4 7 3 25 rfl rfl]
  show some _ = _
  rw [at_pack 13 2 _ hf a rfl rfl]

theorem Encoding.DEPDEC (a : BitVec 6) : Encoding.Statement (.DEPDEC a) := by
  have hf : fits [(7, 81), (6, 0), (6, a.toNat), (6, 0), (7, 4)] := ⟨by decide, by decide, a.isLt, by decide, by decide, trivial⟩
  have he : encode (.DEPDEC a) = (32, pack [(7, 81), (6, 0), (6, a.toNat), (6, 0), (7, 4)]) := by
    rw [show encode (.DEPDEC a) = word 32 134217809 [(13, a.toNat)] from rfl, word_cons, word_nil]; exact congrArg (Prod.mk 32) (by simp only [pack]; omega)
  have hm := pack_get _ hf 0 7 81 0 rfl rfl
  rw [Nat.pow_zero, Nat.div_one] at hm
  refine Encoding.of32 _ _ he (pack_lt _ hf) hm rfl ?_
  rw [major_Sync _ hm]; unfold decodeSync; rw [show bitsAt (pack _) 25 7 = 4 from pack_get _ hf 4 7 4 25 rfl rfl]
  show some _ = _
  rw [at_pack 13 2 _ hf a rfl rfl]

theorem Encoding.SPAWN (a : BitVec 6) : Encoding.Statement (.SPAWN a) := by
  have hf : fits [(7, 81), (6, 0), (6, a.toNat), (6, 0), (7, 5)] := ⟨by decide, by decide, a.isLt, by decide, by decide, trivial⟩
  have he : encode (.SPAWN a) = (32, pack [(7, 81), (6, 0), (6, a.toNat), (6, 0), (7, 5)]) := by
    rw [show encode (.SPAWN a) = word 32 167772241 [(13, a.toNat)] from rfl, word_cons, word_nil]; exact congrArg (Prod.mk 32) (by simp only [pack]; omega)
  have hm := pack_get _ hf 0 7 81 0 rfl rfl
  rw [Nat.pow_zero, Nat.div_one] at hm
  refine Encoding.of32 _ _ he (pack_lt _ hf) hm rfl ?_
  rw [major_Sync _ hm]; unfold decodeSync; rw [show bitsAt (pack _) 25 7 = 5 from pack_get _ hf 4 7 5 25 rfl rfl]
  show some _ = _
  rw [at_pack 13 2 _ hf a rfl rfl]

theorem Encoding.SPATCH (a : BitVec 6) (b : BitVec 6) : Encoding.Statement (.SPATCH a b) := by
  have hf : fits [(7, 81), (6, 0), (6, a.toNat), (6, b.toNat), (7, 6)] := ⟨by decide, by decide, a.isLt, b.isLt, by decide, trivial⟩
  have he : encode (.SPATCH a b) = (32, pack [(7, 81), (6, 0), (6, a.toNat), (6, b.toNat), (7, 6)]) := by
    rw [show encode (.SPATCH a b) = word 32 201326673 [(13, a.toNat), (19, b.toNat)] from rfl, word_cons, word_cons, word_nil]; exact congrArg (Prod.mk 32) (by simp only [pack]; omega)
  have hm := pack_get _ hf 0 7 81 0 rfl rfl
  rw [Nat.pow_zero, Nat.div_one] at hm
  refine Encoding.of32 _ _ he (pack_lt _ hf) hm rfl ?_
  rw [major_Sync _ hm]; unfold decodeSync; rw [show bitsAt (pack _) 25 7 = 6 from pack_get _ hf 4 7 6 25 rfl rfl]
  show some _ = _
  rw [at_pack 13 2 _ hf a rfl rfl, at_pack 19 3 _ hf b rfl rfl]

theorem Encoding.PWRQ (a : BitVec 6) : Encoding.Statement (.PWRQ a) := by
  have hf : fits [(7, 83), (6, 0), (6, a.toNat), (6, 0), (7, 0)] := ⟨by decide, by decide, a.isLt, by decide, by decide, trivial⟩
  have he : encode (.PWRQ a) = (32, pack [(7, 83), (6, 0), (6, a.toNat), (6, 0), (7, 0)]) := by
    rw [show encode (.PWRQ a) = word 32 83 [(13, a.toNat)] from rfl, word_cons, word_nil]; exact congrArg (Prod.mk 32) (by simp only [pack]; omega)
  have hm := pack_get _ hf 0 7 83 0 rfl rfl
  rw [Nat.pow_zero, Nat.div_one] at hm
  refine Encoding.of32 _ _ he (pack_lt _ hf) hm rfl ?_
  rw [major_Pwr _ hm]; unfold decodePwr; rw [show bitsAt (pack _) 25 7 = 0 from pack_get _ hf 4 7 0 25 rfl rfl]
  show some _ = _
  rw [at_pack 13 2 _ hf a rfl rfl]

theorem Encoding.PWRL : Encoding.Statement (.PWRL) := by
  have hf : fits [(7, 83), (18, 0), (7, 1)] := ⟨by decide, by decide, by decide, trivial⟩
  have he : encode (.PWRL) = (32, pack [(7, 83), (18, 0), (7, 1)]) := by
    rw [show encode (.PWRL) = word 32 33554515 [] from rfl, word_nil]; exact congrArg (Prod.mk 32) (rfl)
  have hm := pack_get _ hf 0 7 83 0 rfl rfl
  rw [Nat.pow_zero, Nat.div_one] at hm
  refine Encoding.of32 _ _ he (pack_lt _ hf) hm rfl ?_
  rw [major_Pwr _ hm]; unfold decodePwr; rw [show bitsAt (pack _) 25 7 = 1 from pack_get _ hf 2 7 1 25 rfl rfl]; rfl

theorem Encoding.PWRG (d : BitVec 6) : Encoding.Statement (.PWRG d) := by
  have hf : fits [(7, 83), (6, d.toNat), (12, 0), (7, 2)] := ⟨by decide, d.isLt, by decide, by decide, trivial⟩
  have he : encode (.PWRG d) = (32, pack [(7, 83), (6, d.toNat), (12, 0), (7, 2)]) := by
    rw [show encode (.PWRG d) = word 32 67108947 [(7, d.toNat)] from rfl, word_cons, word_nil]; exact congrArg (Prod.mk 32) (by simp only [pack]; omega)
  have hm := pack_get _ hf 0 7 83 0 rfl rfl
  rw [Nat.pow_zero, Nat.div_one] at hm
  refine Encoding.of32 _ _ he (pack_lt _ hf) hm rfl ?_
  rw [major_Pwr _ hm]; unfold decodePwr; rw [show bitsAt (pack _) 25 7 = 2 from pack_get _ hf 3 7 2 25 rfl rfl]
  show some _ = _
  rw [at_pack 7 1 _ hf d rfl rfl]

theorem Encoding.LXFER (b : BitVec 4) (z : BitVec 6) (p : BitVec 4) : Encoding.Statement (.LXFER b z p) := by
  have hf : fits [(7, 85), (4, b.toNat), (7, 1), (6, z.toNat), (3, 0), (4, p.toNat), (1, 0)] := ⟨by decide, b.isLt, by decide, z.isLt, by decide, p.isLt, by decide, trivial⟩
  have he : encode (.LXFER b z p) = (32, pack [(7, 85), (4, b.toNat), (7, 1), (6, z.toNat), (3, 0), (4, p.toNat), (1, 0)]) := by
    rw [show encode (.LXFER b z p) = word 32 2133 [(7, b.toNat), (18, z.toNat), (27, p.toNat)] from rfl, word_cons, word_cons, word_cons, word_nil]; exact congrArg (Prod.mk 32) (by simp only [pack]; omega)
  have hm := pack_get _ hf 0 7 85 0 rfl rfl
  rw [Nat.pow_zero, Nat.div_one] at hm
  refine Encoding.of32 _ _ he (pack_lt _ hf) hm rfl ?_
  rw [major_Link _ hm]; unfold decodeLink; rw [show bitsAt (pack _) 24 3 = 0 from pack_get _ hf 4 3 0 24 rfl rfl]
  show some _ = _
  rw [at_pack 7 1 _ hf b rfl rfl, at_pack 18 3 _ hf z rfl rfl, at_pack 27 5 _ hf p rfl rfl]

theorem Encoding.LRECV (b : BitVec 4) (y : BitVec 6) (p : BitVec 4) : Encoding.Statement (.LRECV b y p) := by
  have hf : fits [(7, 85), (4, b.toNat), (1, 1), (6, y.toNat), (6, 0), (3, 1), (4, p.toNat), (1, 0)] := ⟨by decide, b.isLt, by decide, y.isLt, by decide, by decide, p.isLt, by decide, trivial⟩
  have he : encode (.LRECV b y p) = (32, pack [(7, 85), (4, b.toNat), (1, 1), (6, y.toNat), (6, 0), (3, 1), (4, p.toNat), (1, 0)]) := by
    rw [show encode (.LRECV b y p) = word 32 16779349 [(7, b.toNat), (12, y.toNat), (27, p.toNat)] from rfl, word_cons, word_cons, word_cons, word_nil]; exact congrArg (Prod.mk 32) (by simp only [pack]; omega)
  have hm := pack_get _ hf 0 7 85 0 rfl rfl
  rw [Nat.pow_zero, Nat.div_one] at hm
  refine Encoding.of32 _ _ he (pack_lt _ hf) hm rfl ?_
  rw [major_Link _ hm]; unfold decodeLink; rw [show bitsAt (pack _) 24 3 = 1 from pack_get _ hf 5 3 1 24 rfl rfl]
  show some _ = _
  rw [at_pack 7 1 _ hf b rfl rfl, at_pack 12 3 _ hf y rfl rfl, at_pack 27 6 _ hf p rfl rfl]

theorem Encoding.LRED (b : BitVec 4) (y : BitVec 6) (z : BitVec 6) (p : BitVec 4) : Encoding.Statement (.LRED b y z p) := by
  have hf : fits [(7, 85), (4, b.toNat), (1, 1), (6, y.toNat), (6, z.toNat), (3, 2), (4, p.toNat), (1, 0)] := ⟨by decide, b.isLt, by decide, y.isLt, z.isLt, by decide, p.isLt, by decide, trivial⟩
  have he : encode (.LRED b y z p) = (32, pack [(7, 85), (4, b.toNat), (1, 1), (6, y.toNat), (6, z.toNat), (3, 2), (4, p.toNat), (1, 0)]) := by
    rw [show encode (.LRED b y z p) = word 32 33556565 [(7, b.toNat), (12, y.toNat), (18, z.toNat), (27, p.toNat)] from rfl, word_cons, word_cons, word_cons, word_cons, word_nil]; exact congrArg (Prod.mk 32) (by simp only [pack]; omega)
  have hm := pack_get _ hf 0 7 85 0 rfl rfl
  rw [Nat.pow_zero, Nat.div_one] at hm
  refine Encoding.of32 _ _ he (pack_lt _ hf) hm rfl ?_
  rw [major_Link _ hm]; unfold decodeLink; rw [show bitsAt (pack _) 24 3 = 2 from pack_get _ hf 5 3 2 24 rfl rfl]
  show some _ = _
  rw [at_pack 7 1 _ hf b rfl rfl, at_pack 12 3 _ hf y rfl rfl, at_pack 18 4 _ hf z rfl rfl, at_pack 27 6 _ hf p rfl rfl]

theorem Encoding.LTOPK (b : BitVec 4) (y : BitVec 6) (z : BitVec 6) (p : BitVec 4) : Encoding.Statement (.LTOPK b y z p) := by
  have hf : fits [(7, 85), (4, b.toNat), (1, 1), (6, y.toNat), (6, z.toNat), (3, 3), (4, p.toNat), (1, 0)] := ⟨by decide, b.isLt, by decide, y.isLt, z.isLt, by decide, p.isLt, by decide, trivial⟩
  have he : encode (.LTOPK b y z p) = (32, pack [(7, 85), (4, b.toNat), (1, 1), (6, y.toNat), (6, z.toNat), (3, 3), (4, p.toNat), (1, 0)]) := by
    rw [show encode (.LTOPK b y z p) = word 32 50333781 [(7, b.toNat), (12, y.toNat), (18, z.toNat), (27, p.toNat)] from rfl, word_cons, word_cons, word_cons, word_cons, word_nil]; exact congrArg (Prod.mk 32) (by simp only [pack]; omega)
  have hm := pack_get _ hf 0 7 85 0 rfl rfl
  rw [Nat.pow_zero, Nat.div_one] at hm
  refine Encoding.of32 _ _ he (pack_lt _ hf) hm rfl ?_
  rw [major_Link _ hm]; unfold decodeLink; rw [show bitsAt (pack _) 24 3 = 3 from pack_get _ hf 5 3 3 24 rfl rfl]
  show some _ = _
  rw [at_pack 7 1 _ hf b rfl rfl, at_pack 12 3 _ hf y rfl rfl, at_pack 18 4 _ hf z rfl rfl, at_pack 27 6 _ hf p rfl rfl]

theorem Encoding.STAMP (n : BitVec 24) : Encoding.Statement (.STAMP n) := by
  have hf : fits [(7, 87), (24, n.toNat), (1, 0)] := ⟨by decide, n.isLt, by decide, trivial⟩
  have he : encode (.STAMP n) = (32, pack [(7, 87), (24, n.toNat), (1, 0)]) := by
    rw [show encode (.STAMP n) = word 32 87 [(7, n.toNat)] from rfl, word_cons, word_nil]; exact congrArg (Prod.mk 32) (by simp only [pack]; omega)
  have hm := pack_get _ hf 0 7 87 0 rfl rfl
  rw [Nat.pow_zero, Nat.div_one] at hm
  refine Encoding.of32 _ _ he (pack_lt _ hf) hm rfl ?_
  unfold decodeRow32; rw [show pack _ % 128 = 87 from hm]
  show some _ = _
  rw [at_pack 7 1 _ hf n rfl rfl]

theorem Encoding.C_CLS (c : BitVec 4) (a : BitVec 1) (r : BitVec 1) (s : BitVec 3) : Encoding.Statement (.C_CLS c a r s) := by
  have hf : fits [(5, 0), (4, c.toNat), (1, a.toNat), (1, r.toNat), (3, s.toNat), (2, 0)] := ⟨by decide, c.isLt, a.isLt, r.isLt, s.isLt, by decide, trivial⟩
  have he : encode (.C_CLS c a r s) = (16, pack [(5, 0), (4, c.toNat), (1, a.toNat), (1, r.toNat), (3, s.toNat), (2, 0)]) := by
    rw [show encode (.C_CLS c a r s) = word 16 0 [(5, c.toNat), (9, a.toNat), (10, r.toNat), (11, s.toNat)] from rfl, word_cons, word_cons, word_cons, word_cons, word_nil]; exact congrArg (Prod.mk 16) (by simp only [pack]; omega)
  have hm := pack_get _ hf 0 5 0 0 rfl rfl
  rw [Nat.pow_zero, Nat.div_one] at hm
  refine Encoding.of16 _ _ he (pack_lt _ hf) hm rfl ?_
  unfold decodeRow16; rw [show pack _ % 32 = 0 from hm]
  show some _ = _
  rw [at_pack 5 1 _ hf c rfl rfl, at_pack 9 2 _ hf a rfl rfl, at_pack 10 3 _ hf r rfl rfl, at_pack 11 4 _ hf s rfl rfl]

theorem Encoding.C_ADDI (d : BitVec 5) (i : BitVec 6) : Encoding.Statement (.C_ADDI d i) := by
  have hf : fits [(5, 2), (5, d.toNat), (6, i.toNat)] := ⟨by decide, d.isLt, i.isLt, trivial⟩
  have he : encode (.C_ADDI d i) = (16, pack [(5, 2), (5, d.toNat), (6, i.toNat)]) := by
    rw [show encode (.C_ADDI d i) = word 16 2 [(5, d.toNat), (10, i.toNat)] from rfl, word_cons, word_cons, word_nil]; exact congrArg (Prod.mk 16) (by simp only [pack]; omega)
  have hm := pack_get _ hf 0 5 2 0 rfl rfl
  rw [Nat.pow_zero, Nat.div_one] at hm
  refine Encoding.of16 _ _ he (pack_lt _ hf) hm rfl ?_
  unfold decodeRow16; rw [show pack _ % 32 = 2 from hm]
  show some _ = _
  rw [at_pack 5 1 _ hf d rfl rfl, at_pack 10 2 _ hf i rfl rfl]

theorem Encoding.C_ADD (d : BitVec 5) (a : BitVec 6) : Encoding.Statement (.C_ADD d a) := by
  have hf : fits [(5, 4), (5, d.toNat), (6, a.toNat)] := ⟨by decide, d.isLt, a.isLt, trivial⟩
  have he : encode (.C_ADD d a) = (16, pack [(5, 4), (5, d.toNat), (6, a.toNat)]) := by
    rw [show encode (.C_ADD d a) = word 16 4 [(5, d.toNat), (10, a.toNat)] from rfl, word_cons, word_cons, word_nil]; exact congrArg (Prod.mk 16) (by simp only [pack]; omega)
  have hm := pack_get _ hf 0 5 4 0 rfl rfl
  rw [Nat.pow_zero, Nat.div_one] at hm
  refine Encoding.of16 _ _ he (pack_lt _ hf) hm rfl ?_
  unfold decodeRow16; rw [show pack _ % 32 = 4 from hm]
  show some _ = _
  rw [at_pack 5 1 _ hf d rfl rfl, at_pack 10 2 _ hf a rfl rfl]

theorem Encoding.C_MV (d : BitVec 5) (a : BitVec 6) : Encoding.Statement (.C_MV d a) := by
  have hf : fits [(5, 6), (5, d.toNat), (6, a.toNat)] := ⟨by decide, d.isLt, a.isLt, trivial⟩
  have he : encode (.C_MV d a) = (16, pack [(5, 6), (5, d.toNat), (6, a.toNat)]) := by
    rw [show encode (.C_MV d a) = word 16 6 [(5, d.toNat), (10, a.toNat)] from rfl, word_cons, word_cons, word_nil]; exact congrArg (Prod.mk 16) (by simp only [pack]; omega)
  have hm := pack_get _ hf 0 5 6 0 rfl rfl
  rw [Nat.pow_zero, Nat.div_one] at hm
  refine Encoding.of16 _ _ he (pack_lt _ hf) hm rfl ?_
  unfold decodeRow16; rw [show pack _ % 32 = 6 from hm]
  show some _ = _
  rw [at_pack 5 1 _ hf d rfl rfl, at_pack 10 2 _ hf a rfl rfl]

theorem Encoding.C_LI (d : BitVec 5) (i : BitVec 6) : Encoding.Statement (.C_LI d i) := by
  have hf : fits [(5, 8), (5, d.toNat), (6, i.toNat)] := ⟨by decide, d.isLt, i.isLt, trivial⟩
  have he : encode (.C_LI d i) = (16, pack [(5, 8), (5, d.toNat), (6, i.toNat)]) := by
    rw [show encode (.C_LI d i) = word 16 8 [(5, d.toNat), (10, i.toNat)] from rfl, word_cons, word_cons, word_nil]; exact congrArg (Prod.mk 16) (by simp only [pack]; omega)
  have hm := pack_get _ hf 0 5 8 0 rfl rfl
  rw [Nat.pow_zero, Nat.div_one] at hm
  refine Encoding.of16 _ _ he (pack_lt _ hf) hm rfl ?_
  unfold decodeRow16; rw [show pack _ % 32 = 8 from hm]
  show some _ = _
  rw [at_pack 5 1 _ hf d rfl rfl, at_pack 10 2 _ hf i rfl rfl]

theorem Encoding.C_BZ (a : BitVec 5) (o : BitVec 6) : Encoding.Statement (.C_BZ a o) := by
  have hf : fits [(5, 10), (5, a.toNat), (6, o.toNat)] := ⟨by decide, a.isLt, o.isLt, trivial⟩
  have he : encode (.C_BZ a o) = (16, pack [(5, 10), (5, a.toNat), (6, o.toNat)]) := by
    rw [show encode (.C_BZ a o) = word 16 10 [(5, a.toNat), (10, o.toNat)] from rfl, word_cons, word_cons, word_nil]; exact congrArg (Prod.mk 16) (by simp only [pack]; omega)
  have hm := pack_get _ hf 0 5 10 0 rfl rfl
  rw [Nat.pow_zero, Nat.div_one] at hm
  refine Encoding.of16 _ _ he (pack_lt _ hf) hm rfl ?_
  unfold decodeRow16; rw [show pack _ % 32 = 10 from hm]
  show some _ = _
  rw [at_pack 5 1 _ hf a rfl rfl, at_pack 10 2 _ hf o rfl rfl]

theorem Encoding.C_BNZ (a : BitVec 5) (o : BitVec 6) : Encoding.Statement (.C_BNZ a o) := by
  have hf : fits [(5, 12), (5, a.toNat), (6, o.toNat)] := ⟨by decide, a.isLt, o.isLt, trivial⟩
  have he : encode (.C_BNZ a o) = (16, pack [(5, 12), (5, a.toNat), (6, o.toNat)]) := by
    rw [show encode (.C_BNZ a o) = word 16 12 [(5, a.toNat), (10, o.toNat)] from rfl, word_cons, word_cons, word_nil]; exact congrArg (Prod.mk 16) (by simp only [pack]; omega)
  have hm := pack_get _ hf 0 5 12 0 rfl rfl
  rw [Nat.pow_zero, Nat.div_one] at hm
  refine Encoding.of16 _ _ he (pack_lt _ hf) hm rfl ?_
  unfold decodeRow16; rw [show pack _ % 32 = 12 from hm]
  show some _ = _
  rw [at_pack 5 1 _ hf a rfl rfl, at_pack 10 2 _ hf o rfl rfl]

theorem Encoding.C_J (o : BitVec 11) : Encoding.Statement (.C_J o) := by
  have hf : fits [(5, 14), (11, o.toNat)] := ⟨by decide, o.isLt, trivial⟩
  have he : encode (.C_J o) = (16, pack [(5, 14), (11, o.toNat)]) := by
    rw [show encode (.C_J o) = word 16 14 [(5, o.toNat)] from rfl, word_cons, word_nil]; exact congrArg (Prod.mk 16) (by simp only [pack]; omega)
  have hm := pack_get _ hf 0 5 14 0 rfl rfl
  rw [Nat.pow_zero, Nat.div_one] at hm
  refine Encoding.of16 _ _ he (pack_lt _ hf) hm rfl ?_
  unfold decodeRow16; rw [show pack _ % 32 = 14 from hm]
  show some _ = _
  rw [at_pack 5 1 _ hf o rfl rfl]

theorem Encoding.C_LDD (d : BitVec 5) (b : BitVec 3) (o : BitVec 3) : Encoding.Statement (.C_LDD d b o) := by
  have hf : fits [(5, 16), (5, d.toNat), (3, b.toNat), (3, o.toNat)] := ⟨by decide, d.isLt, b.isLt, o.isLt, trivial⟩
  have he : encode (.C_LDD d b o) = (16, pack [(5, 16), (5, d.toNat), (3, b.toNat), (3, o.toNat)]) := by
    rw [show encode (.C_LDD d b o) = word 16 16 [(5, d.toNat), (10, b.toNat), (13, o.toNat)] from rfl, word_cons, word_cons, word_cons, word_nil]; exact congrArg (Prod.mk 16) (by simp only [pack]; omega)
  have hm := pack_get _ hf 0 5 16 0 rfl rfl
  rw [Nat.pow_zero, Nat.div_one] at hm
  refine Encoding.of16 _ _ he (pack_lt _ hf) hm rfl ?_
  unfold decodeRow16; rw [show pack _ % 32 = 16 from hm]
  show some _ = _
  rw [at_pack 5 1 _ hf d rfl rfl, at_pack 10 2 _ hf b rfl rfl, at_pack 13 3 _ hf o rfl rfl]

theorem Encoding.C_STD (t : BitVec 5) (b : BitVec 3) (o : BitVec 3) : Encoding.Statement (.C_STD t b o) := by
  have hf : fits [(5, 18), (5, t.toNat), (3, b.toNat), (3, o.toNat)] := ⟨by decide, t.isLt, b.isLt, o.isLt, trivial⟩
  have he : encode (.C_STD t b o) = (16, pack [(5, 18), (5, t.toNat), (3, b.toNat), (3, o.toNat)]) := by
    rw [show encode (.C_STD t b o) = word 16 18 [(5, t.toNat), (10, b.toNat), (13, o.toNat)] from rfl, word_cons, word_cons, word_cons, word_nil]; exact congrArg (Prod.mk 16) (by simp only [pack]; omega)
  have hm := pack_get _ hf 0 5 18 0 rfl rfl
  rw [Nat.pow_zero, Nat.div_one] at hm
  refine Encoding.of16 _ _ he (pack_lt _ hf) hm rfl ?_
  unfold decodeRow16; rw [show pack _ % 32 = 18 from hm]
  show some _ = _
  rw [at_pack 5 1 _ hf t rfl rfl, at_pack 10 2 _ hf b rfl rfl, at_pack 13 3 _ hf o rfl rfl]

theorem Encoding.C_WAIT (c : BitVec 5) (t : BitVec 6) : Encoding.Statement (.C_WAIT c t) := by
  have hf : fits [(5, 20), (5, c.toNat), (6, t.toNat)] := ⟨by decide, c.isLt, t.isLt, trivial⟩
  have he : encode (.C_WAIT c t) = (16, pack [(5, 20), (5, c.toNat), (6, t.toNat)]) := by
    rw [show encode (.C_WAIT c t) = word 16 20 [(5, c.toNat), (10, t.toNat)] from rfl, word_cons, word_cons, word_nil]; exact congrArg (Prod.mk 16) (by simp only [pack]; omega)
  have hm := pack_get _ hf 0 5 20 0 rfl rfl
  rw [Nat.pow_zero, Nat.div_one] at hm
  refine Encoding.of16 _ _ he (pack_lt _ hf) hm rfl ?_
  unfold decodeRow16; rw [show pack _ % 32 = 20 from hm]
  show some _ = _
  rw [at_pack 5 1 _ hf c rfl rfl, at_pack 10 2 _ hf t rfl rfl]

theorem Encoding.C_SHLI (d : BitVec 5) (s : BitVec 6) : Encoding.Statement (.C_SHLI d s) := by
  have hf : fits [(5, 22), (5, d.toNat), (6, s.toNat)] := ⟨by decide, d.isLt, s.isLt, trivial⟩
  have he : encode (.C_SHLI d s) = (16, pack [(5, 22), (5, d.toNat), (6, s.toNat)]) := by
    rw [show encode (.C_SHLI d s) = word 16 22 [(5, d.toNat), (10, s.toNat)] from rfl, word_cons, word_cons, word_nil]; exact congrArg (Prod.mk 16) (by simp only [pack]; omega)
  have hm := pack_get _ hf 0 5 22 0 rfl rfl
  rw [Nat.pow_zero, Nat.div_one] at hm
  refine Encoding.of16 _ _ he (pack_lt _ hf) hm rfl ?_
  unfold decodeRow16; rw [show pack _ % 32 = 22 from hm]
  show some _ = _
  rw [at_pack 5 1 _ hf d rfl rfl, at_pack 10 2 _ hf s rfl rfl]

theorem Encoding.C_SUB (d : BitVec 5) (a : BitVec 6) : Encoding.Statement (.C_SUB d a) := by
  have hf : fits [(5, 24), (5, d.toNat), (6, a.toNat)] := ⟨by decide, d.isLt, a.isLt, trivial⟩
  have he : encode (.C_SUB d a) = (16, pack [(5, 24), (5, d.toNat), (6, a.toNat)]) := by
    rw [show encode (.C_SUB d a) = word 16 24 [(5, d.toNat), (10, a.toNat)] from rfl, word_cons, word_cons, word_nil]; exact congrArg (Prod.mk 16) (by simp only [pack]; omega)
  have hm := pack_get _ hf 0 5 24 0 rfl rfl
  rw [Nat.pow_zero, Nat.div_one] at hm
  refine Encoding.of16 _ _ he (pack_lt _ hf) hm rfl ?_
  unfold decodeRow16; rw [show pack _ % 32 = 24 from hm]
  show some _ = _
  rw [at_pack 5 1 _ hf d rfl rfl, at_pack 10 2 _ hf a rfl rfl]

theorem Encoding.C_AND (d : BitVec 5) (a : BitVec 6) : Encoding.Statement (.C_AND d a) := by
  have hf : fits [(5, 26), (5, d.toNat), (6, a.toNat)] := ⟨by decide, d.isLt, a.isLt, trivial⟩
  have he : encode (.C_AND d a) = (16, pack [(5, 26), (5, d.toNat), (6, a.toNat)]) := by
    rw [show encode (.C_AND d a) = word 16 26 [(5, d.toNat), (10, a.toNat)] from rfl, word_cons, word_cons, word_nil]; exact congrArg (Prod.mk 16) (by simp only [pack]; omega)
  have hm := pack_get _ hf 0 5 26 0 rfl rfl
  rw [Nat.pow_zero, Nat.div_one] at hm
  refine Encoding.of16 _ _ he (pack_lt _ hf) hm rfl ?_
  unfold decodeRow16; rw [show pack _ % 32 = 26 from hm]
  show some _ = _
  rw [at_pack 5 1 _ hf d rfl rfl, at_pack 10 2 _ hf a rfl rfl]

theorem Encoding.C_NOP : Encoding.Statement (.C_NOP) := by
  have hf : fits [(5, 28), (1, 0), (10, 0)] := ⟨by decide, by decide, by decide, trivial⟩
  have he : encode (.C_NOP) = (16, pack [(5, 28), (1, 0), (10, 0)]) := by
    rw [show encode (.C_NOP) = word 16 28 [] from rfl, word_nil]; exact congrArg (Prod.mk 16) (rfl)
  have hm := pack_get _ hf 0 5 28 0 rfl rfl
  rw [Nat.pow_zero, Nat.div_one] at hm
  refine Encoding.of16 _ _ he (pack_lt _ hf) hm rfl ?_
  unfold decodeRow16; rw [show pack _ % 32 = 28 from hm]; rfl

theorem Encoding.C_BRK : Encoding.Statement (.C_BRK) := by
  have hf : fits [(5, 28), (1, 1), (10, 0)] := ⟨by decide, by decide, by decide, trivial⟩
  have he : encode (.C_BRK) = (16, pack [(5, 28), (1, 1), (10, 0)]) := by
    rw [show encode (.C_BRK) = word 16 60 [] from rfl, word_nil]; exact congrArg (Prod.mk 16) (rfl)
  have hm := pack_get _ hf 0 5 28 0 rfl rfl
  rw [Nat.pow_zero, Nat.div_one] at hm
  refine Encoding.of16 _ _ he (pack_lt _ hf) hm rfl ?_
  unfold decodeRow16; rw [show pack _ % 32 = 28 from hm]; rfl

theorem Encoding.ANNULLED_POSITION (c : CoreId) : Encoding.Statement (.ANNULLED_POSITION c) := .inl rfl

theorem Encoding.RESULT_LANDING (c : CoreId) (id : Nat) : Encoding.Statement (.RESULT_LANDING c id) := .inl rfl

theorem Encoding.VECTOR_OCCUPANCY_END (c : CoreId) : Encoding.Statement (.VECTOR_OCCUPANCY_END c) := .inl rfl

theorem Encoding.ISSUE_STALL_RELEASE (c : CoreId) : Encoding.Statement (.ISSUE_STALL_RELEASE c) := .inl rfl

theorem Encoding.WAIT_CONDITION_MET (c : CoreId) : Encoding.Statement (.WAIT_CONDITION_MET c) := .inl rfl

theorem Encoding.WAITV_READ (c : CoreId) (e : Ecc) : Encoding.Statement (.WAITV_READ c e) := .inl rfl

theorem Encoding.EXPOSED_STORE_WRITE (c : CoreId) (id : Nat) : Encoding.Statement (.EXPOSED_STORE_WRITE c id) := .inl rfl

theorem Encoding.WRITE_HOLD_DRAIN (c : CoreId) (bank : Fin 32) : Encoding.Statement (.WRITE_HOLD_DRAIN c bank) := .inl rfl

theorem Encoding.LANDING_ENTRY_REPLAY (c : CoreId) (slot : Fin 8) : Encoding.Statement (.LANDING_ENTRY_REPLAY c slot) := .inl rfl

theorem Encoding.EMBER_READ_RETURN (c : CoreId) (id : Nat) (e : Ecc) : Encoding.Statement (.EMBER_READ_RETURN c id e) := .inl rfl

theorem Encoding.STORE_ACCEPT (c : CoreId) : Encoding.Statement (.STORE_ACCEPT c) := .inl rfl

theorem Encoding.COMMIT_LINE (c : CoreId) : Encoding.Statement (.COMMIT_LINE c) := .inl rfl

theorem Encoding.WALK_COMPLETE (c : CoreId) (id : Nat) : Encoding.Statement (.WALK_COMPLETE c id) := .inl rfl

theorem Encoding.ENGINE_COMMAND_HEAD (c : CoreId) (e : EngId) : Encoding.Statement (.ENGINE_COMMAND_HEAD c e) := .inl rfl

theorem Encoding.ENGINE_COMMAND_COMPLETE (c : CoreId) (e : EngId) : Encoding.Statement (.ENGINE_COMMAND_COMPLETE c e) := .inl rfl

theorem Encoding.TONGS_LINE_WRITE (c : CoreId) (u : Fin 2) : Encoding.Statement (.TONGS_LINE_WRITE c u) := .inl rfl

theorem Encoding.FEED_ELEMENT_ENTRY (c : CoreId) (f : Fin 8) : Encoding.Statement (.FEED_ELEMENT_ENTRY c f) := .inl rfl

theorem Encoding.SWAGE_RMW (c : CoreId) : Encoding.Statement (.SWAGE_RMW c) := .inl rfl

theorem Encoding.TEMPER_LOAD (c : CoreId) : Encoding.Statement (.TEMPER_LOAD c) := .inl rfl

theorem Encoding.TEMPER_PHASE (c : CoreId) : Encoding.Statement (.TEMPER_PHASE c) := .inl rfl

theorem Encoding.TEMPER_ROW_WRITE (c : CoreId) : Encoding.Statement (.TEMPER_ROW_WRITE c) := .inl rfl

theorem Encoding.CRUCIBLE_FILL_START (c : CoreId) : Encoding.Statement (.CRUCIBLE_FILL_START c) := .inl rfl

theorem Encoding.CRUCIBLE_FILL_COMPLETE (c : CoreId) : Encoding.Statement (.CRUCIBLE_FILL_COMPLETE c) := .inl rfl

theorem Encoding.EBX_BLOCK_BUILD (c : CoreId) : Encoding.Statement (.EBX_BLOCK_BUILD c) := .inl rfl

theorem Encoding.EBX_BLOCK_DECODE (c : CoreId) : Encoding.Statement (.EBX_BLOCK_DECODE c) := .inl rfl

theorem Encoding.EBX_BLOCK_CHECK (c : CoreId) : Encoding.Statement (.EBX_BLOCK_CHECK c) := .inl rfl

theorem Encoding.CRUCIBLE_COPYX_SERVE (c : CoreId) (u : Fin 2) : Encoding.Statement (.CRUCIBLE_COPYX_SERVE c u) := .inl rfl

theorem Encoding.ANVIL_PASS_START (c : CoreId) : Encoding.Statement (.ANVIL_PASS_START c) := .inl rfl

theorem Encoding.ANVIL_PASS_END (c : CoreId) (residue : Bool) : Encoding.Statement (.ANVIL_PASS_END c residue) := .inl rfl

theorem Encoding.MZERO_WRITE (c : CoreId) : Encoding.Statement (.MZERO_WRITE c) := .inl rfl

theorem Encoding.MSTORE_LINE_WRITE (c : CoreId) : Encoding.Statement (.MSTORE_LINE_WRITE c) := .inl rfl

theorem Encoding.MLOAD_ROW_WRITE (c : CoreId) : Encoding.Statement (.MLOAD_ROW_WRITE c) := .inl rfl

theorem Encoding.SCHEDULE_MISS (c : CoreId) (e : EngId) : Encoding.Statement (.SCHEDULE_MISS c e) := .inl rfl

theorem Encoding.BELLOWS_STEP (d : DieId) : Encoding.Statement (.BELLOWS_STEP d) := .inl rfl

theorem Encoding.LINK_FLIT_SEND (c : CoreId) : Encoding.Statement (.LINK_FLIT_SEND c) := .inl rfl

theorem Encoding.LINK_FLIT_ARRIVAL (p : PortId) (flit : Flit) (auth : Bool) : Encoding.Statement (.LINK_FLIT_ARRIVAL p flit auth) := .inl rfl

theorem Encoding.LINK_FLIT_RECEIVE (c : CoreId) : Encoding.Statement (.LINK_FLIT_RECEIVE c) := .inl rfl

theorem Encoding.LINK_TRAIN (p : PortId) (ok : Bool) (neighbour : BitVec 10) : Encoding.Statement (.LINK_TRAIN p ok neighbour) := .inl rfl

theorem Encoding.TRAP_ENTRY (c : CoreId) (code : Byte) (tval : Word) (eng : Option EngId) (single : Bool) : Encoding.Statement (.TRAP_ENTRY c code tval eng single) := .inl rfl

theorem Encoding.SYSTEM_SERVICE (c : CoreId) : Encoding.Statement (.SYSTEM_SERVICE c) := .inl rfl

theorem Encoding.TASK_RETIRE (c : CoreId) : Encoding.Statement (.TASK_RETIRE c) := .inl rfl

theorem Encoding.AGE_TICK_BOUNDARY (t0 : Byte) (t1 : Byte) (t2 : Byte) (t3 : Byte) : Encoding.Statement (.AGE_TICK_BOUNDARY t0 t1 t2 t3) := .inl rfl

theorem Encoding.REFRESH_REWRITE (c : CoreId) : Encoding.Statement (.REFRESH_REWRITE c) := .inl rfl

theorem Encoding.REWRITE_END (c : CoreId) : Encoding.Statement (.REWRITE_END c) := .inl rfl

theorem Encoding.CHUNK_REQUEST (c : CoreId) : Encoding.Statement (.CHUNK_REQUEST c) := .inl rfl

theorem Encoding.JOB_CARD_ACCEPT (src : CardSource) (ch : CardChoice) : Encoding.Statement (.JOB_CARD_ACCEPT src ch) := .inl rfl

theorem Encoding.DEP_DECREMENT (ctr : BitVec 12) : Encoding.Statement (.DEP_DECREMENT ctr) := .inl rfl

theorem Encoding.SPILL_CARD_RETURN (entry : Nat) : Encoding.Statement (.SPILL_CARD_RETURN entry) := .inl rfl

theorem Encoding.BIND (card : Nat) (cores : List (Nat × CoreId)) (start : BitVec 64) (launch : BitVec 64) (span : List (BitVec 10)) : Encoding.Statement (.BIND card cores start launch span) := .inl rfl

theorem Encoding.TASK_START (c : CoreId) : Encoding.Statement (.TASK_START c) := .inl rfl

theorem Encoding.PRIORITY_AGEING (card : Nat) : Encoding.Statement (.PRIORITY_AGEING card) := .inl rfl

theorem Encoding.PREEMPT_REQUEST (c : CoreId) : Encoding.Statement (.PREEMPT_REQUEST c) := .inl rfl

theorem Encoding.CONTEXT_RESTORE (c : CoreId) (card : Nat) (task : Nat) : Encoding.Statement (.CONTEXT_RESTORE c card task) := .inl rfl

theorem Encoding.REGROWTH (c : CoreId) : Encoding.Statement (.REGROWTH c) := .inl rfl

theorem Encoding.CORE_POLL (c : CoreId) (answers : Bool) : Encoding.Statement (.CORE_POLL c answers) := .inl rfl

theorem Encoding.DEADLOCK_SAMPLE : Encoding.Statement (.DEADLOCK_SAMPLE) := .inl rfl

theorem Encoding.BARRIER_COMPLETE (card : Nat) (tag : Fin 9) (unit : Nat) : Encoding.Statement (.BARRIER_COMPLETE card tag unit) := .inl rfl

theorem Encoding.GANG_END_COMMIT (card : Nat) : Encoding.Statement (.GANG_END_COMMIT card) := .inl rfl

theorem Encoding.COMPLETION_RECORD_WRITE (f : FnId) : Encoding.Statement (.COMPLETION_RECORD_WRITE f) := .inl rfl

theorem Encoding.SQ_DOORBELL (f : FnId) (v : Word) : Encoding.Statement (.SQ_DOORBELL f v) := .inl rfl

theorem Encoding.CQ_HEAD_WRITE (f : FnId) (v : Word) : Encoding.Statement (.CQ_HEAD_WRITE f v) := .inl rfl

theorem Encoding.SQ_CTL_WRITE (f : FnId) (v : Word) : Encoding.Statement (.SQ_CTL_WRITE f v) := .inl rfl

theorem Encoding.CQ_CTL_WRITE (f : FnId) (v : Word) : Encoding.Statement (.CQ_CTL_WRITE f v) := .inl rfl

theorem Encoding.HOST_TEMPLATE_WRITE (f : FnId) (n : Fin 1024) (dword : Fin 72) (v : Word) : Encoding.Statement (.HOST_TEMPLATE_WRITE f n dword v) := .inl rfl

theorem Encoding.HOST_HBM_READ (f : FnId) (addr : Nat) : Encoding.Statement (.HOST_HBM_READ f addr) := .inl rfl

theorem Encoding.HOST_HBM_WRITE (f : FnId) (addr : Nat) (v : Word) : Encoding.Statement (.HOST_HBM_WRITE f addr v) := .inl rfl

theorem Encoding.ATTESTATION_GO (f : FnId) (v : Word) : Encoding.Statement (.ATTESTATION_GO f v) := .inl rfl

theorem Encoding.ATTESTATION_DONE : Encoding.Statement (.ATTESTATION_DONE) := .inl rfl

theorem Encoding.STARTCLR_WRITE (f : FnId) (v : Word) : Encoding.Statement (.STARTCLR_WRITE f v) := .inl rfl

theorem Encoding.REGISTER_WRITE (f : FnId) (r : HostReg) (v : Word) : Encoding.Statement (.REGISTER_WRITE f r v) := .inl rfl

theorem Encoding.TEMP_TABLE_WRITE (band : Fin 8) (cls : Fin 8) (v : Byte) : Encoding.Statement (.TEMP_TABLE_WRITE band cls v) := .inl rfl

theorem Encoding.RAMP_TABLE_WRITE (d : DieId) (t : Vector (BitVec 16) 16) : Encoding.Statement (.RAMP_TABLE_WRITE d t) := .inl rfl

theorem Encoding.RAMP_TABLE_APPLY (d : DieId) : Encoding.Statement (.RAMP_TABLE_APPLY d) := .inl rfl

theorem Encoding.ASID_INVALIDATE (id : BitVec 12) : Encoding.Statement (.ASID_INVALIDATE id) := .inl rfl

theorem Encoding.REFERENCE_TICK : Encoding.Statement (.REFERENCE_TICK) := .inl rfl

theorem Encoding.DECISION_TICK : Encoding.Statement (.DECISION_TICK) := .inl rfl

theorem Encoding.SWITCH_TICK : Encoding.Statement (.SWITCH_TICK) := .inl rfl

theorem Encoding.CHORUS_JOIN (m : ChorusMsg) (linkid : BitVec 32) (dticks : BitVec 16) (direct : Bool) : Encoding.Statement (.CHORUS_JOIN m linkid dticks direct) := .inl rfl

theorem Encoding.CHORUS_ADMIT (self : BitVec 10) (tick : BitVec 64) (wa : BitVec 64) (stampWa : BitVec 64) (step : BitVec 5) (members : List ChorusMsg) : Encoding.Statement (.CHORUS_ADMIT self tick wa stampWa step members) := .inl rfl

theorem Encoding.CHORUS_LEAVE (m : ChorusMsg) : Encoding.Statement (.CHORUS_LEAVE m) := .inl rfl

theorem Encoding.CHORUS_DECLARE (m : ChorusMsg) : Encoding.Statement (.CHORUS_DECLARE m) := .inl rfl

theorem Encoding.CHORUS_LIMIT (m : ChorusMsg) (wl : BitVec 64) : Encoding.Statement (.CHORUS_LIMIT m wl) := .inl rfl

theorem Encoding.CHORUS_LOST (m : ChorusMsg) (lost : BitVec 10) (at_ : BitVec 64) : Encoding.Statement (.CHORUS_LOST m lost at_) := .inl rfl

theorem Encoding.DECLARE_SEND (ceil : BitVec 5) (demand : BitVec 16) : Encoding.Statement (.DECLARE_SEND ceil demand) := .inl rfl

theorem Encoding.CORE_GATE (p : Fin 72) : Encoding.Statement (.CORE_GATE p) := .inl rfl

theorem Encoding.CORE_WAKE_REQUEST (p : Fin 72) : Encoding.Statement (.CORE_WAKE_REQUEST p) := .inl rfl

theorem Encoding.GATE_HOLD_END (p : Fin 72) : Encoding.Statement (.GATE_HOLD_END p) := .inl rfl

theorem Encoding.WAKE_START (d : DieId) : Encoding.Statement (.WAKE_START d) := .inl rfl

theorem Encoding.VOLTAGE_ADJUST (d : DieId) (count : Nat) : Encoding.Statement (.VOLTAGE_ADJUST d count) := .inl rfl

theorem Encoding.VOLTAGE_RETURN (d : DieId) : Encoding.Statement (.VOLTAGE_RETURN d) := .inl rfl

theorem Encoding.UNDERVOLT_REENABLE (d : DieId) : Encoding.Statement (.UNDERVOLT_REENABLE d) := .inl rfl

theorem Encoding.DEVICE_RESET (t0 : Byte) (t1 : Byte) (t2 : Byte) (t3 : Byte) : Encoding.Statement (.DEVICE_RESET t0 t1 t2 t3) := .inl rfl

theorem Encoding.BOOT_STAGE (r : StageResult) : Encoding.Statement (.BOOT_STAGE r) := .inl rfl

theorem Encoding.BOOT_STAGE_TIMEOUT : Encoding.Statement (.BOOT_STAGE_TIMEOUT) := .inl rfl

theorem Encoding.ILLEGAL_INSTRUCTION (c : CoreId) (reserved : Bool) (parcel : Word) : Encoding.Statement (.ILLEGAL_INSTRUCTION c reserved parcel) := .inl rfl

theorem Encoding.LIMIT_SEND (ceil : BitVec 5) (demand : BitVec 16) (wl : BitVec 64) : Encoding.Statement (.LIMIT_SEND ceil demand wl) := .inl rfl

theorem Encoding.JOIN_SEND (p : PortId) (ceil : BitVec 5) (demand : BitVec 16) : Encoding.Statement (.JOIN_SEND p ceil demand) := .inl rfl

theorem Encoding.LEAVE_SEND : Encoding.Statement (.LEAVE_SEND) := .inl rfl

theorem Encoding.CHORUS_TABLE_WRITE (fieldName : ChorusField) (v : BitVec 32) : Encoding.Statement (.CHORUS_TABLE_WRITE fieldName v) := .inl rfl

theorem Encoding.DIE_BUDGET_WRITE (d : DieId) (u : BitVec 13) : Encoding.Statement (.DIE_BUDGET_WRITE d u) := .inl rfl

theorem Encoding.RESERVATION_SET_ASIDE (c : CoreId) (cls : Fin 8) : Encoding.Statement (.RESERVATION_SET_ASIDE c cls) := .inl rfl

theorem Encoding.GLOBAL_READ_RETURN (c : CoreId) (e : EngId) : Encoding.Statement (.GLOBAL_READ_RETURN c e) := .inl rfl

theorem Encoding.IDE_ESTABLISH (f : FnId) : Encoding.Statement (.IDE_ESTABLISH f) := .inl rfl

theorem Encoding.STANDBY_POWER_LOSS : Encoding.Statement (.STANDBY_POWER_LOSS) := .inl rfl

end Sys2Proof.Laws
end

