-- ==== Sys2Proof/Laws/Stops.lean ====
section
/-! SUPPORT. What the operations of stops, returns and abandoned streams can do. -/

namespace Sys2Proof.Machine

/-! ### Power regions -/

@[simp] theorem Core.releaseRegion_grant (c : Core) : c.releaseRegion.csr.grant = false := by
  unfold Core.releaseRegion; split <;> simp_all

/-- A region that is released gives its level back to Bellows (R382). -/
theorem Core.releaseRegion_pwrRet (c : Core) : c.releaseRegion.pwrRet = c.pwrRet + if c.csr.grant then c.csr.level else 0 := by
  unfold Core.releaseRegion; split <;> simp_all

/-! ### A stop for pre-emption -/

@[simp] theorem Core.stopAt_run (c : Core) (mid : EngId → Bool) (now : Nat) : (c.stopAt mid now).run = .preempting := rfl
@[simp] theorem Core.stopAt_ready (c : Core) (mid : EngId → Bool) (now : Nat) : (c.stopAt mid now).ready = now := rfl

/-! ### Return from a trap -/

/-- A restored position stands at the address that was saved, with the bits that were saved (R196). -/
theorem Core.restored_saved (c : Core) (old : Pos) (a : Word) (ann tgt : Bool) :
    (c.restored old a ann tgt).addr = a ∧ (c.restored old a ann tgt).ann = ann ∧ (c.restored old a ann tgt).tgt = tgt := by
  unfold Core.restored
  dsimp only
  split
  · rename_i p h
    exact ⟨by simpa using List.find?_some h, rfl, rfl⟩
  · exact ⟨rfl, rfl, rfl⟩

@[simp] theorem Core.return_v (c : Core) (u : Nat) : (c.return u).v = c.v := rfl
@[simp] theorem Core.return_k (c : Core) (u : Nat) : (c.return u).k = c.k := rfl
@[simp] theorem Core.return_loop (c : Core) (u : Nat) : (c.return u).loop = c.shadow.loop := rfl
@[simp] theorem Core.return_h (c : Core) (u : Nat) : (c.return u).csr.h = false := rfl

/-! ### Abandoned streams (R395, R400) -/

@[simp] theorem Port.skipStream_sent (p : Port) (k : CoreId × CoreId × BitVec 6) : (p.skipStream k).sent = p.sent := by
  unfold Port.skipStream; dsimp only; split <;> rfl

/-- What an abandoned link command does to its stream concerns one port alone. -/
theorem State.cutStream_cases (s : State) (l : CoreId) (x : Eng) (cmd : Cmd) :
    s.cutStream l x cmd = s ∨ ∃ p : Port, s.cutStream l x cmd = s.setPort cmd.port p := by
  unfold State.cutStream
  dsimp only
  split
  all_goals first | exact .inl rfl | (split; exact .inl rfl; exact .inr ⟨_, rfl⟩)

/-! ### Restore words and page tables (R236, R341) -/

/-- A new task's restore word is 0, and a restore adds 1 to it. -/
@[simp] theorem Card.newTask_restored (k : Card) (p : Nat) : (k.newTask p).restored p = 0 := by
  have h : (k.restores.filter (·.1 != p)).find? (·.1 == p) = none := by
    rw [List.find?_eq_none]
    intro x hx
    simpa using (List.mem_filter.mp hx).2
  simp [Card.newTask, Card.restored, h]

@[simp] theorem Card.revive_restored (k : Card) (p : Nat) : (k.revive p).restored p = k.restored p + 1 := by
  simp [Card.revive, Card.restored]

/-- The page tables that a task of an ID sees are those last made effective for the ID. -/
theorem Hub.shown_setTabs (h : Hub) (t : Task) (m : Mem) :
    ((h.setTabs (fld t.asid 0 12) t.root m).shown t).view = some (m.tableCells t.root) := by
  simp [Hub.setTabs, Hub.shown]

@[simp] theorem Hub.setTabs_cards (h : Hub) (id root : Nat) (m : Mem) : (h.setTabs id root m).cards = h.cards := rfl
@[simp] theorem Hub.setTabs_asids (h : Hub) (id root : Nat) (m : Mem) : (h.setTabs id root m).asids = h.asids := rfl

/-! ### Messages of the chorus (R370) -/

@[simp] theorem Member.hear_seq (x : Member) (m : ChorusMsg) : (x.hear m).seq = some m.seq := rfl
@[simp] theorem Member.hear_seen (x : Member) (m : ChorusMsg) : (x.hear m).seen = x.seen ++ [m.stamp.toNat] := rfl
@[simp] theorem Member.hear_idx (x : Member) (m : ChorusMsg) : (x.hear m).idx = x.idx := rfl
@[simp] theorem Member.hear_st (x : Member) (m : ChorusMsg) : (x.hear m).st = x.st := rfl
@[simp] theorem Member.hear_decls (x : Member) (m : ChorusMsg) : (x.hear m).decls = x.decls := rfl

/-- Without ADMITs between them a message follows the last one when its number is the next (R388). -/
theorem Member.follows_iff (x : Member) (m : ChorusMsg) (q : BitVec 32) (h : x.seq = some q) (ha : x.admits = []) :
    x.follows m = true ↔ m.seq = q + 1 := by
  simp only [Member.follows, h, Member.admitsBefore, Member.admitsAt, ha, List.filter_nil, List.length_nil, decide_eq_true_eq, Nat.le_zero_eq]
  constructor
  · intro e
    have : m.seq - (q + 1 + BitVec.ofNat 32 0) = 0 := BitVec.eq_of_toNat_eq (by simpa using e)
    bv_omega
  · intro e
    rw [e]
    simp

/-! ### Translations (R237) -/

/-- A unit's record is that of its most recent translation. -/
theorem Core.noted_last (c : Core) (unit va p : Nat) :
    (c.noted unit va p).last.find? (·.1 == unit) = some (unit, va, p, fld c.theTask.asid 0 12) := by
  simp [Core.noted]

end Sys2Proof.Machine
end

