-- ==== Sys2Proof/Tests/Slice0.lean ====
section
/-! SUPPORT. The model's own tests: ill-formed terms, words of the spec's examples, single steps, and for every statement with hypotheses a
state that meets them. -/

namespace Sys2Proof.Tests

set_option Elab.async false
set_option maxRecDepth 100000

open Sys2Proof.Machine Sys2Proof.Claims

/-! ### Small states -/

/-- Core 0 runs a task whose next word is a NOP. -/
def base : State := State.reset.withFetchWord 32 0x10000003

/-- As `base`, with core 0 changed. -/
def on (f : Core → Core) : State := base.setCore 0 (f (base.core 0))

/-- As `base`, with named registers and queue slots of core 0. -/
def regs (xs : List (Nat × Word)) (qs : List (Nat × Word) := []) : State :=
  on fun c => { xs.foldl (fun c x => c.setS x.1 x.2) c with q := qs.foldl (fun q x => vput q x.1 { val := x.2 }) c.q }

/-- Whether a position of this size and kind can be performed and its successor fetched, its own fetch state being `f`. -/
def fits (s : State) (size : Nat) (k : PosKind) (f : Fetch) (target : Option Nat) : Bool :=
  runs s size k && (nextFetch s.mem (me s) f target).toOption.isSome

/-- Whether the sources of a position can be read. -/
def sees (s : State) (xs beside : List Nat) (d : Nat) : Bool := ((me s).hazard (xs ++ beside) d).isNone && (readAll (me s) xs).isSome

theorem leads_of {s : State} {size : Nat} {k : PosKind} {f : Fetch} {t : Option Nat} (h : fits s size k f t = true) :
    runs s size k = true ∧ ∃ n, leads s f t n := by
  unfold fits at h
  rw [Bool.and_eq_true] at h
  exact ⟨h.1, Option.isSome_iff_exists.1 h.2⟩

theorem plain_of {s : State} {size : Nat} (h : fits s size .plain (me s).fetch none = true) : ∃ n, plain s size n :=
  (leads_of h).2.elim fun n hn => ⟨n, (leads_of h).1, hn⟩

theorem reads_of {s : State} {xs beside : List Nat} {d : Nat} (h : sees s xs beside d = true) : ∃ vs c, reads (me s) xs beside d vs c := by
  unfold sees at h
  rw [Bool.and_eq_true, Option.isNone_iff_eq_none] at h
  obtain ⟨⟨vs, c⟩, hr⟩ := Option.isSome_iff_exists.1 h.2
  exact ⟨vs, c, h.1, hr⟩

/-! ### Well-formedness -/

/-- One ill-formed term for each check of WellFormed. -/
theorem test_ill_formed : [Instr.BLK_IMMEDIATE 0 1, .BLK_IMMEDIATE 1 0, .BLK_REGISTER 1 32, .ADD 32 1 1, .ADD 1 56 1, .ADD 1 1 63, .WAITV 6 1 1,
    .CSRR 1 0x08, .VADD 1 1 1 0 0, .VADD 1 1 1 0 7, .VCVT 1 1 16 0 1, .PCNT 1 32, .SACC 1 2 6, .SACCR 0 1 2 7, .MZERO 0 3, .MLOAD 0 1 3,
    .C_CLS 0 1 1 6, .BEQ 1 1 3 0, .COPY 1 0 0 0, .COPYX 0 32 0 0 1 0, .MMA 0 0 0 3 1 0 0, .MMA 0 0 0 0 0 0 0, .C_CLS 0 0 0 1,
    .C_ADDI 0 3].map Instr.wellFormed = List.replicate 24 false := by decide

/-! ### Words of the spec's examples -/

theorem test_words_scalar : [decode 0x00188209, decode 0x0000819D, decode 0x0008A28B, decode 0x00000207, decode 0xFC62] =
    [.instr (.ADD 4 4 3), .instr (.LI 3 4), .instr (.ADDI 5 5 1), .instr (.CSRR 4 0), .instr (.C_ADDI 3 63)] := by decide

theorem test_words_control : [decode 0x00C001A1, decode 0xFF4801A3, decode 0x00100181, decode 0x7E07FF85, decode 0x0C200003, decode 0x00025857] =
    [.instr (.BEQ 3 0 0 6), .instr (.BNE 3 0 1 2042), .instr (.BLK_IMMEDIATE 3 4), .instr (.WAIT 63 63 0 63), .instr (.SEQW 0 4),
     .instr (.STAMP 1200)] := by decide

/-- A load and a store, written out from the M format: imm6, c, w, a, t, major (R82, R88, R127, R128). -/
theorem test_words_memory : [decode 0b111111_0010_100_000100_000011_011001_1, decode 0b000001_0000_000_000010_000001_011010_1] =
    [.instr (.LD_W 3 4 2 63), .instr (.ST_B 1 2 0 1)] := by decide

/-- Floating point, written out from the R format: fn, b, a, d, major (R82, R88). -/
theorem test_words_float : [decode 0b0010010_000111_000110_000101_011011_1, decode 0b0101000_000000_000110_000101_011011_1] =
    [.instr (.FMUL_D 5 6 7), .instr (.FCVT_S_D 5 6)] := by decide

theorem test_words_vector : [decode 0xF20411B9, decode 0x0240323D, decode 0x424C543F, decode 0b1010_001_000_00001_00110_00101_011101_1] =
    [.instr (.VSEL 3 1 2 0 1), .instr (.VRSUM 4 3 1 1), .instr (.VLDFF 8 5 6 1 1), .instr (.VCVT 5 6 1 0 1)] := by decide

theorem test_words_tables : [decode 0x0010A141, decode 0x00206043, decode 0x060062C3, decode 0x04188045, decode 0x0200A345] =
    [.instr (.PSET 2 5 2), .instr (.EALLOC 3 4), .instr (.EAGE 5 3), .instr (.TDCOPY 4 3), .instr (.TDGET 6 5)] := by decide

theorem test_words_commands : [decode 0x080859C7, decode 0x08286049, decode 0xA21C81CB, decode 0x280102CD, decode 0x010090CF, decode 0x1A1468D5] =
    [.instr (.COPY 19 5 2 1), .instr (.SACC 6 10 1), .instr (.ROWLN 3 8 7 20), .instr (.MMA 1 1 2 0 16 1 0), .instr (.MSTORE 1 9),
     .instr (.LRED 1 6 5 3)] := by decide

theorem test_words_hub : [decode 0x02006051, decode 0x0C30A051, decode 0x04000253] = [.instr (.BARA 3), .instr (.SPATCH 5 6), .instr (.PWRG 4)] := by
  decide

/-- Unassigned majors and reserved bits are refused by name (R87, R93). -/
theorem test_rejected : [decode 0x00000059, decode 0x80025857, decode 0x0000819E] =
    [.rejected .unassigned, .rejected .reservedBits, .rejected .unassigned] := by decide

/-! ### Witnesses: scalar instructions -/

/-- Core 0 with one element in `f0`. -/
def fed : State := on fun c => { c with feeds := c.feeds.set 0 { elems := [(1, 5)] } }

theorem witness_scalars : ∀ r ∈ alu2 31 1 48 ++ alu3 0 1 47 ++ alu1 31 32 ++ aluImm 1 31 63 4096 0x40000 ++ aluShort 31 48 32 ++ floats2 31 0 48 ++
    floats3 1 1 1 ++ floats1 0 47, ∃ vs c n, plain fed r.size n ∧ reads (me fed) r.srcs r.beside r.d vs c := by
  have h : (alu2 31 1 48 ++ alu3 0 1 47 ++ alu1 31 32 ++ aluImm 1 31 63 4096 0x40000 ++ aluShort 31 48 32 ++ floats2 31 0 48 ++
      floats3 1 1 1 ++ floats1 0 47).all (fun r => fits fed r.size .plain (me fed).fetch none && sees fed r.srcs r.beside r.d) = true := by
    decide +kernel
  intro r hr
  have h := List.all_eq_true.1 h r hr
  rw [Bool.and_eq_true] at h
  obtain ⟨n, hn⟩ := plain_of h.1
  obtain ⟨vs, c, hc⟩ := reads_of h.2
  exact ⟨vs, c, n, hn, hc⟩

/-- A state with a result of the integer divider and one of the FDIV unit that have not landed. -/
def busyUnits : State := on fun c => { c with fly := [{ id := 1, dst := 9, busy := 1 }, { id := 2, dst := 10, busy := 2 }] }

/-- Free and busy units. -/
theorem witness_DividesAndRoots : ∀ s ∈ [base, busyUnits], ∀ u ∈ divides 1 2 3, ∃ vs c n, plain s 4 n ∧ reads (me s) u.2.srcs [] u.2.d vs c := by
  have h : [base, busyUnits].all (fun s => fits s 4 .plain (me s).fetch none && (divides 1 2 3).all fun u => sees s u.2.srcs [] u.2.d) = true := by
    decide +kernel
  intro s hs u hu
  have h := List.all_eq_true.1 h s hs
  rw [Bool.and_eq_true] at h
  obtain ⟨n, hn⟩ := plain_of h.1
  obtain ⟨vs, c, hc⟩ := reads_of (List.all_eq_true.1 h.2 u hu)
  exact ⟨vs, c, n, hn, hc⟩

/-! ### Witnesses: branches, memory, CSRs -/

/-- Taken with annulled slots, and not taken with annulled slots, at both ends of the offset. -/
theorem witness_Branches : ∀ r ∈ branches 0 0 2 1024 0 32 ++ branches 0 1 1 1023 1 31, ∃ x y c n, runs (regs [(1, 7)]) r.size .transfer = true ∧
    reads (me (regs [(1, 7)])) [r.a, r.b] [] 0 [x, y] c ∧
    leads (regs [(1, 7)]) (delaySlots (me (regs [(1, 7)])) (r.nul == if r.taken x y then 2 else 1))
      (if r.taken x y then some (target (me (regs [(1, 7)])) r.off) else none) n := by
  have h : (branches 0 0 2 1024 0 32 ++ branches 0 1 1 1023 1 31).all (fun r => let s := regs [(1, 7)]
      match (me s).hazard [r.a, r.b] 0, readAll (me s) [r.a, r.b] with
      | none, some ([x, y], _) => fits s r.size .transfer (delaySlots (me s) (r.nul == if r.taken x y then 2 else 1))
          (if r.taken x y then some (target (me s) r.off) else none)
      | _, _ => false) = true := by decide +kernel
  intro r hr
  have h := List.all_eq_true.1 h r hr
  dsimp only at h
  split at h
  · rename_i x y c e1 e2
    obtain ⟨h1, n, hn⟩ := leads_of h
    exact ⟨x, y, c, n, h1, ⟨e1, e2⟩, hn⟩
  · simp at h

theorem witness_Jumps : (∃ n, leads base (delaySlots (me base) false) (some (target (me base) (-262144))) n) ∧ runs base 4 .transfer = true ∧
    runs base 2 .transfer = true ∧ reads (me base) [] [] 31 [] (me base) := by
  have h : fits base 4 .transfer (delaySlots (me base) false) (some (target (me base) (-262144))) = true := by decide +kernel
  exact ⟨(leads_of h).2, (leads_of h).1, by decide +kernel, by decide +kernel, rfl⟩

/-- Where the three clauses meet: 2^48 - 2, 2^48 - 1 and 2^48. -/
theorem witness_JumpToRegister : ∀ x ∈ [(0xFFFFFFFFFFFE : Word), 0xFFFFFFFFFFFF, 0x1000000000000], runs (regs [(1, x)]) 4 .transfer = true ∧
    ∃ c, reads (me (regs [(1, x)])) [1] [] 1 [x] c ∧
      ∃ n, leads (regs [(1, x)]) (delaySlots (me (regs [(1, x)])) false) (some (2 ^ 48 - 2)) n := by
  intro x hx
  simp only [List.mem_cons, List.not_mem_nil, or_false] at hx
  rcases hx with rfl | rfl | rfl
  all_goals
    refine ⟨by decide +kernel, _, ⟨by decide +kernel, rfl⟩, (leads_of (size := 4) (k := .transfer) ?_).2⟩
    decide +kernel

/-- A successor in sequence and a transfer's target. -/
theorem witness_FetchAdvances : (∃ n, leads base (me base).fetch none n) ∧ (∃ n, leads base (me base).fetch (some 0) n) ∧
    (me base).loop.ldep = 0 ∧ ∀ e, (me base).fetch.n2.entry ≠ .skipped e := by
  have h : fits base 4 .plain (me base).fetch none = true ∧ fits base 4 .plain (me base).fetch (some 0) = true ∧ (me base).loop.ldep = 0 ∧
      (me base).fetch.n2.entry = .none := by decide +kernel
  exact ⟨(leads_of h.1).2, (leads_of h.2.1).2, h.2.2.1, fun e he => by rw [h.2.2.2] at he; cases he⟩

theorem witness_HeadersAndNop : (∃ n, leads base (me base).fetch none n) ∧ runs base 4 .header = true ∧ runs base 4 .plain = true ∧
    runs base 2 .plain = true := by
  have h : fits base 4 .plain (me base).fetch none = true := by decide +kernel
  exact ⟨(leads_of h).2, by decide +kernel, (leads_of h).1, by decide +kernel⟩

/-- Core 0 with row group 0 of own Ember, and two registers that hold `x`. -/
def at_ (x : Word) : State := on fun c =>
  { (c.setS 1 x).setS 8 x with ember := { c.ember with rows := [{ g := 0, cls := 0 }] } }

/-- Own Ember, operand SRAM and global memory, for every load and store. -/
theorem witness_LoadsAndStores : ∀ x ∈ [(0xE000000000000000 : Word), 0xE100000000000000, 0x40000],
    (∀ r ∈ loads 31 1 15 31 0 0 7, ∃ c n, plain (at_ x) r.size n ∧ reads (me (at_ x)) [r.a] [] r.t [x] c ∧ r.free (at_ x) x = true) ∧
    ∀ r ∈ stores 47 1 15 31 31 0 7, ∃ v c n, plain (at_ x) r.size n ∧ reads (me (at_ x)) [r.a, r.t] [] 0 [x, v] c ∧ r.free (at_ x) x = true := by
  have h : [(0xE000000000000000 : Word), 0xE100000000000000, 0x40000].all (fun x => let s := at_ x
      (loads 31 1 15 31 0 0 7).all (fun r => fits s r.size .plain (me s).fetch none && r.free s x && match (me s).hazard [r.a] r.t, readAll (me s) [r.a] with
        | none, some ([y], _) => x == y | _, _ => false) &&
      (stores 47 1 15 31 31 0 7).all fun r => fits s r.size .plain (me s).fetch none && r.free s x &&
        match (me s).hazard [r.a, r.t] 0, readAll (me s) [r.a, r.t] with | none, some ([y, _], _) => x == y | _, _ => false) = true := by
    decide +kernel
  intro x hx
  have h := List.all_eq_true.1 h x hx
  simp only [Bool.and_eq_true, List.all_eq_true] at h
  refine ⟨fun r hr => ?_, fun r hr => ?_⟩
  · obtain ⟨⟨h1, h2⟩, h3⟩ := h.1 r hr
    obtain ⟨n, hn⟩ := plain_of h1
    split at h3
    · rename_i y c e1 e2
      obtain rfl := beq_iff_eq.1 h3
      exact ⟨c, n, hn, ⟨e1, e2⟩, h2⟩
    · simp at h3
  · obtain ⟨⟨h1, h2⟩, h3⟩ := h.2 r hr
    obtain ⟨n, hn⟩ := plain_of h1
    split at h3
    · rename_i y v c e1 e2
      obtain rfl := beq_iff_eq.1 h3
      exact ⟨v, c, n, hn, ⟨e1, e2⟩, h2⟩
    · simp at h3

/-- Each fault of an access: outside the windows, misaligned, no row group, not mapped. -/
theorem witness_AccessFaults : runs base 4 .plain = true ∧ runs base 2 .plain = true ∧ sees base [1] [] 31 = true ∧ sees base [1, 2] [] 0 = true ∧
    spaceOf 0x1000000000000 = .none ∧ (spaceOf 0xE00000000FFFFFFF ≠ .none ∧ 0xE00000000FFFFFFF % 2 ≠ 0) ∧
    (spaceOf 0xE00000000FFFFFF8 = .ember 0xFFFFFF8 ∧ 0xE00000000FFFFFF8 % 8 = 0 ∧ (me base).ember.rowAt 0xFFFFFF8 = none) ∧
    spaceOf 0xFFFFFFFFFFF8 = .glob 0xFFFFFFFFFFF8 ∧ (globalAt base.mem (me base).theTask 0xFFFFFFFFFFF8 needRd).toOption = none ∧
    (globalAt base.mem (me base).theTask 0xFFFFFFFFFFF8 needW).toOption = none := by
  decide +kernel

/-- A read, a write that is refused outside the handler, and one that is made. -/
theorem witness_CsrAccess : (∃ n, plain base 4 n) ∧ ∀ a ∈ [0, 1, 47], ∃ vs c, reads (me base) [a] [] 31 vs c := by
  have h : fits base 4 .plain (me base).fetch none = true := by decide +kernel
  have h2 : [0, 1, 47].all (fun a => sees base [a] [] 31) = true := by decide +kernel
  exact ⟨plain_of h, fun a ha => reads_of (List.all_eq_true.1 h2 a ha)⟩

/-- A trap register in and outside the handler, a read-only register, one that a task writes; a loop register of a level that is inactive, and one of a level
that is active (R118). -/
theorem witness_CsrAccess_clauses : csrRefuses (me base) 0x05 = true ∧ csrRefuses (me base) 0x41 = true ∧ csrRefuses (me base) 0x40 = false ∧
    csrRefuses (me (on fun c => { c with csr := { c.csr with h := true } })) 0x01 = false ∧ (me base).breaches 0x26 0 = false ∧
    (me (on fun c => { c with loop := c.loop.setDep 3 })).breaches 0x26 0 = true := by decide +kernel

/-- A level that is inactive, in and outside the handler. -/
theorem witness_CsrWrites : (me base).csr.h = false ∧ (me base).breaches 0 0x806 = false ∧ (me base).loop.active 2 = false ∧
    (let k := me (on fun c => { c with csr := { c.csr with h := true } }); k.csr.h = true ∧ k.breaches 0 0x806 = false) ∧
    (1 : Word).getLsbD 0 = true ∧ (6 : Word).getLsbD 0 = false := by decide +kernel

/-! ### Witnesses: predicates, prefixes and control -/

theorem witness_plain : (∃ n, plain base 4 n) ∧ (∃ n, plain base 2 n) ∧ (∃ vs c, reads (me base) [1] [] 0 vs c) ∧
    (∃ vs c, reads (me base) [31, 47] [] 31 vs c) ∧ reads (me base) [] [] 31 [] (me base) := by
  have h : fits base 4 .plain (me base).fetch none = true ∧ fits base 2 .plain (me base).fetch none = true ∧ sees base [1] [] 0 = true ∧
      sees base [31, 47] [] 31 = true ∧ (me base).hazard [] 31 = none := by decide +kernel
  exact ⟨plain_of h.1, plain_of h.2.1, reads_of h.2.2.1, reads_of h.2.2.2.1, h.2.2.2.2, rfl⟩

/-- C.CLS before LD.D, and STAMP before MMA. -/
def clsLoad : State := State.reset.withFetchWord 48 (0x0060 + 0x001820B3 * 2 ^ 16)
def stampMma : State := State.reset.withFetchWord 64 (0x00025857 + 0x280102CD * 2 ^ 32)

/-- C.CLS and STAMP before ADD, which takes neither. -/
def clsAdd : State := State.reset.withFetchWord 48 (0x0060 + 0x00188209 * 2 ^ 16)
def stampAdd : State := State.reset.withFetchWord 64 (0x00025857 + 0x00188209 * 2 ^ 32)

/-- An accepted prefix of each kind, one before an instruction that refuses it, and a second one of its kind. -/
theorem witness_Prefixes : (∃ n, plain clsLoad 2 n) ∧ (∃ n, plain stampMma 4 n) ∧
    (me clsLoad).misused clsLoad.mem (prefixes (me clsLoad)) = none ∧ (me stampMma).misused stampMma.mem (prefixes (me stampMma)) = none ∧
    [clsAdd, stampAdd].all (fun s => (me s).run == .running && (me s).misused s.mem (prefixes (me s)) == some (me s).fetch.pc.addr) = true := by
  have h : fits clsLoad 2 .plain (me clsLoad).fetch none = true ∧ fits stampMma 4 .plain (me stampMma).fetch none = true := by decide +kernel
  exact ⟨plain_of h.1, plain_of h.2, by decide +kernel⟩

/-- The unit at pc begins with the prefix `pre`, which its instruction refuses. -/
def refusedFirst (s : State) (size : Nat) (pre : Instr) : Bool :=
  (unitWords s.mem (me s).theTask (me s).loop [(me s).fetch.pc, (me s).fetch.n1, (me s).fetch.n2]).toOption.any fun l => match l with
    | [] => false
    | x :: _ => x.1 == (me s).fetch.pc && x.2.1 == size && prefixShape size x.2.2 && decide (decode x.2.2 = .instr pre) &&
        (mainOf l).any fun i => refuses pre i

theorem witness_Prefixes_refused : refusedFirst clsAdd 2 (.C_CLS 3 0 0 0) = true ∧ refusedFirst stampAdd 4 (.STAMP 1200) = true := by decide +kernel

/-- A load of own Ember whose fault is deferred. -/
def marked : State := on fun c => { c with marks := [⟨3, 5, 0x09, 0x50, 0⟩] }

theorem witness_Yield : (me base).deferred anyClass = none ∧ runs marked 4 .plain = true ∧ ((me marked).deferred anyClass).isSome = true := by
  decide +kernel

/-- In the handler, with saved positions. -/
def inHandler : State := on fun c => { c with csr := { c.csr with h := true, fpc := 0x40000, npc := 0x40004, nnpc := 0x40008, ann := 2, tgt := 5 } }

theorem witness_ReturnFromTrap : runs base 4 .rett = true ∧ (me base).csr.h = false ∧ runs inHandler 4 .rett = true ∧ (me inHandler).csr.h = true := by
  decide +kernel

/-- A task with a command queued, a gang member that is ready, and a task that is ready. -/
def withCommand : State := on fun c => c.setE 3 { c.getE 3 with queue := [{ kind := .rowsm }] }
def member : State := on fun c => { c with task := some { c.theTask with gang := true, nlvl := 1 } }

theorem witness_EndOfTask :
    (runs withCommand 4 .plain && ((me withCommand).deferred anyClass).isNone && !(me withCommand).endReady) = true ∧
    (runs member 4 .plain && ((me member).deferred anyClass).isNone && (me member).endReady && (me member).theTask.gang) = true ∧
    (runs base 4 .plain && ((me base).deferred anyClass).isNone && (me base).endReady && !(me base).theTask.gang) = true := by decide +kernel

/-- A fence with accesses outstanding and without. -/
theorem witness_Fences : ∀ s ∈ [base, withCommand], (∃ n, plain s 4 n) ∧ ∃ vs c, reads (me s) [1] [] 0 vs c := by
  have h : [base, withCommand].all (fun s => fits s 4 .plain (me s).fetch none && sees s [1] [] 0) = true := by decide +kernel
  intro s hs
  have h := List.all_eq_true.1 h s hs
  rw [Bool.and_eq_true] at h
  exact ⟨plain_of h.1, reads_of h.2⟩

theorem witness_Fences_deferred : (me base).deferred (fun _ => true) = none ∧ (me withCommand).deferred (fun _ => true) = none ∧
    (me base).fenceDone base.now (fun _ => true) = true ∧ (me withCommand).fenceDone withCommand.now (fun _ => true) = false := by decide +kernel

/-- WAITV outside the window, misaligned, without a request, and with its word there. -/
def waits (x : Word) (bs : Option (List Byte)) : State := (at_ x).setCore 0
  { (at_ x).core 0 with reads := match bs with | none => [] | some bytes => [{ who := .waitv, off := 0, len := 8, issue := 0, here := true, bytes }] }

theorem witness_WaitForValue : ∀ s ∈ [base, waits 0xE000000000000001 none, waits 0xE000000000000000 none,
      waits 0xE000000000000000 (some [0, 0, 0, 0, 0, 0, 0, 128])],
    (∃ n, plain s 4 n) ∧ ∃ vs c, reads (me s) [1, 2] [] 0 vs c := by
  have h : [base, waits 0xE000000000000001 none, waits 0xE000000000000000 none,
      waits 0xE000000000000000 (some [0, 0, 0, 0, 0, 0, 0, 128])].all (fun s =>
      fits s 4 .plain (me s).fetch none && sees s [1, 2] [] 0) = true := by decide +kernel
  intro s hs
  have h := List.all_eq_true.1 h s hs
  rw [Bool.and_eq_true] at h
  exact ⟨plain_of h.1, reads_of h.2⟩

theorem witness_WaitForValue_clauses : let s := waits 0xE000000000000000 none
    let t := waits 0xE000000000000000 (some [0, 0, 0, 0, 0, 0, 0, 128])
    (me s).getS 1 = 0xE000000000000000 ∧ (me s).reading Reader.isWaitv = none ∧ (me s).classStall s.now ((me s).access 0).1 = false ∧
    ((me s).ember.rowAt 0).isSome = true ∧ ((me s).csr.dbgPend && (me s).pendingByte s.now 0 8) = false ∧
    ((me t).reading Reader.isWaitv).any (fun r => r.here && r.code.isNone && leNat r.bytes == 2 ^ 63) = true := by decide +kernel

/-! ### Witnesses: the hub, tables, row groups and power -/

/-- States in which a position can be performed and read its sources. -/
theorem witness_of {ss : List State} {xs beside : List Nat} {d : Nat}
    (h : ss.all (fun s => fits s 4 .plain (me s).fetch none && sees s xs beside d) = true) :
    ∀ s ∈ ss, (∃ n, plain s 4 n) ∧ ∃ vs c, reads (me s) xs beside d vs c := by
  intro s hs
  have h := List.all_eq_true.1 h s hs
  rw [Bool.and_eq_true] at h
  exact ⟨plain_of h.1, reads_of h.2⟩

/-- A member of a gang of two with tag 8 live at phase `ph`, stalled as given; `s1` names the tag. -/
def atBar (ph : BitVec 32) (arr : Bool) (st : Option Stall) (x : Word := 8) : State := on fun c =>
  { c.setS 1 x with task := some { c.theTask with gang := true, nlvl := 1 }, tags := c.tags.set 8 { ph, live := true, arr }, stall := st }

/-- The states of the clauses: a tag that is not usable; one fresh or not, its instance complete or not. -/
def barStates : List State :=
  [atBar 0 false none 1, atBar 0 false none, atBar 1 false none, atBar 0 true (some (.barrier 8 false)), atBar 1 true none, atBar 1 false (some (.arrived 8))]

theorem witness_Barriers : ∀ s ∈ barStates, (∃ n, plain s 4 n) ∧ ∃ vs c, reads (me s) [1] [] 0 vs c := witness_of (by decide +kernel)

theorem witness_Barriers_clauses : barStates.map (fun s => ((me s).tagOk ((me s).getS 1).toNat, tagDone s 8)) =
    [(false, true), (true, true), (true, false), (true, true), (true, false), (true, false)] := by decide +kernel

/-- A counter of an unknown package, a gang member, a task with nothing outstanding, and one with a command outstanding. -/
theorem witness_DependenceDecrement : (∀ s ∈ [regs [(1, 0x401000)], member, base, withCommand], (∃ n, plain s 4 n) ∧ ∃ vs c, reads (me s) [1] [] 0 vs c) ∧
    decUnknown base 0x401000 = true ∧ decUnknown base 0xFFF = false ∧ (me member).theTask.gang = true ∧
    (me base).theTask.gang = false ∧ (me base).settled base.now = true ∧ (me withCommand).settled withCommand.now = false :=
  ⟨witness_of (by decide +kernel), by decide +kernel⟩

/-- The hub with a card for core 0's task and template 3 that the task may use, its patch mask allowing doubleword 63. -/
def withCard (s : State) : State := s.setHub { s.hub with
  cards := [{ id := (me s).theTask.card, image := 0, func := (me s).theTask.func, st := .running }]
  templates := [⟨3, ((Vector.replicate 72 0).set 64 0x8000000000000000).set 65 0xC00000000⟩] }

def patching (w : Option Nat) : State := withCard (on fun c => { c.setS 1 0xFC03 with wait := w })

theorem witness_TemplatePatch : (∀ s ∈ [base, patching none, patching (some 0)], (∃ n, plain s 4 n) ∧ ∃ vs c, reads (me s) [1, 2] [] 0 vs c) ∧
    usable (base.hub.template 0) (me base).theTask = false ∧
    ((patching none).hub.template 3)[64].getLsbD 63 = true ∧ usable ((patching none).hub.template 3) (me (patching none)).theTask = true :=
  ⟨witness_of (by decide +kernel), by decide +kernel⟩

theorem witness_Spawn : (∀ s ∈ [base, patching none, withCard withCommand], (∃ n, plain s 4 n) ∧ ∃ vs c, reads (me s) [1] [] 0 vs c) ∧
    (me (patching none)).settled 0 = true ∧ ((patching none).hub.card (me (patching none)).theTask.card).isSome = true ∧
    usable ((withCard withCommand).hub.template 3) (me withCommand).theTask = true ∧ (me withCommand).settled 0 = false :=
  ⟨witness_of (by decide +kernel), by decide +kernel⟩

/-- TDCLR of the last descriptor, and past it. -/
theorem witness_DescriptorsAndBounds : ∀ s ∈ [regs [(1, 0x7F)], regs [(1, 0xBF)]], (∃ n, plain s 4 n) ∧ ∃ vs c, reads (me s) [1] [] 0 vs c :=
  witness_of (by decide +kernel)

/-- TDCOPY with its data there, with a fault there, and before it asks: own Ember and operand SRAM. -/
def tdReads (y : Word) (r : Option (Option Byte)) : State := (at_ y).setCore 0
  { (at_ y).core 0 with reads := match r with | none => [] | some code => [{ who := .tdcopy 0, off := 0, len := 32, issue := 0, here := true, code }] }

def tdStates : List State := [tdReads 0xE000000000000FE0 (some none), tdReads 0xE000000000000FE0 (some (some 0x1A)), tdReads 0xE000000000000FE0 none,
  tdReads 0xE100000000000000 none, tdReads 0x40000 none]

theorem witness_DescriptorCopy : (∀ s ∈ tdStates, (∃ n, plain s 4 n) ∧ ∃ vs c, reads (me s) [2, 1] [] 0 vs c) ∧
    tdStates.map (fun s => ((me s).reading Reader.isTd).map fun r => (r.here, r.code)) = [some (true, none), some (true, some 0x1A), none, none, none] ∧
    (tdStates.all fun s => !(me s).classStall s.now 0 && ((me s).ember.rowAt 0xFE0).isSome) = true :=
  ⟨witness_of (by decide +kernel), by decide +kernel⟩

theorem witness_DescriptorCopy_global : let s := tdReads 0x40000 none
    spaceOf 0x40000 = .glob 0x40000 ∧ (globalAt s.mem (me s).theTask 0x40000 needRd).toOption.isSome = true ∧ (me s).ld ≤ 16 ∧ (me s).fly = [] := by
  decide +kernel

/-- A range of one held row group, with and without a store on its way. -/
def oneRow (st : Bool) : State := (at_ 0xE000000000000000).setCore 0
  { ((at_ 0xE000000000000000).core 0).setS 2 1 with exposed := if st then [{ id := 1, t := 0, off := 0, data := [1], cls := 0 }] else [] }

theorem witness_RowGroups : (∀ s ∈ [oneRow false, oneRow true], (∃ n, plain s 4 n) ∧ ∃ vs c, reads (me s) [1, 2] [] 0 vs c) ∧
    rowRange 0xE000000000000000 1 = true ∧ rowRange 0xE00000000FFFF000 1 = true ∧ rowRange 0xE00000000FFFF000 2 = false ∧
    (me (oneRow false)).emberBusy 0 = false ∧ (me (oneRow true)).emberBusy 0 = true ∧ (me (oneRow false)).ember.bound = none ∧
    ((me (oneRow false)).ember.row 0).isSome = true :=
  ⟨witness_of (by decide +kernel), by decide +kernel⟩

theorem witness_RowGroupAge : (∀ s ∈ [oneRow false, regs [(1, 0xE00000000FFFF001)], base], (∃ n, plain s 4 n) ∧ ∃ vs c, reads (me s) [1] [] 31 vs c) ∧
    ((me base).ember.row 0).isNone = true ∧
    (((me (oneRow false)).ember.row 0).any fun r => decide (r.age < 256) && decide (r.cls < 8) && decide (r.ltag < 16)) = true :=
  ⟨witness_of (by decide +kernel), by decide +kernel⟩

/-- A power region of level 100, a request granted or not, at a boundary or not; `s1` holds the level asked for. -/
def power (lv : Word) (grant : Bool) (q : Option PwrReq) (stamp : Nat) : State :=
  (on fun c => { c.setS 1 lv with csr := { c.csr with grant, level := if grant then 100 else 0 }, pwrReq := q }).setClock
    fun k => { k with stamp := BitVec.ofNat 64 stamp }

def powerStates : List State := [power 0 true none 1, power 100 true none 1, power 101 true (some { level := 101, granted := true }) 1,
  power 101 true (some { level := 101 }) 1, power 257 false none 1, power 257 false none 4]

theorem witness_PowerRegions : (∀ s ∈ powerStates, (∃ n, plain s 4 n) ∧ ∃ vs c, reads (me s) [1] [] 0 vs c) ∧
    powerStates.map (fun s => (s.boundary, (me s).csr.grant)) =
      [(false, true), (false, true), (false, true), (false, true), (false, false), (true, false)] ∧
    reads (me (power 0 true none 1)) [] [] 31 [] (me (power 0 true none 1)) :=
  ⟨witness_of (by decide +kernel), by decide +kernel, by decide +kernel, rfl⟩

/-! ### Witnesses: vector instructions -/

/-- Some state of a list in which a position can be performed, no interlock holds and `p` holds. -/
theorem some_of {ss : List State} {xs : List Nat} {d : Nat} {p : State → Bool}
    (h : ss.any (fun s => fits s 4 .plain (me s).fetch none && ((me s).hazard xs d).isNone && p s) = true) :
    ∃ s n, plain s 4 n ∧ (me s).hazard xs d = none ∧ p s = true := by
  obtain ⟨s, -, hs⟩ := List.any_eq_true.1 h
  simp only [Bool.and_eq_true, Option.isNone_iff_eq_none] at hs
  obtain ⟨n, hn⟩ := plain_of hs.1.1
  exact ⟨s, n, hn, hs.1.2, hs.2⟩

/-- Every vector register holds two elements of format `f`, `v0` of format `g`; `s2` is a vector's format and length for R173. -/
def vecs (f g : Nat) (x : Word := 0) (pois : List Nat := []) : State := on fun c =>
  { (c.setS 1 0).setS 2 x with v := (Vector.replicate 32 { fmt := f, runs := [(2, 1)], pois }).set 0 { fmt := g, runs := [(2, 1)] } }

def vecStates : List State := [vecs 1 15, vecs 12 15, vecs 15 15, vecs 1 1]

theorem witness_VectorElementwise : ∀ r ∈ vector2 31 2 3 0 1 ++ vector1 1 26 2 0 6,
    (∃ s n, plain s 4 n ∧ (me s).hazard [] 0 = none ∧ r.ready (me s) = true) ∧
    ∃ s n, plain s 4 n ∧ (me s).hazard [] 0 = none ∧ (decide (0 < r.g) && (r.named (me s)).isSome) = true := by
  have h : (vector2 31 2 3 0 1 ++ vector1 1 26 2 0 6).all (fun r =>
      vecStates.any (fun s => fits s 4 .plain (me s).fetch none && ((me s).hazard [] 0).isNone && r.ready (me s)) &&
      [vecs 1 15, vecs 0 1, vecs 16 16].any (fun s => fits s 4 .plain (me s).fetch none && ((me s).hazard [] 0).isNone && (decide (0 < r.g) && (r.named (me s)).isSome))) = true := by
    decide +kernel
  intro r hr
  have h := List.all_eq_true.1 h r hr
  rw [Bool.and_eq_true] at h
  exact ⟨some_of h.1, some_of h.2⟩

/-- The premises of the clauses about runs, and a VSCAN that is ready. -/
theorem witness_CoalesceAndScan : (valOf 1 0x3F800000).isZero = false ∧ (valOf 1 0x80000000).isZero = true ∧
    (coalesce [(1, 5), (1, 5), (2, 6)])[1]? = some (2, 6) ∧
    ∃ s n, plain s 4 n ∧ (me s).hazard [] 0 = none ∧ ((me s).getV 26).fmt = 12 := by
  refine ⟨by decide +kernel, by decide +kernel, by decide, vecs 12 15, ?_⟩
  have h : fits (vecs 12 15) 4 .plain (me (vecs 12 15)).fetch none = true ∧ (me (vecs 12 15)).hazard [] 0 = none ∧
      ((me (vecs 12 15)).getV 26).fmt = 12 := by decide +kernel
  obtain ⟨n, hn⟩ := plain_of h.1
  exact ⟨n, hn, h.2⟩

/-- Poisoned elements that are active. -/
def spoilt : State := (vecs 1 15 0 [0]).setCore 0 ((me (vecs 1 15 0 [0])).setK 7 { count := 131071, wid := 3 })

/-- A reduction that is ready, one whose source is poisoned, and one whose parts differ in format. -/
theorem witness_Reductions : ∀ r ∈ reductions 31 26 7 6,
    (∃ s n, plain s 4 n ∧ (me s).hazard [] 31 = none ∧ (r.ready (me s) && ((me s).slotErrors (r.read (me s))).1 == 0) = true) ∧
    (∃ s n, plain s 4 n ∧ (me s).hazard [] 31 = none ∧ (r.ready (me s) && ((me s).slotErrors (r.read (me s))).1 != 0) = true) ∧
    ∃ s n, plain s 4 n ∧ (me s).hazard [] 31 = none ∧ (groupNamed (me s) r.a r.g r.ok).isSome = true := by
  have h : (reductions 31 26 7 6).all (fun r =>
      [vecs 1 15].any (fun s => fits s 4 .plain (me s).fetch none && ((me s).hazard [] 31).isNone && (r.ready (me s) && ((me s).slotErrors (r.read (me s))).1 == 0)) &&
      [spoilt].any (fun s => fits s 4 .plain (me s).fetch none && ((me s).hazard [] 31).isNone && (r.ready (me s) && ((me s).slotErrors (r.read (me s))).1 != 0)) &&
      [vecs 16 16].any (fun s => fits s 4 .plain (me s).fetch none && ((me s).hazard [] 31).isNone && (groupNamed (me s) r.a r.g r.ok).isSome)) = true := by
    decide +kernel
  intro r hr
  have h := List.all_eq_true.1 h r hr
  rw [Bool.and_eq_true, Bool.and_eq_true] at h
  exact ⟨some_of h.1.1, some_of h.1.2, some_of h.2⟩

/-- VEXTR of the last element and past it; PCNT of a BOOL and of another register. -/
theorem witness_VectorQueries : (∃ s n, plain s 4 n ∧ (me s).hazard [2] 31 = none ∧
      ((elems (me s) 31)[((me s).getS 2).toNat]?.isSome && ((me s).slotErrors [(me s).allSlots 31]).1 == 0) = true) ∧
    (∃ s n, plain s 4 n ∧ (me s).hazard [2] 31 = none ∧ decide ((elems (me s) 31).length ≤ ((me s).getS 2).toNat) = true) ∧
    (∃ s n, plain s 4 n ∧ (me s).hazard [] 0 = none ∧ (((me s).getV 0).fmt == 15 && ((me s).slotErrors [(me s).allSlots 0]).1 == 0) = true) ∧
    (∃ s n, plain s 4 n ∧ (me s).hazard [] 0 = none ∧ (((me s).getV 31).fmt != 15) = true) ∧
    ∀ x ∈ [(30, none), (31, some 31)], groupNamed (me (vecs 1 15)) x.1 2 (fun _ => true) = x.2 := by
  refine ⟨some_of (ss := [vecs 1 15 1]) ?_, some_of (ss := [vecs 1 15 2]) ?_, some_of (ss := [vecs 1 15]) ?_, some_of (ss := [vecs 1 15]) ?_, ?_⟩ <;>
    decide +kernel

/-- Each form that builds a vector, with its check met and not met. -/
theorem witness_VectorBuilding : ∀ r ∈ oneParts 31 30 2 7,
    (∃ s n, plain s 4 n ∧ (me s).hazard r.regs 0 = none ∧ r.ok (me s) = true) ∧
    ∃ s n, plain s 4 n ∧ (me s).hazard r.regs 0 = none ∧ (!r.ok (me s)) = true := by
  have h : (oneParts 31 30 2 7).all (fun r =>
      [vecs 12 15 0xC0002, vecs 12 15 2].any (fun s => fits s 4 .plain (me s).fetch none && ((me s).hazard r.regs 0).isNone && r.ok (me s)) &&
      [vecs 12 15 0xA0003, vecs 12 15 0x10000, (vecs 12 15).setCore 0 { (me (vecs 12 15)) with v := (me (vecs 12 15)).v.set 2 { fmt := 1 } }].any
        (fun s => fits s 4 .plain (me s).fetch none && ((me s).hazard r.regs 0).isNone && !r.ok (me s))) = true := by
    decide +kernel
  intro r hr
  have h := List.all_eq_true.1 h r hr
  rw [Bool.and_eq_true] at h
  exact ⟨some_of h.1, some_of h.2⟩

/-- Vector memory at own Ember: `s1` the address, `s2` a stride of 4 and two elements; a data register of format `f`. -/
def vecAt (f : Nat) (x y : Word) : State := (at_ x).setCore 0
  { ((at_ x).core 0).setS 2 y with v := Vector.replicate 32 { fmt := f, runs := [(2, 1)] } }

theorem witness_VectorMemory : ∀ r ∈ vectorAccesses 31 1 2 0 1,
    (∃ s n, plain s 4 n ∧ (me s).hazard r.regs 0 = none ∧ (!r.ok (me s)) = true) ∧
    ∃ s n, plain s 4 n ∧ (me s).hazard r.regs 0 = none ∧ (r.ok (me s) && ((me s).slotErrors (r.read (me s))).1 == 0 && !(me s).classStall s.now (clsOf (me s) 0) &&
      !(r.list (me s)).isEmpty &&
      (vAccesses s (me s) (me s).nextId (r.kind == .store) (if r.kind == .store then (me s).linesSoon else ([], 0)) (r.list (me s))).2.isNone) = true := by
  have h : (vectorAccesses 31 1 2 0 1).all (fun r =>
      [vecAt 1 0xE000000000000000 0x2001, (vecAt 15 0xE000000000000000 0).setCore 0 { (me (vecAt 15 0xE000000000000000 0)) with
        csr := { (me (vecAt 15 0xE000000000000000 0)).csr with vmg := 7 } }].any
        (fun s => fits s 4 .plain (me s).fetch none && ((me s).hazard r.regs 0).isNone && !r.ok (me s)) &&
      [vecAt 1 0xE000000000000000 0x400000002, vecAt 1 0xE000000000000000 2].any (fun s => fits s 4 .plain (me s).fetch none &&
        ((me s).hazard r.regs 0).isNone && (r.ok (me s) && ((me s).slotErrors (r.read (me s))).1 == 0 && !(me s).classStall s.now (clsOf (me s) 0) && !(r.list (me s)).isEmpty &&
        (vAccesses s (me s) (me s).nextId (r.kind == .store) (if r.kind == .store then (me s).linesSoon else ([], 0)) (r.list (me s))).2.isNone))) = true := by
    decide +kernel
  intro r hr
  have h := List.all_eq_true.1 h r hr
  rw [Bool.and_eq_true] at h
  exact ⟨some_of h.1, some_of h.2⟩

/-- VPOP: a format it refuses, a feed without enough elements, bound or not, and one with just enough. -/
def popping (n : Word) (es : Nat) (pb : Nat) : State := on fun c =>
  { c.setS 1 n with feeds := c.feeds.set 7 { elems := List.replicate es (1, 5), pb } }

/-- The last of the elements to be popped has lost its parity. -/
def lost : State := on fun c => { c.setS 1 2 with feeds := c.feeds.set 7 { elems := [(1, 5), (1, 6)], count := 9, pois := [8] } }

theorem witness_VectorPop : ∀ p ∈ [(1, popping 65 64 0), (1, popping 64 63 0), (1, popping 64 63 1), (1, popping 64 64 0), (8, popping 1 1 0), (1, lost)],
    (∃ n, plain p.2 4 n) ∧ (me p.2).hazard [1] 0 = none := by
  have h : [(1, popping 65 64 0), (1, popping 64 63 0), (1, popping 64 63 1), (1, popping 64 64 0), (8, popping 1 1 0), (1, lost)].all (fun p =>
      fits p.2 4 .plain (me p.2).fetch none && ((me p.2).hazard [1] 0).isNone) = true := by decide +kernel
  intro p hp
  have h := List.all_eq_true.1 h p hp
  rw [Bool.and_eq_true, Option.isNone_iff_eq_none] at h
  exact ⟨plain_of h.1, h.2⟩


/-- A slot and a feed element that have lost their parity. -/
theorem witness_LostParity :
    (let s := on fun c => { c with q := c.q.set 0 { val := 3, pois := true } }
     runs s 4 .plain = true ∧ (vget (me s).q 0 {}).pois = true ∧ (me s).producer 1 = none ∧ (me s).producer 32 = none) ∧
    (let f := vget (me lost).feeds 7 {}
     runs lost 4 .plain = true ∧ f.elems.isEmpty = false ∧ f.poisoned 1 = none ∧ f.poisoned 2 = some 8 ∧
     ({ f with pois := [7] } : Feed).poisoned 1 = some 7 ∧ f.count - f.elems.length = 7) := by decide +kernel

/-- A state whose Ember, descriptors, feeds and queues soft errors can strike, with die 0 below the guard band. -/
def fragile : State :=
  let s := on fun c => { (c.setTd 3 7) with ember := { c.ember with rows := [{ g := 0, st := .valid }] }, feeds := c.feeds.set 7 { elems := [(1, 5), (1, 6)], count := 9 } }
  s.setDie 0 { s.die 0 with volt := 3 }

theorem witness_SoftErrors :
    ((me fragile).ember.rowAt 16).any (·.st == .valid) = true ∧ ((me fragile).ember.rowAt 4096).any (·.st == .valid) = false ∧
    0 < (fragile.die (dieOf 0)).volt ∧ (let x := (fragile.core 0).getTd 3; fld x 120 8 = csumOf x) ∧
    (fragile.core 0).feeds[(7 : Fin 8)].elems.length = 2 ∧ ((List.replicate 8 (1 : Byte)).length = 8 ∧ 16 % 8 = 0) ∧
    ((List.replicate 7 (1 : Byte)).length < 8) := by decide +kernel

/-- R204, R346, R416: poison of a word, the parity of a feed element and the CSUM of a changed descriptor. -/
theorem test_suffer :
    ((fragile.suffer (.word 0 false 16 true)).core 0).ember.mem.poisonIn 20 1 = some 16 ∧
    (((fragile.suffer (.feed 0 7 1)).core 0).feeds[(7 : Fin 8)]).poisoned 2 = some 8 ∧
    (let y := ((fragile.suffer (.descriptor 0 3 125)).core 0).getTd 3; fld y 120 8 ≠ csumOf y) := by decide +kernel

/-! ### Witnesses: engine commands -/

/-- A descriptor image: base, D0, D1, format, space, row stride (R344). -/
def image (base d0 d1 fmt space s1 : Nat) : BitVec 256 :=
  withCsum (setFld (setFld (setFld (setFld (setFld (setFld 0 0 48 base) 48 16 d0) 64 16 d1) 80 4 fmt) 84 2 space) 160 32 s1)

/-- Descriptors 1 to 8: FP32 and BF16 in own Ember, INT32 indices, FP32 and BF16 in operand SRAM, AQ8 in Ember, BYTE in Ember, a parameter row. A
region of level 256, port 2 trained with member 5. -/
def tables : State := { on fun c => { c with
    td := [(1, image 0 4 4 1 0 16), (2, image 4096 4 4 2 0 8), (3, image 8192 4 4 13 0 16), (4, image 0 4 4 1 2 16), (5, image 0 4 4 2 2 8),
      (6, image 65536 4 4 8 0 4), (7, image 131072 512 1 14 0 512), (8, image 12288 4 2 1 0 16),
      (9, image 8192 4 4 13 0 16), (10, image 16384 4 4 13 2 16)].foldl (fun t x => vput t x.1 x.2) c.td
    b := c.b.set 3 0x10000
    csr := { c.csr with grant := true, level := 256 } } with
  ports := base.ports.set 2 { base.ports[2] with trained := true, peer := some 5 }
  chorus := { base.chorus with members := [{ idx := 5, st := 2 }] } }

/-- As `tables`, every queue full. -/
def full (q : Cmd) : State := tables.setCore 0 { me tables with eng := (me tables).eng.map fun e => { e with queue := List.replicate 32 q } }

/-- As `base`, with a stamp prefix and no region. -/
def stamped : State := on fun c => { c with pfx := some { stamp := some 3, first := c.fetch, loop := c.loop } }

/-- The commands with operands that pass every check of `tables`. -/
def passing : List Command :=
  (copies 0 1 2 0 0 0 0 7 3).take 2 ++ ((copies 0 1 6 0 0 0 0 0 0).drop 2).take 1 ++ ((copies 0 1 6 1 1 0 0 0 0).drop 2).take 1 ++
  ((copies 0 4 1 0 0 1 15 7 3).drop 3).take 3 ++ ((copies 0 7 6 0 0 0 0 0 0).drop 6).take 1 ++
  swages 1 3 1 7 ++ swages 3 9 4 0 ++ rows 8 0 1 2 ++ (anvils 3 0 2 2 5 1 0 0).take 3 ++ (anvils 0 2 0 1 1 16 1 1).drop 1 ++ (links 0 2 1 2).take 3 ++
  (links 3 2 1 2).drop 3

/-- Every command can enter, can find its queue full, and can fail a check; MZERO fails only stamped. -/
theorem witness_commands : ∀ r ∈ passing, (∃ n, plain tables 4 n) ∧ ((r.checks tables).find? fun x => !x.2.2) = none ∧
    ((me tables).eng[r.e]).queue.length < 32 := by
  have h : fits tables 4 .plain (me tables).fetch none = true ∧ passing.all (fun r => ((r.checks tables).all fun x => x.2.2) &&
      decide (((me tables).eng[r.e]).queue.length < 32)) = true := by decide +kernel
  intro r hr
  have h2 := List.all_eq_true.1 h.2 r hr
  rw [Bool.and_eq_true, decide_eq_true_eq] at h2
  refine ⟨plain_of h.1, ?_, h2.2⟩
  rw [List.find?_eq_none]
  intro x hx
  simpa using List.all_eq_true.1 h2.1 x hx

theorem witness_commands_full : ∀ r ∈ passing, (∃ n, plain (full { kind := .copyf }) 4 n) ∧
    32 ≤ ((me (full { kind := .copyf })).eng[r.e]).queue.length := by
  have h : fits (full { kind := .copyf }) 4 .plain (me (full { kind := .copyf })).fetch none = true ∧
      passing.all (fun r => decide (32 ≤ ((me (full { kind := .copyf })).eng[r.e]).queue.length)) = true := by decide +kernel
  intro r hr
  exact ⟨plain_of h.1, of_decide_eq_true (List.all_eq_true.1 h.2 r hr)⟩

theorem witness_commands_refused : ∀ r ∈ passing, (∃ n, plain stamped 4 n) ∧ ((r.checks stamped).find? fun x => !x.2.2).isSome = true := by
  have h : fits stamped 4 .plain (me stamped).fetch none = true ∧
      passing.all (fun r => ((r.checks stamped).find? fun x => !x.2.2).isSome) = true := by decide +kernel
  intro r hr
  exact ⟨plain_of h.1, List.all_eq_true.1 h.2 r hr⟩

/-! ### Witnesses: events of a core -/

/-- What an optional value that passes a test gives. -/
theorem opt_of {α : Type} {o : Option α} {p : α → Bool} (h : o.any p = true) : ∃ x, o = some x ∧ p x = true := by
  cases o with
  | none => simp at h
  | some x => exact ⟨x, rfl, h⟩

/-- What a computation that gives a result passing a test gives. -/
theorem ok_of {ε α : Type} {o : Except ε α} {p : α → Bool} (h : o.toOption.any p = true) : ∃ x, o = .ok x ∧ p x = true := by
  cases o with
  | error e => simp [Except.toOption] at h
  | ok x => exact ⟨x, rfl, h⟩

/-- Results that land: one with a value for `s5` and its pending slot, one with a fault. -/
def flying : State := on fun c => { c with
  q := c.q.set 0 { pend := some 3 }
  fly := [{ id := 3, dst := 5, val := 7, due := some 0 }, { id := 4, dst := 0, due := some 0, mark := some 0x1A },
    { id := 5, dst := 6, val := 0x40000, size := 8, walk := some 0, fwd := List.replicate 8 none }] }

theorem witness_ResultLands : (∃ f : Fly, (flying.core 0).fly.find? (·.id == 3) = some f ∧ (f.due == some 0 && f.mark == none) = true) ∧
    ∃ f : Fly, (flying.core 0).fly.find? (·.id == 4) = some f ∧ (f.due == some 0 && f.mark == some 0x1A) = true :=
  ⟨opt_of (by decide +kernel), opt_of (by decide +kernel)⟩

/-- A read of a load, of a TDCOPY and of a WAITV that have reached their landing cycle. -/
def reading (w : Reader) : State := on fun c => { c with
  ember := { c.ember with rows := [{ g := 0, st := .valid }] }
  fly := [{ id := 3, dst := 5, size := 8 }]
  reads := [{ who := w, off := 0, len := 8, issue := 0, land := some 0, bytes := List.replicate 8 1 }] }

theorem witness_EmberReadsLand :
    (∃ r, ((reading (.load 3)).core 0).reads.find? (fun r => (if 3 = 0 then r.who.isTd else r.who == .load 3) && landing r (reading (.load 3)).now)
      = some r ∧ readCode (reading (.load 3)) 0 r .double = some 0x1A) ∧
    (∃ r, ((reading (.tdcopy 1)).core 0).reads.find? (fun r => (if 0 = 0 then r.who.isTd else r.who == .load 0) &&
      landing r (reading (.tdcopy 1)).now) = some r ∧ readCode (reading (.tdcopy 1)) 0 r .clean = none) ∧
    ∃ r, ((reading .waitv).core 0).reads.find? (fun r => r.who.isWaitv && !r.here &&
      (match r.land with | none => false | some d => decide (d ≤ (reading .waitv).now))) = some r ∧ r.unit = 0 := by
  refine ⟨?_, ?_, ?_⟩
  · obtain ⟨r, h, h2⟩ := opt_of (p := fun r => readCode (reading (.load 3)) 0 r .double == some 0x1A) (o := ((reading (.load 3)).core 0).reads.find?
      fun r => (if 3 = 0 then r.who.isTd else r.who == .load 3) && landing r (reading (.load 3)).now) (by decide +kernel)
    exact ⟨r, h, beq_iff_eq.1 h2⟩
  · obtain ⟨r, h, h2⟩ := opt_of (p := fun r => readCode (reading (.tdcopy 1)) 0 r .clean == none) (o := ((reading (.tdcopy 1)).core 0).reads.find?
      fun r => (if 0 = 0 then r.who.isTd else r.who == .load 0) && landing r (reading (.tdcopy 1)).now) (by decide +kernel)
    exact ⟨r, h, beq_iff_eq.1 h2⟩
  · obtain ⟨r, h, h2⟩ := opt_of (p := fun r => r.unit == 0) (o := ((reading .waitv).core 0).reads.find? fun r => r.who.isWaitv && !r.here &&
      (match r.land with | none => false | some d => decide (d ≤ (reading .waitv).now))) (by decide +kernel)
    exact ⟨r, h, beq_iff_eq.1 h2⟩

theorem witness_GlobalLoadFixed : ∃ f : Fly, (flying.core 0).fly.find? (fun f => f.id == 5 && f.walk.isSome) = some f ∧
    (f.fwd == List.replicate f.size none && f.size != 0) = true := opt_of (by decide +kernel)

/-- A vector instruction whose occupancy is over: `m` is its memory part. -/
def occupied (m : Option VMem) : State := (on fun c => { c with vbusy := some { issue := 0, until_ := 4, mem := m } }).setClock
  fun k => { k with now := 200 }

/-- A strided load of FP32 by two elements in own Ember, the second of which has failed with `code`. -/
def strided (code : Option Byte) : VMem :=
  let el (i : Nat) (code : Option Byte) : VElem := { ea := 0xE000000000000000 + 4 * i, place := .ember 0, addr := 4 * i, n := 4, data := some [1, 0, 0, 0], code }
  { kind := .strided, dst := 3, fmt := 1, per := 2, active := [2], k := 0, slots := 0, elems := [el 0 none, el 1 code], stop := none
    ember := [], side := [], glob := none, land := 0, ld := false, rel := none }

theorem witness_VectorEnds : ([none, some (strided none), some (strided (some 0x1A))].all fun m => (occupied m).vecEnds 0) = true ∧
    (∃ x, (strided (some 0x1A)).finish ((occupied none).core 0) (Config.wild 0) = .error x) ∧
    (∃ x, (strided none).finish ((occupied none).core 0) (Config.wild 0) = .ok x ∧ (decide (x.1.fetch = ((occupied none).core 0).fetch)) = true) ∧
    ∃ n, leads (Claims.at_ (occupied (some (strided none))) 0) ((occupied none).core 0).fetch none n := by
  refine ⟨by decide +kernel, ⟨_, rfl⟩, ok_of (by decide +kernel), ?_⟩
  have h : fits (Claims.at_ (occupied (some (strided none))) 0) 4 .plain ((occupied none).core 0).fetch none = true := by decide +kernel
  exact (leads_of h).2

theorem witness_StridedLoadResult : (strided none).kind = .strided ∧ (strided none).active = [2] ∧ (strided none).stop = none ∧
    ((strided none).elems.all fun x => x.code.isNone) = true ∧ (strided none).elems.length = 2 ∧
    ∃ x, (strided none).finish ((occupied none).core 0) 0 = .ok x ∧ true = true :=
  ⟨rfl, rfl, rfl, rfl, rfl, ok_of (by decide +kernel)⟩

/-- An annulled position, plain and a header at a target; a stall on counters; a running core. -/
def annulled (w : Nat) (tgt : Bool) : State :=
  let s := State.reset.withFetchWord 32 w
  s.setCore 0 { s.core 0 with fetch := { (s.core 0).fetch with pc := { (s.core 0).fetch.pc with ann := true, tgt } }, stall := some (.counters 2) }

theorem witness_PositionEvents : ∀ x ∈ [(0x10000003, false), (0x00100181, true)], ∃ size w, let s := annulled x.1 x.2
    (s.core 0).run = .running ∧ (s.core 0).fetch.pc.ann = true ∧ (s.core 0).stall = some (.counters 2) ∧
    wordAt s.mem (s.core 0).theTask (s.core 0).loop (s.core 0).fetch.pc.addr.toNat = .ok (size, w) ∧
    (isHeader s.mem (s.core 0).theTask (s.core 0).loop (s.core 0).fetch.pc.addr.toNat = x.2 ∧
      runs (Claims.at_ s 0) size (if x.2 then .header else .plain) = true) ∧ ∃ n, leads (Claims.at_ s 0) (s.core 0).fetch none n := by
  have h : [(0x10000003, false), (0x00100181, true)].all (fun (x : Nat × Bool) => let s := annulled x.1 x.2
      (wordAt s.mem (s.core 0).theTask (s.core 0).loop (s.core 0).fetch.pc.addr.toNat).toOption.any (fun y =>
        isHeader s.mem (s.core 0).theTask (s.core 0).loop (s.core 0).fetch.pc.addr.toNat == x.2 &&
        fits (Claims.at_ s 0) y.1 (if x.2 then .header else .plain) (s.core 0).fetch none) &&
      decide ((s.core 0).run = .running ∧ (s.core 0).fetch.pc.ann = true ∧ (s.core 0).stall = some (.counters 2))) = true := by decide +kernel
  intro x hx
  have h := List.all_eq_true.1 h x hx
  rw [Bool.and_eq_true, decide_eq_true_eq] at h
  obtain ⟨⟨size, w⟩, hw, h1⟩ := ok_of h.1
  rw [Bool.and_eq_true, beq_iff_eq] at h1
  exact ⟨size, w, h.2.1, h.2.2.1, h.2.2.2, hw, ⟨h1.1, (leads_of h1.2).1⟩, (leads_of h1.2).2⟩

/-- Stores to own Ember: one exposed and due, one in the landing list and armed, one in a hold register. -/
def storing : State := (on fun c => { c with
  ember := { c.ember with rows := [{ g := 0, st := .empty }, { g := 1, st := .valid }], hold := [(bankOf 64, ⟨64, List.replicate 8 (some 9)⟩)] }
  exposed := [{ id := 4, t := 0, off := 8, data := [1, 2], cls := 0 }]
  land := [{ off := 4096, data := [3], r := 0, resume := false, at_ := some 3 }] }).setClock fun k => { k with now := 3 }

theorem witness_ExposedStoresWrite : ((storing.core 0).dueStores storing.now).find? (·.id == 4) = some { id := 4, t := 0, off := 8, data := [1, 2], cls := 0 } ∧
    ((storing.core 0).ember.rowAt 8).isSome = true ∧
    (storing.core 0).land[(0 : Fin 8).val]? = some { off := 4096, data := [3], r := 0, resume := false, at_ := some 3 } ∧ 3 ≤ storing.now ∧
    ((storing.core 0).ember.rowAt 4096).isSome = true := by decide +kernel

theorem witness_HoldDrains : (storing.core 0).ember.hold.find? (·.1 == (1 : Fin 32).val) = some ((1 : Fin 32).val, ⟨64, List.replicate 8 (some 9)⟩) ∧
    ((storing.core 0).ember.rowAt 64).isSome = true ∧ (storing.core 0).ember.mem.wf = true := by decide +kernel

/-- A store that may be made: to operand SRAM, a plain global one, and a release at a mapped address and at one that is not. -/
def made (addr : Nat) (rel : Option Nat) : State := on fun c => { c with gst := [{ addr, data := [some 1, some 2], cls := 0, prog := 1, rel, due := 0 }] }

theorem witness_StoresAreMade :
    (∀ x ∈ [(0xE100000000000000, none), (0x40000, none), (0x40000, some 0), (0xFFFFFFFFFFC0, some 0)], let s := made x.1 x.2
      (s.core 0).readyStores s.now = [{ addr := x.1, data := [some 1, some 2], cls := 0, prog := 1, rel := x.2, due := 0 }] ∧
      (s.core 0).theTask.gang = false ∧ (s.core 0).theTask.breaches x.1 [some 1, some 2] = false) ∧
    (translate (made 0 none).mem ((made 0 none).core 0).theTask 0x40000 needW).isSome = true ∧
    translate (made 0 none).mem ((made 0 none).core 0).theTask 0xFFFFFFFFFFC0 needW = none := by decide +kernel

/-- A commit buffer whose oldest line may commit. -/
def committing (addr : Nat) : State := on fun c => { c with wbuf := [{ addr, bytes := [some 1, none, some 3], held := [(0, 1)] }] }

theorem witness_LinesCommit : ∀ a ∈ [0x40000, 0xFFFFFFFFFFC0],
    ((committing a).core 0).lineDue (committing a).now = true ∧
    ((committing a).core 0).wbuf = [{ addr := a, bytes := [some 1, none, some 3], held := [(0, 1)] }] ∧ (committing a).mem.wf = true ∧
    ((committing a).core 0).theTask.breaches a [some 1, none, some 3] = false ∧
    ((translate (committing a).mem ((committing a).core 0).theTask a needW).isSome = true ↔ a = 0x40000) := by decide +kernel

/-- The refresh unit with one rewrite. -/
def refreshing (rows : List Row) (touch : Bool) (begun : Option Nat) : State := (on fun c =>
  { c with ember := { c.ember with rows, queue := [{ g := 7, ready := 3, touch, begun }] } }).setClock fun k => { k with now := 3 }

theorem witness_Refreshes : ((refreshing [] false none).core 0).ember.queue = [{ g := 7, ready := 3, touch := false }] ∧
    3 ≤ (refreshing [] false none).now ∧
    ∀ x ∈ [(([] : List Row), false), ([{ g := 7, st := .valid, age := 30, rq := true }], false), ([{ g := 7, st := .valid, age := 30 }], true)],
      ((refreshing x.1 x.2 (some 0)).core 0).ember.queue = [{ g := 7, ready := 3, touch := x.2, begun := some 0 }] ∧
      ((refreshing x.1 x.2 (some 0)).core 0).ember.rewritten (refreshing x.1 x.2 (some 0)).now = true ∧
      ((refreshing x.1 x.2 (some 0)).core 0).ember.row 7 = x.1.head? ∧
      ((refreshing x.1 x.2 (some 0)).core 0).ember.bound ≠ some (refreshing x.1 x.2 (some 0)).now := by decide +kernel

/-- A core with every asynchronous cause pending, from the first one that `n` leaves. -/
def causes (n : Nat) : State := on fun c =>
  let c := { c with pend19 := if n < 1 then some 3 else none, pend18 := decide (n < 2), expiry := if n < 4 then [5] else [], stepOf := if n < 5 then some 6 else none }
  if n < 3 then { c with eng := (c.eng.set 2 { cause := some (0x08, 1) }).set 4 { cause := some (0x14, 2) } } else c

theorem witness_AsynchronousTraps :
    (List.range 6).map (fun n => ((causes n).core 0).pendingTrap) =
      [some (0x19, 3, none, false), some (0x18, 0, none, false), some (0x08, 1, some 2, false), some (0x0B, 5, none, false), some (0x1B, 6, none, true), none] ∧
    (List.range 6).all (fun n => decide (((causes n).core 0).run = .running ∧ ((causes n).core 0).csr.h = false)) = true ∧
    (me inHandler).pendingTrap = none := by decide +kernel

/-- A core that enters its handler at 0x40000. -/
def entering : State := on fun c => { c with csr := { c.csr with thandler := 0x40000 }, run := .entering 0x0D 5 (some 2) false }

theorem witness_TrapEntry : let k := entering.core 0
    k.run = .entering 0x0D 5 (some 2) false ∧ k.enters 0x0D = true ∧ k.landedAll = true ∧ k.marks = [] ∧ k.csr.thandler.toNat < 2 ^ 48 ∧
    k.csr.thandler.toNat % 2 = 0 ∧ (entryFetch entering.mem { k with loop := k.loop.setDep 0 } k.csr.thandler.toNat).toOption.isSome = true := by decide +kernel

/-- Requests of each kind, answered. -/
def serving (a : Word) : State := withCard (on fun c => { c with run := .service a 9 5 0 })

theorem witness_SystemServices : [0, 1, 2, 0x10002, 3].all (fun a => decide (((serving a).core 0).run = .service a 9 5 0 ∧ 0 ≤ (serving a).now) &&
    ((serving a).hub.card ((serving a).core 0).theTask.card).isSome) = true := by decide +kernel

/-! ### Witnesses: engines -/

/-- The state of `tables` at cycle 100 with row groups 0 to 3 valid, and engine `e` of core 0 holding the command `cmd` at its head. -/
def eng (e : EngId) (cmd : Cmd) (f : State → Eng → Eng := fun _ x => x) : State :=
  let s := (tables.setCore 0 { me tables with ember := { (me tables).ember with
    rows := [{ g := 0, st := .valid }, { g := 1, st := .valid }, { g := 2, st := .valid }, { g := 3, st := .valid }] } }).setClock
    fun k => { k with now := 100 }
  s.setCore 0 ((s.core 0).setE e (f s { queue := [cmd], head := some 0, begun := some 0 }))

/-- Every line of an engine's plan has landed. -/
def landed (s : State) (x : Eng) : Eng := { x with laid := true, plan := [], got := x.plan.map fun p => s.readLine 0 p.1 p.2 50 }

def fp32 : BitVec 256 := image 0 4 4 1 0 16
def bf16 : BitVec 256 := image 4096 4 4 2 0 8
def copyCommand : Cmd := { kind := .copy, y := 2, z := 1, ty := bf16, tz := fp32 }
def feedCommand : Cmd := { kind := .copyf, z := 1, tz := fp32, feed := some (0, 7) }

/-- A command that reaches its head: inside the leases, and reading global memory outside them. -/
theorem witness_CommandsReachTheHead : ∀ cmd ∈ [feedCommand, { feedCommand with pois := true }, { copyCommand with tz := image (2 ^ 47) 4 4 1 3 16 }],
    let s := eng 1 cmd fun _ x => { x with head := none }
    let x := engOf s 0 1
    x.queue = [cmd] ∧ x.head = none ∧ x.stop = false ∧ x.frozen = false ∧ cmd.entry < s.now ∧ x.freed = none ∧
    (s.leaseFault 0 cmd = none ↔ cmd.kind = .copyf) := by
  have h : [feedCommand, { feedCommand with pois := true }, { copyCommand with tz := image (2 ^ 47) 4 4 1 3 16 }].all (fun cmd =>
      let s := eng 1 cmd fun _ x => { x with head := none }
      let x := engOf s 0 1
      decide (x.queue = [cmd] ∧ x.head = none ∧ x.stop = false ∧ x.frozen = false ∧ cmd.entry < s.now ∧ x.freed = none ∧
        (s.leaseFault 0 cmd = none ↔ cmd.kind = .copyf))) = true := by decide +kernel
  exact fun cmd hc => of_decide_eq_true (List.all_eq_true.1 h cmd hc)

theorem witness_CommandsComplete :
    (engOf (eng 0 copyCommand fun _ x => { x with laid := true }) 0 0).done 0 = true ∧
    (engOf (eng 1 feedCommand fun _ x => { x with laid := true, micro := 16 }) 0 1).done 1 = true := by decide +kernel

/-- A stream that delivers to feed 7. -/
def delivering : State :=
  let s := eng 1 feedCommand fun s x => landed s (x.layCopy feedCommand 0 0)
  s.setCore 0 { s.core 0 with feeds := (s.core 0).feeds.set 7 { order := [(0, 1)] } }

theorem witness_FeedsFill : ((delivering.core 0).feeds[(7 : Fin 8)]).elems.length < 64 ∧ ((delivering.core 0).feeds[(7 : Fin 8)]).took.1 ≠ delivering.now ∧
    delivering.deliverer 0 7 = some (0, 1) ∧ (delivering.nextElem 0 1).isSome = true := by decide +kernel

/-- A global line whose walk completes at a mapped address and at one that is not, and one that does not wait. -/
def walking : State := eng 0 copyCommand fun _ x => { x with got := [⟨.glob, 0x40000, [], some 100, none, [], none⟩, ⟨.glob, 0xFFFFFFFFFFC0, [], some 100, none, [], none⟩,
  ⟨.glob, 0x40000, [], some 101, none, [], none⟩] }

theorem witness_GlobalReads : (engOf walking 0 0).got.map (fun ln => (ln.waits walking.now, (translate walking.mem (walking.core 0).theTask ln.addr needRd).isSome)) =
    [(true, true), (true, false), (false, true)] := by decide +kernel

/-- Stamped commands: late, begun, and not yet due. -/
theorem witness_Misses :
    let s := (eng 2 { copyCommand with stamp := some 0 }).setCore 0 ((eng 2 copyCommand).core 0 |>.setE 2
      { queue := [{ copyCommand with stamp := some 0, prog := 1 }, { copyCommand with stamp := some 0, prog := 2 }, { copyCommand with stamp := some 9, prog := 3 }]
        begun := some 0 })
    ((engOf s 0 2).queue.map (·.prog)).Nodup ∧
    ((engOf s 0 2).queue.zipIdx.map fun y => late (engOf s 0 2) s.clock.stamp y.2 y.1) = [false, true, false] := by decide +kernel

/-- A command that is late at the head of its queue. -/
theorem witness_Misses_head : let s := eng 2 { copyCommand with stamp := some 0 } fun _ x => { x with begun := none }
    (engOf s 0 2).active = true ∧ (engOf s 0 2).queue.head?.any (late (engOf s 0 2) s.clock.stamp 0) = true ∧ (engOf s 0 2).begun = none := by
  decide +kernel

/-- A copy with its source there; MSTORE, Temper and MZERO that write. -/
def mstoreCommand : Cmd := { kind := .mstore 1, y := 2, ty := bf16 }
def rowCommand : Cmd := { kind := .rowsm, y := 2, z := 1, ty := bf16, tz := fp32 }
def zeroCommand : Cmd := { kind := .mzero 3 1 }

theorem witness_EngineLineWrites :
    (let s := eng 0 copyCommand fun s x => landed s (x.layCopy copyCommand 0 0)
     (engOf s 0 0).active = true ∧ (engOf s 0 0).laid = true ∧ (s.copyWrite 0 (engOf s 0 0) copyCommand).isSome = true) ∧
    (let s := eng 1 copyCommand fun s x => landed s (x.layCopy copyCommand 0 0)
     (engOf s 0 1).active = true ∧ (engOf s 0 1).laid = true ∧ (s.copyWrite 0 (engOf s 0 1) copyCommand).isSome = true) ∧
    (let s := eng 2 mstoreCommand fun _ x => { x with laid := true, lines := [(.ember 0, 4096)] }
     (engOf s 0 2).active = true ∧ s.mstoreAsk 0 (engOf s 0 2) mstoreCommand = some (.ember 0, 4096)) ∧
    (let s := eng 3 rowCommand fun _ x => { x with lines := [(.ember 0, 4096)] }
     (engOf s 0 3).active = true ∧ s.temperWrite 0 (engOf s 0 3) rowCommand = some 4096 ∧ ((s.core 0).ember.rowAt 4096).isSome = true ∧
     ((rowCommand.outLines (engOf s 0 3).micro).all fun b => ((s.core 0).ember.rowAt b).isSome) = true) ∧
    (let s := eng 2 zeroCommand fun _ x => { x with laid := true, t0 := 85 }
     (engOf s 0 2).active = true ∧ (engOf s 0 2).laid = true ∧ (engOf s 0 2).sub = 0 ∧ s.now = (engOf s 0 2).t0 + 15) := by decide +kernel

def mloadCommand : Cmd := { kind := .mload 2 1, z := 1, tz := fp32 }

/-- MLOAD: a row of the source, and the rows after it. -/
theorem witness_TileRowsLoad : ∀ j ∈ [3, 4], let s := eng 2 mloadCommand fun s x => landed s { x with micro := j, plan := [(.ember 0, 0)] }
    (engOf s 0 2).active = true ∧ (engOf s 0 2).mloadRow mloadCommand 0 s.now = some j ∧ (desc mloadCommand.tz).d0 ≤ tileCols 1 ∧
    s.loadFault 0 (engOf s 0 2) mloadCommand j = none := by
  have h : [3, 4].all (fun j => let s := eng 2 mloadCommand fun s x => landed s { x with micro := j, plan := [(.ember 0, 0)] }
      decide ((engOf s 0 2).active = true ∧ (engOf s 0 2).mloadRow mloadCommand 0 s.now = some j ∧ (desc mloadCommand.tz).d0 ≤ tileCols 1 ∧
        s.loadFault 0 (engOf s 0 2) mloadCommand j = none)) = true := by decide +kernel
  exact fun j hj => of_decide_eq_true (List.all_eq_true.1 h j hj)

/-- SACC and SACCR on an FP32 target, indices and values in own Ember. -/
def swage (kind : CmdKind) : Cmd := { kind, y := 1, z := 3, x := 8, ty := fp32, tz := image 8192 4 1 13 0 16, tx := image 12288 4 1 1 0 16 }

theorem witness_SwageUpdates : ∀ kind ∈ [CmdKind.sacc 1, .saccr 5 7],
    let s := eng 4 (swage kind) fun s x => landed s { x with plan := x.saccLines (swage kind) 0 }
    ∃ y, (engOf s 0 4).saccNext (swage kind) 0 = some y ∧ ((engOf s 0 4).active && (s.swageAsk 0 (engOf s 0 4) (swage kind)).isSome &&
      (s.core 0).ember.mem.wf && (desc (swage kind).ty).place 0 == .ember 0 &&
      (bitsFaults ((linesOfBits (8 * y.1) 32).map fun l => s.readLine 0 (.ember 0) l s.now) (.ember 0) (8 * y.1) 32
        (if (s.core 0).csr.lchk then some ((swage kind).y, desc (swage kind).ty) else none)).isEmpty) = true := by
  have h : [CmdKind.sacc 1, .saccr 5 7].all (fun kind =>
      let s := eng 4 (swage kind) fun s x => landed s { x with plan := x.saccLines (swage kind) 0 }
      ((engOf s 0 4).saccNext (swage kind) 0).any fun y => (engOf s 0 4).active && (s.swageAsk 0 (engOf s 0 4) (swage kind)).isSome &&
        (s.core 0).ember.mem.wf && (desc (swage kind).ty).place 0 == .ember 0 &&
        (bitsFaults ((linesOfBits (8 * y.1) 32).map fun l => s.readLine 0 (.ember 0) l s.now) (.ember 0) (8 * y.1) 32
          (if (s.core 0).csr.lchk then some ((swage kind).y, desc (swage kind).ty) else none)).isEmpty) = true := by decide +kernel
  exact fun kind hk => opt_of (List.all_eq_true.1 h kind hk)

theorem witness_TemperTimetable : ((eng 3 rowCommand).core 0).temperMayLoad (eng 3 rowCommand).now = true ∧
    ∀ k ∈ [1, 3], let s := eng 3 rowCommand fun _ x => { x with sub := k, t0 := 101 - k }
      (engOf s 0 3).active = true ∧ (engOf s 0 3).sub ≠ 0 ∧ (engOf s 0 3).sub < (desc rowCommand.tz).d1 - (engOf s 0 3).made + 3 ∧
      s.now + 1 = (engOf s 0 3).t0 + (engOf s 0 3).sub * (((desc rowCommand.tz).d0 + 63) / 64) := by
  have h : ((eng 3 rowCommand).core 0).temperMayLoad (eng 3 rowCommand).now = true ∧
      [1, 3].all (fun k => let s := eng 3 rowCommand fun _ x => { x with sub := k, t0 := 101 - k }
        decide ((engOf s 0 3).active = true ∧ (engOf s 0 3).sub ≠ 0 ∧ (engOf s 0 3).sub < (desc rowCommand.tz).d1 - (engOf s 0 3).made + 3 ∧
          s.now + 1 = (engOf s 0 3).t0 + (engOf s 0 3).sub * (((desc rowCommand.tz).d0 + 63) / 64))) = true := by decide +kernel
  exact ⟨h.1, fun k hk => of_decide_eq_true (List.all_eq_true.1 h.2 k hk)⟩

/-- An MMA of FP32 with its B operand in operand SRAM. -/
def mmaCommand : Cmd := { kind := .mma 1 4 2 false false, y := 1, z := 4, ty := fp32, tz := image 0 4 4 1 2 16 }

/-- The header of an EBX block of one INT8 element whose code has symbols 0 and 31, and an AQ stream of such a block (R57, R58). -/
def ebxHead (len : Nat) : Nat := len + 2 ^ 24 + 6 * 2 ^ 44 + 2 ^ 64 + 2 ^ (64 + 4 * 31)
def ebxLine (len : Nat) : Line := ⟨.ember 0, 0, leBytes 64 (ebxHead len), some 50, none, [], none⟩
def ebxImage : BitVec 256 := withCsum (setFld (image 0 1 1 11 0 0) 103 4 6)

/-- The blocks of the clauses: a header that is refused and one that is not, the second build cycle, decoding, and a check. -/
def ebxBlocks : List (Nat × Ebx) := [(32, {}), (48, {}), (48, { stage := .build }), (48, { stage := .decode 256 0 }), (48, { stage := .check })]

/-- A fill that decodes block `b`, and a COPYX that Crucible serves in this cycle. -/
def ebxFill (len : Nat) (b : Ebx) : State :=
  let s := eng 2 { mmaCommand with ty := ebxImage }
  s.setCore 0 { s.core 0 with fills := [{ prog := 0, start := 0, reqs := [], got := [ebxLine len], ebx := some b }] }
def ebxCopyx : Cmd := { kind := .copyx false false, y := 2, z := 1, ty := bf16, tz := ebxImage }
def ebxServed (len : Nat) (b : Ebx) : State := eng 1 ebxCopyx fun s x => { x with laid := true, served := some s.now, got := [ebxLine len], ebx := some b }

/-- What an EBX clause asks for: at each stage the bits it reads meet no fault, and decoding goes on. -/
def ebxAsks (b : Ebx) (x : EbxIn) : Bool :=
  match b.stage with
  | .header => (x.faults (8 * (x.d.base + b.block)) 256 []).isEmpty
  | .build => true
  | .decode .. => (Ebx.decode x 16 4 b).toOption.isSome
  | .check =>
    let w := 8 * ebxLen (x.head b.block)
    ((x.stored (8 * (x.d.base + b.block)) w).faults (8 * (x.d.base + b.block)) w []).isEmpty
  | .done => false

theorem witness_EbxFills : ∀ y ∈ ebxBlocks, let s := ebxFill y.1 y.2
    (engOf s 0 2).frozen = false ∧
    ((s.core 0).fills.find? (fun f => f.ebx.isSome && f.done.isNone && f.held.isNone)).any (fun fill => fill.ebx == some y.2 &&
      ((engOf s 0 2).queue.find? (·.prog == fill.prog)).any fun cmd => y.2.ready (cmd.fillIn s 0 fill.got) && ebxAsks y.2 (cmd.fillIn s 0 fill.got)) = true := by
  have h : ebxBlocks.all (fun y => let s := ebxFill y.1 y.2
      !(engOf s 0 2).frozen &&
      ((s.core 0).fills.find? (fun f => f.ebx.isSome && f.done.isNone && f.held.isNone)).any (fun fill => fill.ebx == some y.2 &&
        ((engOf s 0 2).queue.find? (·.prog == fill.prog)).any fun cmd => y.2.ready (cmd.fillIn s 0 fill.got) && ebxAsks y.2 (cmd.fillIn s 0 fill.got))) =
      true := by decide +kernel
  intro y hy
  have h := List.all_eq_true.1 h y hy
  rw [Bool.and_eq_true] at h
  exact ⟨by simpa using h.1, h.2⟩

theorem witness_EbxServed : ∀ y ∈ ebxBlocks, let s := ebxServed y.1 y.2
    (s.core 0).fills = [] ∧ ∃ z, s.servedEbx 0 = some z ∧ (z.1 == 1 && z.2.2 == y.2 && ebxAsks z.2.2 (z.2.1.ebxIn s 0 (engOf s 0 z.1).got)) = true := by
  have h : ebxBlocks.all (fun y => let s := ebxServed y.1 y.2
      (s.core 0).fills.isEmpty && (s.servedEbx 0).any fun z => z.1 == 1 && z.2.2 == y.2 && ebxAsks z.2.2 (z.2.1.ebxIn s 0 (engOf s 0 z.1).got)) = true := by
    decide +kernel
  intro y hy
  have h := List.all_eq_true.1 h y hy
  rw [Bool.and_eq_true] at h
  exact ⟨List.isEmpty_iff.1 h.1, opt_of h.2⟩

/-- A fill that may begin, one that completes, and a COPYX of INT4 that is served. -/
def int4Copyx : Cmd := { kind := .copyx false false, y := 2, z := 1, ty := bf16, tz := image 0 4 4 7 0 16 }

theorem witness_CrucibleWorks : ((eng 2 mmaCommand).core 0).nextFill 100 = some mmaCommand ∧ (eng 2 mmaCommand).now = 100 ∧
    (engOf (eng 2 mmaCommand) 0 2).frozen = false ∧
    (let f : Fill := { prog := 0, start := 0, reqs := [], got := [ebxLine 48] }
     f.done = none ∧ f.held = none ∧ f.ebx = none ∧ (f.got.all fun ln => ln.due.any fun d => decide (d ≤ 100)) = true) ∧
    (let s := eng 0 int4Copyx fun s x => landed s (x.layCopy int4Copyx 0 0)
     let x := engOf s 0 0
     int4Copyx.isCopyx = true ∧ x.laid = true ∧ x.active = true ∧ (int4Copyx.toFeed && decide (x.micro < x.made)) = false ∧ x.held = none ∧
     x.ebx = none ∧ x.made < int4Copyx.total ∧ s.copyxServed 0 = some 0 ∧
     (s.expandable 0 x int4Copyx x.made).any (·.toOption.isSome) = true) := by decide +kernel

/-- A pass that begins, with a sound and a poisoned line of operand SRAM, and one that ends. -/
def passing_ (pois : List Nat) (f : Eng → Eng) : State :=
  let s := eng 2 mmaCommand fun _ x => f x
  s.setCore 0 { s.core 0 with fills := [{ prog := 0, start := 0, reqs := [], done := some 0 }], sram := { (s.core 0).sram with pois } }

theorem witness_PassesBegin : ∀ pois ∈ [[], [65537]], let s := passing_ pois id
    ∃ y, s.passBegins 0 = some y ∧ (y.1 == mmaCommand && (((y.1.passCols (engOf s 0 2).micro).filter fun n => n < (desc y.1.tz).d0).findSome?
      fun n => (s.core 0).sram.poisonIn (y.1.bLine n) 128).isSome == !pois.isEmpty && (!y.1.mmaAcc)) = true := by
  have h : [[], [65537]].all (fun pois => let s := passing_ pois id
      (s.passBegins 0).any fun y => y.1 == mmaCommand && (((y.1.passCols (engOf s 0 2).micro).filter fun n => n < (desc y.1.tz).d0).findSome?
        fun n => (s.core 0).sram.poisonIn (y.1.bLine n) 128).isSome == !pois.isEmpty && (!y.1.mmaAcc)) = true := by decide +kernel
  exact fun pois hp => opt_of (List.all_eq_true.1 h pois hp)

theorem witness_PassesEnd : let s := passing_ [] fun x => { x with sub := 1, t0 := 100 }
    (engOf s 0 2).active = true ∧ (engOf s 0 2).sub = 1 ∧ mmaCommand.isMma = true ∧ s.now + 1 = (engOf s 0 2).t0 + mmaCommand.passLen ∧
    ((s.core 0).fillOf mmaCommand.prog).isSome = true ∧ mmaCommand.tileNo < 4 ∧ mmaCommand.mmaAcc = false ∧
    (vget (s.core 0).tiles mmaCommand.tileNo {}).tf = mmaCommand.acc ∧ mmaCommand.mmaN ≤ tileCols mmaCommand.acc := by decide +kernel

/-- A sender whose source is there or not, and receivers of a whole flit and of an empty one. -/
def sender (tz : BitVec 256) : Cmd := { kind := .lxfer 2, z := 1, tz, bound := some 0x105 }
def receiver : Cmd := { kind := .lrecv 2, y := 1, ty := fp32, bound := some 0x105 }
def flitOf (n : Nat) (last : Bool) : Flit :=
  { src := 5, dst := 0, chan := 1, index := 0, last, pairs := false, npairs := 0, fmt := 1, grp := 0, d0 := 4, d1 := 4, release := false
    payload := List.replicate n 1 }
def taking (f : Flit) : State := (eng 5 receiver).setPort 2 { (eng 5 receiver).port 2 with store := [f] }

theorem witness_LinksSend : (eng 5 (sender fp32)).linkSends 0 = some (sender fp32) ∧
    (let y := (eng 5 (sender fp32)).sendStep 0 (engOf (eng 5 (sender fp32)) 0 5) (sender fp32)
     y.1 = none ∧ y.2.2 = []) ∧
    (let x := engOf (eng 5 (sender fp32)) 0 5
     x.queue = [sender fp32] ∧ x.active = true ∧ x.begun.isSome = true ∧ x.sub = 0 ∧ (sender fp32).sends = true ∧ (sender fp32).rel = false ∧
     (eng 5 (sender fp32)).ports[2].sent = []) ∧
    (eng 5 (sender (image 65536 4 4 1 0 16))).linkSends 0 = some (sender (image 65536 4 4 1 0 16)) ∧
    ((eng 5 (sender (image 65536 4 4 1 0 16))).sendStep 0 (engOf (eng 5 (sender (image 65536 4 4 1 0 16))) 0 5) (sender (image 65536 4 4 1 0 16))).1.isSome
      = true := by decide +kernel

theorem witness_LinksTake : ∀ y ∈ [(64, true), (0, false)], (taking (flitOf y.1 y.2)).linkTakes 0 = some (receiver, flitOf y.1 y.2) ∧
    (let r := (taking (flitOf y.1 y.2)).recvStep 0 (engOf (taking (flitOf y.1 y.2)) 0 5) receiver (flitOf y.1 y.2)
     r.1 = none ∧ (r.2 = [] ↔ y.1 = 0)) := by
  have h : [(64, true), (0, false)].all (fun y => decide ((taking (flitOf y.1 y.2)).linkTakes 0 = some (receiver, flitOf y.1 y.2) ∧
      (let r := (taking (flitOf y.1 y.2)).recvStep 0 (engOf (taking (flitOf y.1 y.2)) 0 5) receiver (flitOf y.1 y.2)
       r.1 = none ∧ (r.2 = [] ↔ y.1 = 0)))) = true := by decide +kernel
  exact fun y hy => of_decide_eq_true (List.all_eq_true.1 h y hy)

/-- The ports of an arrival: without failures, and with 15 of them; the stream of a flit is skipped or not. -/
theorem witness_LinksArrive : (tables.port 2).skip = [] ∧ (tables.port 2).store = [] ∧
    (let s := tables.setPort 2 { tables.port 2 with skip := [(5, 0, 1)] }; (s.port 2).trained && (s.port 2).skip.contains (5, 0, 1)) = true ∧
    (tables.port 2).fails < 15 ∧ (tables.port 2).trained = true ∧
    15 ≤ ((tables.setPort 2 { tables.port 2 with fails := 15 }).port 2).fails ∧ ((tables.setPort 2 { tables.port 2 with fails := 15 }).port 2).trained = true := by
  decide +kernel

/-! ### Witnesses: power, lifetimes and start-up -/

/-- `base` at a Bellows boundary, cycle and tick 1000, with die 0 as given. -/
def onDie (f : Die → Die) : State := (base.setClock fun k => { k with now := 1000, tick := 1000, stamp := 4 }).setDie 0 (f (base.die 0))

/-- Nothing has been released on die 0 since the last boundary. -/
def quietDie (s : State) : Bool := (s.die 0).ends.isEmpty && (coresOf 0).all fun l => (s.core l).pwrRet == 0

theorem quiet_of {s : State} (h : quietDie s = true) : nothingBack s 0 := by
  unfold quietDie at h
  rw [Bool.and_eq_true, List.isEmpty_iff, List.all_eq_true] at h
  exact ⟨fun e he => absurd (h.1 ▸ he) (List.not_mem_nil), fun l hl => beq_iff_eq.1 (h.2 l hl)⟩

def asking : State :=
  (onDie fun d => { d with c := 50, band := 5 }).setCore 3 { (onDie fun d => d).core 3 with pwrReq := some { level := 50, first := some 4 } }

theorem witness_BellowsSteps :
    (base.setClock fun k => { k with stamp := 1 }).clock.stamp.toNat % 4 ≠ 0 ∧
    [0, 9].all (fun c => let s := onDie fun d => { d with c, band := 6 }
      quietDie s && decide (s.clock.stamp.toNat % 4 = 0 ∧ s.allAsks 0 = [] ∧ (s.die 0).act ≤ (s.die 0).c ∧ (s.die 0).band ≠ 7)) = true ∧
    asking.clock.stamp.toNat % 4 = 0 ∧ quietDie asking = true ∧ (asking.die 0).band ≤ 5 ∧
    (asking.core 3).pwrReq = some { level := 50, first := some 4 } ∧
    asking.allAsks 0 = [{ first := 4, core := 3, pwrq := true, cost := 50 }] ∧ (asking.die 0).act + 50 ≤ (asking.die 0).c := by
  decide +kernel

/-- Three requests, of which the step-up leaves room for two or for all. -/
def crowded (c : Nat) : State :=
  let ask (s : State) (l : CoreId) (level first : Nat) : State := s.setCore l { s.core l with pwrReq := some { level, first := some first } }
  ask (ask (ask (onDie fun d => { d with c, u := 4096, band := 5 }) 3 50 8) 2 50 8) 1 60 12

theorem witness_BellowsSteps_crowd : quietDie (crowded 40) = true ∧ (crowded 40).clock.stamp.toNat % 4 = 0 ∧ ((crowded 40).die 0).band ≤ 5 ∧
    asked (crowded 40) 0 = 160 ∧ ((crowded 40).allAsks 0).map (·.core) = [2, 3, 1] ∧
    [(40, 104), (96, 160)].all (fun x => decide (((crowded x.1).die 0).c < ((crowded x.1).die 0).act + asked (crowded x.1) 0 ∧
      ceilingUp (crowded x.1) 0 = x.2)) = true := by decide +kernel

/-- The ceiling rises by the ramp entry of the up index, and requests are granted in order while they fit (R379). -/
theorem test_bellows : [40, 96].map (fun c => match exec (.BELLOWS_STEP 0) (crowded c) with
      | .next t => ((t.die 0).c, (t.die 0).i, (t.die 0).act, [2, 3, 1].map fun l => (t.core l).pwrReq.map (·.granted))
      | _ => (0, 0, 0, [])) =
    [(104, 1, 100, [some true, some true, some false]), (160, 1, 160, [some true, some true, some true])] := by decide +kernel

theorem witness_DieTables : ((onDie fun d => { d with next := some rampReset }).die 0).next = some rampReset := by decide +kernel

/-- Physical core 5 gated for `n` ticks, with a wake waiting or not, and queued to wake or not. -/
def gatedFor (n : Nat) (wake : Option Nat) : State :=
  let s := onDie fun d => { d with wakes := [5], lastWake := some (1000 - n), retAt := some 3, offUntil := some 1000 }
  s.setPhys 5 { s.phys 5 with gated := some (1000 - n), wake }

theorem witness_GatingAndVoltage : (∀ l : CoreId, base.hub.map[l] = some 5 → (base.core l).task = none) ∧ (base.phys 5).gated = none ∧
    [0, 19, 20, 199, 200].all (fun n => decide (((gatedFor n none).phys 5).gated = some (1000 - n) ∧ (gatedFor n none).tick - (1000 - n) = n ∧
      ((gatedFor n none).phys 5).wake = none)) = true ∧
    ((gatedFor 200 (some 900)).phys 5).wake = some 900 ∧ ((gatedFor 49 none).die 0).wakes = [5] ∧
    [49, 50].all (fun n => decide (((gatedFor n none).die 0).lastWake = some (1000 - n))) = true ∧
    ((gatedFor 49 none).die 0).retAt = some 3 ∧ ((gatedFor 49 none).die 0).offUntil = some 1000 := by decide +kernel

/-- Row groups of core 0: valid ones of classes 0, 5 and 7 and one that is not valid; the expiry queue holds `n` events. -/
def aging (age n : Nat) : State := (fun s : State => { s with dies := s.dies.map fun d => { d with band := 0 } }) <| on fun c => { c with expiry := List.replicate n 5, ember := { c.ember with
  rows := [{ g := 7, st := .valid, age, cls := 0 }, { g := 8, st := .valid, age, cls := 5 }, { g := 9, st := .valid, age, cls := 7 }, { g := 10, st := .empty }] } }

theorem witness_Lifetimes : [(0, 0), (254, 7), (255, 8)].all (fun x => let c := (aging x.1 x.2).core 0
    decide ((c.ember.rows.map (·.g)).Nodup ∧ c.expiry.length ≤ 8)) = true := by decide +kernel

/-- Ages rise to 255 at most, a class action follows the limit, and in band 7 classes below 6 act at once; a ninth event is dropped (R195, R211, R214,
R217). -/
theorem test_aging : [(aging 3 0, 39), (aging 255 7, 39), (aging 3 8, 105)].map (fun (x : State × Nat) =>
      match exec (.AGE_TICK_BOUNDARY (BitVec.ofNat 8 x.2) 39 39 39) x.1 with
      | .next t => ((t.core 0).ember.rows.map (fun r => (r.age, r.st, r.rq)), (t.core 0).expiry.length, (t.core 0).csr.xovf)
      | _ => ([], 0, false)) =
    [([(4, .valid, false), (4, .valid, false), (4, .valid, false), (0, .empty, false)], 0, false),
     ([(255, .invalid, false), (255, .invalid, false), (255, .valid, true), (0, .empty, false)], 8, false),
     ([(4, .invalid, false), (4, .invalid, false), (4, .valid, false), (0, .empty, false)], 8, true)] := by decide +kernel

/-- Each outcome of a stage, in a full start and in minimal mode. -/
def staged (n : Nat) (minimal : Bool) : State := { State.reset with boot := { State.reset.boot with stage := n, minimal } }
def works : StageResult := { reason := 0, badCores := [], trained := 0, enabled := 1, bifurc := 0, digests := [], versions := [0], reported := [] }

theorem witness_StartUp : State.reset.mem.wf = true ∧ State.reset.mem.seed = none ∧
    [1, 5, 6, 7].all (fun n => [true, false].all fun b => decide ((staged n b).boot.failed = false ∧ (staged n b).boot.stage < 8 ∧
      (staged n b).boot.failure works = none)) = true ∧
    (staged 1 false).boot.failure { works with reason := 0x11 } = some 0x11 ∧
    [1, 3].all (fun n => let s := { staged n false with boot := { (staged n false).boot with minVer := 4 } }
      s.boot.failure { works with versions := [4, 6], reported := [6] } == none && s.boot.failure { works with versions := [4, 3] } == some 0x12) = true := by
  decide +kernel

/-! ### Witnesses: cards and tasks -/

/-- A number that holds fields, each at a byte offset. -/
def fields (xs : List (Nat × Nat)) : Nat := xs.foldl (fun n x => n + x.2 * 2 ^ (8 * x.1)) 0

/-- A card for a gang of one, and a batch card of three records: entry, arguments, a spill area and one lease in the page at 0x40000. -/
def gangImage : Nat := fields [(0, 0x40000), (0x08, 0x40000), (0x10, 1), (0x14, 8), (0x16, 1 + 2 * 3 + 256), (0x18, 1), (0x28, 0x40000), (0x30, 16),
  (0x80, 0x40000), (0x88, 1 + 7 * 2 ^ 32)]
def batchImage : Nat := fields [(0, 0x40000), (0x08, 0x40000), (0x10, 3), (0x14, 8), (0x16, 2 * 3 + 256), (0x20, 0x1000000), (0x28, 0x40000),
  (0x30, 16), (0x80, 0x40000), (0x88, 1 + 7 * 2 ^ 32)]
def space : CardChoice := { asidId := 1, root := 0x10000, heapb := 0, heapl := 0, heapo := 0 }
def cardWith (img id : Nat) (st : CardState) : Card := { id, image := BitVec.ofNat 4096 img, func := 1, st, choice := space }

/-- A package that has started, its code a header, its cards `ks`; host function 1 has a submission entry with image `img` at 0x50000. -/
def started (ks : List Card) (img : Nat := 0) : State :=
  let s := State.reset.withFetchWord 32 0x00100181
  let s := { s with boot := { s.boot with stage := 8 }, mem := s.mem.write 0x50000 (leBytes 512 img), hub := { s.hub with cards := ks, nextCard := 40 } }
  s.setFunc 1 { s.func 1 with enabled := true, ide := true, sqen := true, sqbase := 0x50000, sqtail := 1, cqen := true, cqbase := 0x60000 }

/-- The same card, spawned and pending. -/
def pending (img : Nat) : Card := { cardWith img 9 .pending with parent := some (8, 0) }

theorem witness_CardsAccepted : [(gangImage, none), (0, some 0x02)].all (fun (y : Nat × Option Byte) =>
    let s := started [] y.1
    let t := started [pending y.1]
    let k' := { pending y.1 with choice := space, order := t.hub.nextCard, st := .pending }
    s.hasEntry 1 && !s.boot.minimal && (cardOf s s.hub.nextCard).isNone && s.takeSent.reason (entered s 1 space) == y.2 && !(entered s 1 space).depv &&
    cardOf t 9 == some (pending y.1) && (pending y.1).key.isNone && t.takeSent.reason k' == y.2 && !k'.depv) = true := by decide +kernel

/-- A counter at one with a card that waits on it, a spilled card, and a card that has waited 2 ms. -/
def recorded : State :=
  let s := started [cardWith gangImage 9 .counting, cardWith gangImage 10 .waiting]
  { s with hub := { s.hub with deps := [⟨5, 1, some 9⟩], spill := [11] }, clock := { s.clock with tick := 200000 } }

theorem witness_HubRecords : -2147483648 < counter recorded 5 ∧ armed recorded 5 = some 9 ∧ (cardOf recorded 9).isSome = true ∧ counter recorded 5 = 1 ∧
    recorded.hub.spill = [11] ∧ recorded.hub.pool.length < 224 ∧
    (cardOf recorded 10).any (fun k => k.st == .waiting && decide (k.prio < 6) && decide (k.prio + k.risen < 6) &&
      decide (k.since + 200000 * (k.risen + 1) ≤ recorded.tick)) = true := by decide +kernel

/-- A waiting card, and core 3 which last ran it or not. -/
def binding (last : Option Nat) : State :=
  let s := started [cardWith gangImage 9 .waiting]
  { s with hub := { s.hub with lastCard := match last with | none => [] | some n => [(3, n)] } }

theorem witness_Binding : [none, some 9].all (fun last =>
    (cardOf (binding last) 9).any (fun k => (binding last).mayBind k [(0, 3)] false) &&
    (((binding last).hub.lastCard.find? (·.1 == (3 : CoreId))).map (·.2) == last)) = true := by decide +kernel

/-- A confidential card that waits: no key is resident yet. -/
theorem witness_Binding_confidential :
    let img := fields [(0, 0x40000), (0x08, 0x40000), (0x10, 3), (0x14, 8), (0x16, 256), (0x1C, 1), (0x80, 0x40000), (0x88, 1 + 7 * 2 ^ 32)]
    let s := { started [cardWith img 9 .waiting] with mem := (started []).mem.write 0x20000 (leBytes 8 (31 + 2 ^ 5)) }
    ((cardOf s 9).any fun k => k.conf && k.key.isNone && s.mayBind k [(0, 3)] false) = true ∧ s.hub.keys.contains s.hub.nextKey = false := by decide +kernel

/-- Core 3 with a task of the batch card 9, as given. -/
def bound (k : Card → Card) (f : Core → Core) : State :=
  let s := started [k { cardWith batchImage 9 .running with nbound := 1 }]
  s.setCore 3 (f { s.core 3 with run := .bound, task := some ({ cardWith batchImage 9 .running with nbound := 1 }.taskAt 0 3 0 0) })

theorem witness_Dealing : [0, 3].all (fun dealt => let s := bound (fun k => { k with dealt }) id
    (cardOf s (s.core 3).theTask.card).any fun k => (s.core 3).run == .bound && !k.gang && (s.core 3).records.isEmpty && !k.stops &&
      decide (k.dealt < k.argCount) == (dealt == 0) && decide (0 < k.nbound)) = true := by decide +kernel

/-- Core 3 with a record to run, and a restored task. -/
theorem witness_TasksStart :
    (let s := bound id fun c => { c with records := [2] }
     let x := s.core 3
     s.mayStart 3 && x.run == .bound && (cardOf s x.theTask.card).any fun k =>
       let index := if k.gang then x.theTask.index else x.records.headD 0
       let y := { x.startState k index s.now with records := x.records.drop 1 }
       k.entry % 2 == 0 && (entryFetch s.mem y k.entry).toOption.isSome) = true ∧
    (let s := bound id fun c => { c with run := .restoring false }
     s.mayStart 3 && (s.core 3).run != .bound && (cardOf s (s.core 3).theTask.card).isSome) = true := by decide +kernel

/-- Tasks that leave: of a batch card, of one that stops, and of a gang; a bound core that has missed a poll or none. -/
def ganged (f : Core → Core) (bars : List (Nat × Nat × Nat × Bool)) : State :=
  let k := { cardWith gangImage 9 .running with nbound := 1, cores := [(0, 3)], bars }
  let s := started [k]
  s.setCore 3 (f { s.core 3 with run := .running, task := some (k.taskAt 0 3 0 0), tags := (s.core 3).tags.set 8 { live := true } })

theorem witness_TasksLeave :
    [bound id fun c => { c with run := .ending }, bound (fun k => { k with stops := true }) id, ganged (fun c => { c with run := .ending }) []].map
      (fun s => (s.retires 3, (cardOf s (s.core 3).theTask.card).map fun k => (k.gang, k.stops))) =
      [(true, some (false, false)), (true, some (false, true)), (true, some (true, false))] ∧
    (bound id id).hub.map[(3 : CoreId)] = some 3 ∧ ((bound id id).core 3).task.isSome = true ∧
    [0, 1].all (fun n => (((bound id id).setPhys 3 { (bound id id).phys 3 with missed := n }).phys 3).missed == n) = true := by decide +kernel

/-- An instance that completes, a gang at END, and a record that waits, at the last entry of its ring and at another. -/
def recording (tail : Nat) : State :=
  let s := started [cardWith gangImage 9 .ended]
  s.setFunc 1 { s.func 1 with held := [9], cqtail := BitVec.ofNat 12 tail, cqhead := 7 }

theorem witness_Completions :
    (cardOf (ganged id [(8, 0, 0, true)]) 9).any (fun k => (ganged id [(8, 0, 0, true)]).barrierDue k 8 0 && !((ganged id [(8, 0, 0, true)]).liveMembers k 8 0).isEmpty) = true ∧
    (cardOf (ganged (fun c => { c with stall := some .gangEnd }) []) 9).any (fun k =>
      (ganged (fun c => { c with stall := some .gangEnd }) []).gangEnds k) = true ∧
    [0, 15].all (fun t => (recording t).recordDue 1 && ((recording t).func 1).held == [9] && (cardOf (recording t) 9).isSome && !(recording t).boot.minimal &&
      decide (((recording t).func 1).cqlog ≤ 12) && (decide (((recording t).func 1).cqtail.toNat % 16 + 1 = 16) == (t == 15))) = true := by decide +kernel

/-- A task that may be saved; a request pending at a boundary; a core that has stopped; a saved task; a core that regrows. -/
def saves (f : Core → Core) (saved : List Saved := []) : State := bound (fun k => { k with saved }) f

/-- A task of the heap window with its save area at 0x20_0000; the image of its context stands there. -/
def heapTask : Task := { (saves id).core 3 |>.theTask with heapl := 2 ^ 40, save := 0x200000 }

def restores (key : Option Nat) (grant : Bool) : State × Saved :=
  let core : Core := { task := some heapTask, s := (Vector.replicate 32 0).set 5 7, csr := { grant, level := if grant then 3 else 0 } }
  let x : Saved := { task := 0, at_ := 3, core }
  let s := bound (fun k => { k with saved := [x], key }) fun _ => {}
  ({ s with mem := (s.putImage heapTask (core.image s 3 0) core.imageBytes none).mem }, x)

/-- R201: a context at its reset values but for `s5`, without run slots and without row groups. -/
def imageWords : List Nat :=
  let r := restores none false
  let m := r.1.getImage heapTask r.2.core.imageBytes
  [m.readNat 0 4, m.readNat 16 8, m.readNat 0x68 8, m.readNat 0xA00 8, m.readNat 0xA40 8, m.readNat 0x248 8]

theorem test_context_image : imageWords = [1, 0x11E000, 7, 0x7FFFF, 0x1_0000_0000_0000, 3] := by decide +kernel

/-- The saved task is found and its core is free; its image stands; one byte of the image has been written over. -/
def found (r : State × Saved) : Bool :=
  (cardOf r.1 9).any fun k => r.1.mayRestore k 3 && (k.saved.find? fun x => x.task == 0 && x.at_ == 3) == some r.2

def restorable (r : State × Saved) : Bool := r.1.imageStands r.2 none

def changed (r : State × Saved) : State × Saved := ({ r.1 with mem := r.1.mem.write 0x200048 [1] }, r.2)

theorem witness_ContextImages :
    (List.range 100).all (fun i => base.areaAddr { heapTask with save := 65500 } (65500 + i) == some (65500 + i)) = true ∧
    (base.mem.wf && base.mem.seed.isNone && ({ cells := [(3, 1)] } : Mem).wf) = true := by decide +kernel

theorem witness_image_stands : (let r := restores none true; (restorable r, restorable (changed r))) = (true, false) := by decide +kernel

theorem witness_restores : [true, false].all (fun grant => found (restores none grant) && found (changed (restores none grant))) = true := by
  decide +kernel

theorem witness_PreemptionAndRegrowth :
    (let s := saves fun c => { c with run := .running }
     (s.core 3).run ≠ .preempting ∧ (s.core 3).preq = false ∧ s.maySave 3 = true ∧ s.stopSet 3 = [3] ∧ (s.core 3).started = true) ∧
    (let s := saves fun c => { c with run := .running, preq := true }
     (s.core 3).preq = true ∧ (s.core 3).atBoundary s.now = true ∧ s.clock.phase = .issue) ∧
    (let s := saves fun c => { c with run := .preempting, eng := c.eng.map fun e => { e with stop := true } }
     (s.core 3).run = .preempting ∧ s.allStill 3 = true ∧ s.hub.regrow = [] ∧ (cardOf s (s.core 3).theTask.card).isSome = true) ∧
    base.hub.map[(3 : CoreId)] = some 3 ∧ base.hub.spare (dieOf 3) = some 16 ∧ (base.core 3).task = none ∧ base.responds 3 = true := by decide +kernel

/-- A core that is to stop while Anvil zeroes a tile: that engine ends its micro-step, the others stop at once. -/
theorem witness_PreemptionAndRegrowth_midStep :
    let s := saves fun c => ({ c with run := .running, preq := true } : Core).setE 2 { queue := [zeroCommand], head := some 0, begun := some 0, laid := true }
    (s.core 3).preq = true ∧ (s.core 3).atBoundary s.now = true ∧ s.clock.phase = .issue ∧
    (List.finRange 6).map (s.midStep 3) = [false, false, true, false, false, false] ∧ (engOf s 3 2).frozen = false := by decide +kernel

/-- A gang of one whose task is saved. -/
theorem witness_PreemptionAndRegrowth_gang :
    let x : Saved := { task := 0, at_ := 3, core := { task := some { heapTask with card := 9, gang := true } } }
    let s := started [{ cardWith gangImage 9 .running with nbound := 1, cores := [(0, 3)], saved := [x] }]
    ((cardOf s 9).any fun k => k.gang && k.key.isNone && (k.saved.any fun x => x.task == 0 && x.at_ == 3) && k.saved.length == k.cores.length &&
      k.saved.all (fun x => s.mayRestore k x.at_ && x.core.task.isSome) && decide ((k.saved.map (·.at_)).Nodup)) = true := by decide +kernel

/-- At a sample point, and between two of them. -/
theorem witness_DeadlockSamples : (base.setClock fun k => { k with stamp := 4095 }).clock.stamp.toNat % 4096 ≠ 0 ∧
    (base.setClock fun k => { k with stamp := 4096 }).clock.stamp.toNat % 4096 = 0 ∧
    onCycle ([(0, 1, 8, 0), (1, 0, 8, 0)].filter fun e => [(0, 1, 8, 0), (1, 0, 8, 0)].contains e) (0 : CoreId).val = true := by decide +kernel

/-! ### Witnesses: hosts and the chorus -/

/-- A function that takes requests, and one that does not. -/
def hosted : State := { started [] with hub := { (started []).hub with
  templates := [⟨3, (Vector.replicate 72 0).set 65 (0x400000000 + 0x100000000)⟩, ⟨4, (Vector.replicate 72 0).set 65 0x400000000⟩] } }

theorem witness_RingRegisters : takes hosted 1 ∧ ¬ takes hosted 2 ∧ (hosted.func 1).sqlog ≤ 12 ∧ (hosted.func 1).sqhead.toNat < 2 ^ (hosted.func 1).sqlog ∧
    (hosted.func 1).sqtail.toNat < 2 ^ (hosted.func 1).sqlog ∧ hosted.boot.minimal = false := by
  have h : ((hosted.func 1).enabled ∧ (hosted.func 1).ide) ∧ (hosted.func 2).enabled = false ∧ (hosted.func 1).sqlog ≤ 12 ∧
      (hosted.func 1).sqhead.toNat < 2 ^ (hosted.func 1).sqlog ∧ (hosted.func 1).sqtail.toNat < 2 ^ (hosted.func 1).sqlog ∧ hosted.boot.minimal = false := by
    decide +kernel
  exact ⟨h.1, fun x => absurd x.1 (by simp [h.2.1]), h.2.2⟩

/-- A confidential card that runs holds the page of its lease under key 2. -/
def sealed : State :=
  let img := fields [(0, 0x40000), (0x08, 0x40000), (0x10, 3), (0x14, 8), (0x16, 256), (0x1C, 1), (0x80, 0x40000), (0x88, 1 + 7 * 2 ^ 32)]
  let s := started [{ cardWith img 9 .running with key := some 2 }]
  { s with hub := { s.hub with keys := [2] }, mem := s.mem.write 0x20000 (leBytes 8 (31 + 2 ^ 5)) }

theorem witness_HostMemory : takes hosted 1 ∧ ¬ takes hosted 2 ∧
    [(3, true, 1), (4, true, 0), (5, false, 0)].all (fun (x : Nat × Bool × Nat) =>
      let w := vget (hosted.hub.template x.1) 65 0
      w.getLsbD 34 == x.2.1 && w.toNat / 2 ^ 32 % 4 == x.2.2) = true ∧
    [2 ^ 40 - 8, 0x40000].all (fun a => (List.range 8).all (fun i => (hosted.keyHolder (a + i)).isNone) && (hosted.mem.poisonIn a 8).isNone) = true ∧
    hosted.hub.asids = [] ∧ (sealed.keyHolder 0x40000).bind (·.key) = some 2 := by
  refine ⟨witness_RingRegisters.1, witness_RingRegisters.2.1, by decide +kernel⟩

/-- A report asked for, and one being built. -/
theorem witness_Attestation : takes hosted 1 ∧ hosted.boot.signing = none ∧
    ({ hosted.boot with signing := some (List.replicate 32 7) } : Boot).signing = some (List.replicate 32 7) ∧ (List.replicate 32 (7 : Byte)).length = 32 :=
  ⟨witness_RingRegisters.1, by decide +kernel, rfl, rfl⟩

/-- A package with a neighbour, 5, whose last number was 6, at tick 10,000. -/
def chorus : State := { base with
  clock := { base.clock with tick := 10000 }
  chorus := { base.chorus with members := [{ idx := 0, st := 2 }, { idx := 5, st := 2, seq := some 6 }] } }

def msg (seq stamp : Nat) : ChorusMsg := { sender := 5, seq := BitVec.ofNat 32 seq, stamp := BitVec.ofNat 64 stamp, ceil := 3, demand := 9 }

/-- A message in order at the last tick that is not late, one that is late, and one after a gap. -/
theorem witness_ChorusMessages : inOrder chorus (msg 7 9984) ∧ chorus.chorus.members.length < 1024 ∧ ¬ single chorus ∧
    chorus.chorus.members.find? (fun x => x.idx == (msg 7 9983).sender.toNat && x.st != 4) = some { idx := 5, st := 2, seq := some 6 } ∧
    [msg 7 9983, msg 8 9984].all (fun m => decide (2 ^ 31 ≤ ((6 : BitVec 32) - m.seq).toNat ∧
      (m.seq ≠ 6 + 1 ∨ m.stamp.toNat + chorus.chorus.dticks < chorus.tick))) = true := by
  let x : Member := { idx := 5, st := 2, seq := some 6 }
  have h : (chorus.chorus.joining = none ∧ chorus.chorus.leaving = false ∧ (msg 7 9984).sender.toNat ≠ chorus.chorus.self ∧
      chorus.tick ≤ (msg 7 9984).stamp.toNat + chorus.chorus.dticks ∧
      chorus.chorus.members.find? (fun x => x.idx == (msg 7 9984).sender.toNat && x.st != 4) = some x) ∧ x ∈ chorus.chorus.members ∧
      ¬ (x.idx = chorus.chorus.self ∨ ¬ (x.st = 1 ∨ x.st = 2 ∨ x.st = 3)) := by decide +kernel
  refine ⟨⟨h.1.1, h.1.2.1, h.1.2.2.1, h.1.2.2.2.1, x, h.1.2.2.2.2, fun q hq => ?_⟩, by decide +kernel, fun hs => h.2.2 (hs x h.2.1), by decide +kernel⟩
  obtain rfl := Option.some.inj hq
  exact ⟨⟨0, Nat.zero_le _, rfl⟩, by decide⟩

theorem witness_ChorusSends : chorus.chorus.leaving = false ∧ chorus.chorus.joining = none ∧ ¬ single chorus ∧ single base ∧ base.chorus.leaving = false ∧
    (∀ l, ((started []).setCore 0 {} |>.core l).task = none) ∧ chorus.tick + 2 * chorus.chorus.dticks ≤ (10032 : BitVec 64).toNat ∧
    (10031 : BitVec 64).toNat < chorus.tick + 2 * chorus.chorus.dticks ∧ chorus.chorus.members.length < 1024 := by
  have h : base.chorus.members.all (fun m => m.idx == base.chorus.self) = true ∧ chorus.chorus.leaving = false ∧ chorus.chorus.joining = none := by
    decide +kernel
  exact ⟨h.2.1, h.2.2, witness_ChorusMessages.2.2.1, fun m hm => .inl (beq_iff_eq.1 (List.all_eq_true.1 h.1 m hm)), by decide +kernel⟩

/-- A decision tick that finds the neighbour silent, or has heard it; a switch tick of a steady chorus, and of a package that leaves. -/
def atTick (t : Nat) (f : Chorus → Chorus) : State := { chorus with clock := { chorus.clock with tick := BitVec.ofNat 64 t }, chorus := f chorus.chorus }

def steady : State := atTick 10240 fun c => { c with members := [{ idx := 0, st := 2, decls := [(10100, 10240, 3, 0)] }, { idx := 5, st := 2, decls := [(10200, 10240, 1, 0)] }] }

theorem witness_ChorusTicks :
    ((atTick 1 id).tick + (atTick 1 id).chorus.dticks) % 256 ≠ 0 ∧
    [[], [10000]].all (fun seen => let s := atTick 10224 fun c => { c with members := [{ idx := 0, st := 2 }, { idx := 5, st := 2, seen }] }
      decide ((s.tick + s.chorus.dticks) % 256 = 0)) = true ∧
    (steady.tick % 256 = 0 ∧ steady.chorus.leaving = false ∧ steady.chorus.joining = none ∧
      (∀ m ∈ steady.chorus.members, m.lostAt ≠ some steady.tick ∧ m.leaveAt ≠ some steady.tick ∧ m.joinAt ≠ some steady.tick) ∧
      (steady.chorus.at_ steady.tick).length = 2 ∧
      (steady.chorus.at_ steady.tick).all (fun m => (m.inForce steady.tick).any fun d => decide (steady.chorus.freshBy steady.tick ≤ d.1)) = true) ∧
    (let s := atTick 10240 fun c => { c with leaving := true }
     s.tick % 256 = 0 ∧ s.chorus.leaving = true ∧ s.chorus.joining = none) ∧
    (let s := atTick 3 fun c => { c with sponsor := some 2 }
     s.chorus.sponsor.isSome = true ∧ s.chorus.leaving = false) := by decide +kernel

/-- A decision tick at which a sponsor admits its joiner, and the tick at which a joiner becomes a member. -/
theorem witness_ChorusTicks_joining :
    (let s := atTick 10224 fun c => { c with members := c.members ++ [{ idx := 7, st := 1, mine := true, joinAt := some 10240 }] }
     s.tick + s.chorus.dticks = 10240 ∧ 10240 % 256 = 0 ∧ s.chorus.leaving = false ∧ (s.chorus.members.map (·.idx)).Nodup ∧
     s.chorus.members.getLast?.any (fun x => x.st == 1 && x.mine && x.joinAt == some 10240) = true) ∧
    (let s := atTick 10240 fun c => { c with joining := some (7, 10240, 4096, 3) }
     s.tick % 256 = 0 ∧ s.chorus.leaving = false ∧ s.chorus.joining = some (7, s.tick, 4096, 3)) ∧ (msg 7 9984).sender ≠ 7 := by decide +kernel

/-! ### Witnesses: the step -/

/-- Whether an outcome is a next state. -/
def isNext : Host.Outcome State Fault Refusal → Bool
  | .next _ => true
  | _ => false

theorem next_of {o : Host.Outcome State Fault Refusal} (h : isNext o = true) : ∃ t, o = .next t := by
  cases o with
  | next t => exact ⟨t, rfl⟩
  | _ => cases h

/-- What a core finds at pc, as a number. -/
def fateNo : Fate → Nat
  | .instr _ => 0
  | .illegal .. => 1
  | .fault .. => 2
  | .group _ => 3

/-- Core 0's turn: to run its instruction, at an annulled position, on a stall, at a reserved word, without a right to fetch, and at a VRED form of function 7 with g = 2
(R170). -/
def turns : List State := [base, on fun c => { c with fetch := { c.fetch with pc := { c.fetch.pc with ann := true } } },
  on fun c => { c with stall := some (.counters 2) }, State.reset.withFetchWord 32 0x80025857,
  on fun c => { c with task := some { c.theTask with leases := [] } }, State.reset.withFetchWord 32 0x7440323D]

theorem witness_StepRuns : (turns.all fun s => decide (s.clock.todo = [] ∧ s.clock.fresh = false ∧ s.clock.phase = .issue ∧ s.nextCore = some 0 ∧
      (s.core 0).run = .running ∧ (s.core 0).preq = false ∧ (s.core 0).pendingTrap = none)) = true ∧
    turns.map (fun s => ((s.core 0).fetch.pc.ann, (s.core 0).stall, fateNo (fateAt s.mem (s.core 0)))) =
      [(false, none, 0), (true, none, 0), (false, some (.counters 2), 0), (false, none, 1), (false, none, 2), (false, none, 3)] ∧
    fateAt base.mem (base.core 0) = .instr .NOP ∧ isNext (exec .NOP (turnOf base 0)) = true := by decide +kernel

/-- An event of the schedule, and an outside event whose cycle has come. -/
def outside : State := { base.setClock fun k => { k with phase := .edge, fresh := true } with inputs := [(0, .STANDBY_POWER_LOSS)] }

/-- A soft error whose cycle has come. -/
def struck : State := { base.setClock fun k => { k with phase := .edge, fresh := true } with upsets := [(0, .adder 0)] }

theorem witness_StepRunsTheEvents : (base.setClock fun k => { k with todo := [.referenceTick] }).clock.todo = [.referenceTick] ∧
    struck.upsets = [(0, .adder 0)] ∧ struck.clock.todo = [] ∧ struck.clock.fresh = true ∧ struck.clock.phase = .edge ∧ outside.upsets.head? = none ∧
    outside.clock.todo = [] ∧ outside.clock.fresh = true ∧ outside.clock.phase = .edge ∧ outside.inputs = [(0, .STANDBY_POWER_LOSS)] ∧ 0 ≤ outside.now ∧
    isOutside .STANDBY_POWER_LOSS = true ∧ isOutside (.DEP_DECREMENT 5) = true ∧ ({ outside with inputs := [(0, .DEP_DECREMENT 5)] } : State).upsets.head? = none := by
  decide +kernel

theorem witness_WellFormedWordsRun : ∃ y, wordAt base.mem (me base).theTask (me base).loop (me base).fetch.pc.addr.toNat = .ok y ∧
    (!prefixShape y.1 y.2 && !(me base).fetch.pc.tgt && decode y.2 == .instr .NOP && Instr.wellFormed .NOP) = true := ok_of (by decide +kernel)

/-- A state whose memories have their form and whose step answers a next state. -/
theorem witness_StepsKeepMemories : base.memWf ∧ ∃ t, step base = .next t :=
  ⟨⟨by decide +kernel, by decide +kernel, by decide +kernel⟩, next_of (by decide +kernel)⟩

/-- Instructions that answer a next state: one that completes, one that faults, one that stalls. -/
theorem witness_InstructionsKeep : (∃ t, exec .NOP base = .next t) ∧ (∃ t, exec (.LD_W 3 4 2 63) base = .next t) ∧
    ∃ t, exec (.WAIT 0 0 0 0) withCommand = .next t :=
  ⟨next_of (by decide +kernel), next_of (by decide +kernel), next_of (by decide +kernel)⟩

/-- A named register that is not `s0`. -/
theorem witness_NamedRegisters : 0 < 31 ∧ 31 < 32 ∧ ((me base).setS 31 7).getS 31 = 7 := by decide +kernel

/-! ### The spec's worked examples -/

/-- The value that an instruction has just produced. -/
def produced (o : Host.Outcome State Fault Refusal) : Option Word :=
  match o with
  | .next t => (me t).fly.getLast?.map (·.val)
  | _ => none

/-- As `base` in rounding mode `rm`. -/
def rounding (rm : BitVec 2) (x : Word) : State := on fun c => { (c.setS 1 x) with csr := { c.csr with frm := rm } }

/-- DIV and REM of -7 by 2 (R121); division by zero and its overflow. -/
theorem test_div : [produced (exec (.DIV 3 1 2) (regs [(1, -7), (2, 2)])), produced (exec (.REM 3 1 2) (regs [(1, -7), (2, 2)])),
    produced (exec (.REMU 3 1 2) (regs [(1, 7)])), produced (exec (.REM 3 1 2) (regs [(1, 0x8000000000000000), (2, -1)]))] =
    [some (-3), some (-1), some 7, some 0] := by decide +kernel

/-- FCVT.BF.S of 1 + 2^-8 in RNE and RUP (mode 3 of R61), FCVT.L.S of 2^63 (R133). -/
theorem test_fcvt : [produced (exec (.FCVT_BF_S 3 1) (rounding 0 0x3F808000)), produced (exec (.FCVT_BF_S 3 1) (rounding 2 0x3F808000)),
    produced (exec (.FCVT_BF_S 3 1) (rounding 3 0x3F808000)), produced (exec (.FCVT_L_S 3 1) (rounding 0 0x5F000000))] =
    [some 0x3F80, some 0x3F80, some 0x3F81, some 0x7FFFFFFFFFFFFFFF] := by decide +kernel

/-- PCNT of (1, 3), (0, 5) (R184), and the result's arrival in `k3`. -/
theorem test_pcnt : (let s := on fun c => { c with v := c.v.set 0 { fmt := 15, runs := [(3, 1), (5, 0)] } }
    (produced (exec (.PCNT 3 0) s), match exec (.PCNT 3 0) s with | .next t => (me t).k[3] | _ => {})) = (some 3, { count := 3, wid := 0 }) := by decide +kernel

/-- VFLOOR of -0.5, -0 and +0.5 in BF16 (R166). -/
theorem test_vfloor : (match exec (.VFLOOR 3 1 0 1) (on fun c => { c with v := c.v.set 1 { fmt := 2, runs := [(1, 0xBF00), (1, 0x8000), (1, 0x3F00)] } }) with
    | .next t => (me t).v[3].runs | _ => []) = [(1, 0xBF80), (1, 0x8000), (1, 0)] := by decide +kernel

/-- An FP32 accumulator of 1.0 and two products of 2^-24; INT32 accumulators that saturate once (R65 to R68). -/
theorem test_mma_sum :
    [mmaElem 0 (some 0x3F800000) (List.replicate 2 (valOf 2 0x3980, valOf 2 0x3980)),
      mmaElem 1 (some (2 ^ 31 - 10)) [(Val.ofInt 100, Val.ofInt 1)],
      mmaElem 1 (some (2 ^ 31 - 20)) [(Val.ofInt 120, Val.ofInt 1), (Val.ofInt (-110), Val.ofInt 1)]] = [0x3F800001, 0x7FFFFFFF, 0x7FFFFFF6] := by
  decide +kernel

/-- The check value of CRC-32C (R60), an AQ8 element (R53), and a CB3 index that straddles a word (R56). -/
theorem test_formats : crc32c ([0x31, 0x32, 0x33, 0x34, 0x35, 0x36, 0x37, 0x38, 0x39]) = 0xE3069283 ∧
    roundV 1 ((fltVal 3 0x3400).mul (Val.ofInt (130 - 128))) .rne = 0x3F000000 ∧ bitsOfList [0, 0, 0, 0xC0, 0] 30 3 = 3 := by decide +kernel

/-- The EBX block of four INT8 elements 5 (R57 to R59). -/
theorem test_ebx : (let line : Line := ⟨.ember 0, 0, leBytes 64 (fields [(0, 0x0000600004000023), (8, 1), (16, 2), (23, 0x20), (32, 0x2A), (34, 0x18)]), some 0, none, [], none⟩
    let x : EbxIn := { d := desc (withCsum (setFld (image 0 4 1 11 0 0) 103 4 6)), place := .ember 0, check := none, task := none, got := [line], peek := fun _ => line, now := 0, ranked := true }
    ((Ebx.decode x 16 4 { stage := .decode 256 0 }).toOption.map fun b => b.out)) = some [5, 5, 5, 5] := by decide +kernel

/-! ### Witnesses: forms that complete -/

/-- What the events of a core need that no witness above shows: one command or line alone, a port that takes a flit, a rewrite at the head of its queue. -/
theorem witness_CoreEventsComplete :
    (let s := eng 2 { copyCommand with stamp := some 0 } fun _ x => { x with begun := none }
     (engOf s 0 2).queue.map (fun q => (q.miss, q.stamp)) = [(none, some 0)] ∧ (engOf s 0 2).begun = none ∧ 0 ≤ s.clock.stamp.toNat) ∧
    (let s := eng 0 copyCommand fun _ x => { x with got := [⟨.glob, 0x40000, [], some 100, none, [], none⟩] }
     (engOf s 0 0).got.all (fun ln => ln.waits s.now && (translate s.mem (s.core 0).theTask ln.addr needRd).isSome) = true) ∧
    ((tables.port 2).trained && !(tables.port 2).skip.contains (5, 0, 1) && decide (((tables.port 2).store.filter (·.dst == 0)).length < 64)) = true ∧
    (let e := ((refreshing [] false none).core 0).ember
     e.queue.length = 1 ∧ e.queue.all (fun q => q.begun.isNone && decide (q.ready ≤ (refreshing [] false none).now)) = true) := by decide +kernel

/-- A start-up that has outlasted its time, a function without IDE, a template that nobody owns. -/
theorem witness_HostEventsComplete :
    (let s : State := { staged 3 false with clock := { (staged 3 false).clock with tick := 1000000001 } }
     s.boot.failed = false ∧ s.boot.stage < 8 ∧ s.boot.began + 1000000000 < s.tick) ∧
    (hosted.func 1).enabled = true ∧ (vget (hosted.hub.template 5) 65 0).getLsbD 34 = false ∧ (0xA5 : Word).toNat % 256 = 0xA5 ∧
    (let x := hosted.func 1
     let n := 2 ^ x.sqlog
     2 % 4096 < n ∧ (x.sqtail.toNat + n - x.sqhead.toNat) % n + (2 % 4096 + n - x.sqtail.toNat) % n < n ∧ 2 % 4096 < 2 ^ x.cqlog) := by decide +kernel

/-- A ramp table that is accepted, a quiet die with a table to apply, and the gating of a core. -/
theorem witness_PowerEventsComplete :
    (rampReset.toList.all fun r => decide (16 ≤ r.toNat ∧ r.toNat ≤ 4096)) = true ∧ ((rampReset.toList.zip rampReset.toList.tail).all fun r => decide (r.1 ≤ r.2)) = true ∧
    (let d := (onDie fun d => { d with next := some rampReset }).die 0
     d.next = some rampReset ∧ d.act = 0 ∧ d.c = 0 ∧ d.i = 0) ∧
    (((gatedFor 19 none).phys 5).gated = some 981 ∧ (gatedFor 19 none).tick - 981 < 20) ∧
    (((gatedFor 200 (some 900)).phys 5).gated = some 800 ∧ 200 ≤ (gatedFor 200 (some 900)).tick - 800) ∧
    (gatedFor 50 none).tick - 950 = 50 ∧ 1000 ≤ (gatedFor 49 none).tick := by decide +kernel

/-! ### Witnesses: interlocks, vector accesses and banks -/

/-- A source and a queue slot that wait for a result; a feed that is empty, without a producer and with one. -/
theorem witness_ScalarInterlocks :
    ((scalarForms 1 5 32 0 0 0).any fun r => decide (r.i = .ADD 1 5 32 ∧ r.srcs = [5, 32])) = true ∧ runs flying 4 .plain = true ∧
    (∃ f, waitsFor (me flying) 5 f) ∧ (∃ f, waitsFor (me flying) 32 f) ∧
    [0, 1].all (fun pb => let s := on fun c => { c with feeds := c.feeds.set 0 { pb } }
      runs s 4 .plain && ((me s).hazard [2, 48] 1).isNone && (readAll (me s) [2]).any fun y => (vget y.2.feeds 0 {}).elems.isEmpty) = true :=
  ⟨by decide +kernel, by decide +kernel, ⟨{ id := 3, dst := 5, val := 7, due := some 0 }, by decide +kernel, .inl (by decide +kernel)⟩,
    ⟨{ id := 3, dst := 5, val := 7, due := some 0 }, by decide +kernel, .inr (by decide +kernel)⟩, by decide +kernel⟩

/-- ADD reading `s5` and q0 while they wait for the result in slot 0, and reading feed 0 empty. -/
theorem test_interlocks : (match exec (.ADD 1 5 32) flying with | .next t => (me t).stall | _ => none) = some (.interlock 1) ∧
    (match exec (.ADD 1 2 48) base with | .next t => (me t).run | _ => .idle) = .entering 0x10 0 none false := by decide +kernel

/-- A load of class 2 that waits for its bank, before a global load of that class and before one of another. -/
def behind (cls : Nat) : State := flying.setCore 0 { flying.core 0 with
  fly := (flying.core 0).fly.map (fun f => { f with cls := if f.id = 3 then 2 else cls })
  reads := [{ who := .load 3, off := 0, len := 8, issue := 0 }] }

theorem witness_GlobalLoadFixed_readOpen : ∀ x ∈ [(2, true), (1, false)],
    (∃ f : Fly, ((behind x.1).core 0).fly.find? (fun f => f.id == 5 && f.walk.isSome) = some f ∧ (f.cls == x.1) = true) ∧
    ((behind x.1).core 0).readOpen x.1 5 = x.2 := by
  have h : [(2, true), (1, false)].all (fun x => (((behind x.1).core 0).fly.find? (fun f => f.id == 5 && f.walk.isSome)).any (fun f => f.cls == x.1) &&
      ((behind x.1).core 0).readOpen x.1 5 == x.2) = true := by decide +kernel
  intro x hx
  have h := List.all_eq_true.1 h x hx
  rw [Bool.and_eq_true, beq_iff_eq] at h
  exact ⟨opt_of h.1, h.2⟩

/-- Accesses of a vector memory instruction to consecutive words, the one at `bad` with a fault. -/
def accesses (n w : Nat) (data : List Byte) (bad : Option Nat) : List VElem :=
  (List.range n).map fun i => { ea := BitVec.ofNat 64 (0xE000000000000000 + w * i), place := .ember 0, addr := w * i, n := w, data := some data
                                code := if bad = some i then some 0x1A else none }

/-- Three elements of FP32 in two parts of two, the second of one active element; a first-fault load of them; two slots of an FP64 image. -/
def parted (kind : VKind) (bad : Option Nat) : VMem :=
  { strided none with kind, active := [2, 1], elems := accesses 3 4 [1, 0, 0, 0] bad, k := 3 }
def imaged (hi : Byte) (n : Nat) : VMem := { strided none with kind := .image, fmt := 0, active := [], elems := accesses n 8 [0, 0, 0, 0, 0, 0, hi, hi] none }

theorem witness_StridedLoadResult_parts :
    [VKind.strided, .firstFault].all (fun k => let m := parted k none
      decide (m.stop = none ∧ m.dst + m.active.length ≤ 32 ∧ m.elems.length = m.active.sum) && (m.elems.all fun x => x.code.isNone) &&
      (m.finish (base.core 0) 0).toOption.isSome) = true ∧
    (failsAt (parted .strided (some 0)) 0 0x1A 0xE000000000000000 ∧ failsAt (parted .firstFault (some 2)) 2 0x1A 0xE000000000000008 ∧
      failsAt { parted .firstFault none with stop := some (0x07, 5) } 3 0x07 5) ∧
    [2, 1].all (fun i => ((parted .firstFault (some i)).finish (base.core 0) 0).toOption.isSome) = true ∧
    2 = ((parted .firstFault none).active.take 1).sum + 0 ∧
    [(0, 4), (255, 4)].all (fun x => let m := imaged (BitVec.ofNat 8 x.1) x.2
      decide (m.stop = none ∧ m.dst < 32 ∧ m.elems.length ≤ 8192 ∧ (m.elems.map fun x => leNat (x.data.getD [])).length % 2 = 0) &&
      (m.elems.all fun x => x.code.isNone)) = true :=
  ⟨by decide +kernel, ⟨⟨by decide +kernel, .inl ⟨_, rfl, rfl, rfl⟩⟩, ⟨by decide +kernel, .inl ⟨_, rfl, rfl, rfl⟩⟩,
    ⟨by decide +kernel, .inr ⟨rfl, rfl⟩⟩⟩, by decide +kernel, rfl, by decide +kernel⟩

/-- What they leave: two elements and one, element 2 cut off with COUNT 2, and an image of two runs of one element. -/
theorem test_vector_results :
    (match (parted .strided none).finish (base.core 0) 0 with | .ok x => [elems x.1 3, elems x.1 4] | _ => []) = [[1, 1], [1]] ∧
    (match (parted .firstFault (some 2)).finish (base.core 0) 0 with | .ok x => ([elems x.1 3, elems x.1 4], (x.1.getK 3).count) | _ => ([], 0)) = ([[1, 1], []], 2) ∧
    (match (imaged 0 4).finish (base.core 0) 0 with | .ok x => some (x.1.getV 3).runs | _ => none) = some [(1, 0), (1, 0)] ∧
    (match (imaged 255 4).finish (base.core 0) 0 with | .error x => some x | _ => none) = some (0x0E, 3) := by decide +kernel

/-- Vector stores of one request: to own Ember, whose row group is empty, to operand SRAM, with or without an older store to those bytes, and to
global memory, plain and as a release. -/
def storesTo (ember side : List VReq) (stored : List GStore) (older : List GStore) : State :=
  let m : VMem := { strided none with kind := .store, elems := accesses 2 4 [1, 2, 3, 4] none, slots := 2, ember, side, stored }
  let s := occupied (some m)
  s.setCore 0 { s.core 0 with ember := { (s.core 0).ember with rows := [{ g := 0, st := .empty }] }, gst := older, vbusy := (s.core 0).vbusy.map fun v => { v with prog := 9 } }

def inSram : GStore := { addr := 0xE100000000000004, data := [some 9], cls := 0, prog := 1, due := 900 }
def toGlobal (rel : Option Nat) : GStore := { addr := 0x40000, data := [some 1, some 2, some 3, some 4], cls := 0, prog := 9, rel, due := 0 }

theorem oneRequest_accesses : oneRequest (accesses 2 4 [1, 2, 3, 4] none) 0 := by
  refine ⟨fun x hx => ?_, by decide⟩
  have h : (accesses 2 4 [1, 2, 3, 4] none).all (fun x => decide (x.data = some [1, 2, 3, 4] ∧ 4 = x.n ∧ 64 * 0 ≤ x.addr ∧ x.addr + x.n ≤ 64 * 0 + 64)) = true := by
    decide +kernel
  have h := of_decide_eq_true (List.all_eq_true.1 h x hx)
  exact ⟨_, h.1, h.2.1, h.2.2.1, h.2.2.2⟩

theorem witness_VectorStoresLand :
    ((storesTo [] [] [] []).core 0).ember.rowAt 0 = some { g := 0, st := .empty } ∧ ((storesTo [] [] [] []).core 0).ember.mem.wf = true ∧
    (let s := storesTo [⟨0, 2⟩] [] [] []
     ((s.core 0).vbusy.bind (·.mem)).any (fun m => m.kind == .store && m.ember == [⟨0, 2⟩]) = true ∧
     (((s.takeVec 0).core 0).vbusy.bind (·.mem)).any (fun m => m.ember == []) = true) ∧
    [[], [inSram]].all (fun older => let s := storesTo [] [⟨0, 2⟩] [] older
      (s.vecWorks 0).any (fun m => m.kind == .store && m.side == [⟨0, 2⟩] && (m.elems.drop 0).take 2 == accesses 2 4 [1, 2, 3, 4] none) && (s.core 0).sram.wf) = true ∧
    overlap (inSram.addr - sramWindow) inSram.data.length 4 4 = true ∧ inSram.prog < 9 ∧
    [none, some 0].all (fun rel => let s := storesTo [] [] [toGlobal rel] []
      ((s.core 0).readyStores s.now).isEmpty && (((s.core 0).readyVec s.now).map (·.2.2)) == some (toGlobal rel) && !(s.core 0).theTask.gang &&
      !(s.core 0).theTask.breaches 0x40000 (toGlobal rel).data && (s.core 0).spilt.isEmpty) = true ∧
    (storesTo [] [] [] []).vecEnds 0 = true := by decide +kernel

/-- A vector store's line in own Ember and in operand SRAM. -/
theorem test_vector_store : (let s := storesTo [⟨0, 2⟩] [] [] []
      (((State.vecWrites s (s.takeVec 0) 0).core 0).ember.mem.read 0 9)) = [1, 2, 3, 4, 1, 2, 3, 4, 0] ∧
    ((((storesTo [] [⟨0, 2⟩] [] []).vecSide 0).core 0).sram.read 0 9) = [1, 2, 3, 4, 1, 2, 3, 4, 0] ∧
    ((((storesTo [] [⟨0, 2⟩] [] [inSram]).vecSide 0).core 0).sram.read 0 9) = List.replicate 9 0 := by decide +kernel

/-- Requests of core 0: two for one bank and one for another, one of them starved; a hold register that nobody claims. -/
def ask (who : Who) (a : Nat) : Ask := { core := 0, who, key := a, place := .ember 0, addr := a, doing := .rmw }
def contested : State := storing.setCore 0 { storing.core 0 with ember := { (storing.core 0).ember with waits := [(.smith, 2048 * 3, 15)] } }

theorem witness_EmberArbitration : [ask .vec 0, ask .smith (2048 * 3), ask .smith 64].Nodup ∧ (∀ x ∈ (contested.core 0).ember.hold, x.1 < 32) ∧
    (0 : CoreId) ≠ 1 ∧ (1 : CoreId) < 2 := by decide +kernel

/-- The starved request goes first; of two for one bank the first in rank is granted (R205, R206). -/
theorem test_arbitration : (contested.core 0).ember.order 0 [ask .smith 64, ask .vec 0, ask .smith (2048 * 3)] =
      [ask .smith (2048 * 3), ask .vec 0, ask .smith 64] ∧
    (grantBanks [] [ask .vec 0, ask .smith 0, ask .smith 64]) = ([ask .vec 0, ask .smith 64], [ask .smith 0]) ∧
    [0, 64, 2048, 2112].map bankOf = [0, 1, 1, 0] := by decide +kernel

/-! ### Witnesses: commands, fills, cards and the chorus -/

/-- As `tables`, with one bit of descriptor 1 changed: its CSUM fails. -/
def upset : State := tables.setCore 0 { me tables with td := vput (me tables).td 1 (image 0 4 4 1 0 16 ^^^ 1) }

theorem witness_commandFault : ((copies 0 2 1 0 0 0 0 7 3).head?.any fun r => ((r.checks upset).find? fun x => !x.2.2) == some (0x15, 1, false)) = true ∧
    (let d := vget (me upset).td 1 0; d.toNat / 2 ^ 120 % 256 ≠ csumOf d) := by decide +kernel

/-- COPY of such a descriptor faults with 0x15, counts in `evpois` and enters the error log (R346, R416). -/
theorem test_descriptor_upset : (match exec (.COPY 0 2 1 0) upset with
    | .next t => ((me t).run, t.hub.errlog.head?.map fun e => (e.kind, e.unit)) | _ => (.idle, none)) =
    (.entering 0x15 1 none false, some (3, 5)) := by decide +kernel

/-- An EBX fill whose last block is checked: its metadata lines have landed. One that still decodes. -/
def ebxFilled (b : Ebx) : State :=
  let s := ebxFill 48 b
  let cmd : Cmd := { mmaCommand with ty := ebxImage }
  s.setCore 0 { s.core 0 with fills := (s.core 0).fills.map fun f =>
    { f with got := ((cmd.fillExtra ++ cmd.fillB.flatten).flatMap fun r => linesOfBits r.1 r.2).map fun a => { ebxLine 48 with addr := a } } }

theorem witness_CrucibleWorks_ebx :
    (let s := ebxFilled { stage := .done }
     let cmd : Cmd := { mmaCommand with ty := ebxImage }
     (engOf s 0 2).frozen = false ∧ ((engOf s 0 2).queue.find? (·.prog == 0) == some cmd) = true ∧
     (s.core 0).fills.length = 1 ∧ ((s.core 0).fills.all fun f => f.done.isNone && f.held.isNone && f.ebx == some { stage := .done }) = true ∧
     ((cmd.fillExtra ++ cmd.fillB.flatten).all fun r => (linesOfBits r.1 r.2).all fun a => (s.core 0).fills.all fun f =>
       !f.reqs.contains a && f.got.any fun ln => ln.addr == a && ln.due.any fun d => decide (d ≤ s.now)) = true) ∧
    (let s := ebxFill 48 {}
     ((s.core 0).fills.all fun f => f.done.isNone && f.held.isNone && f.ebx == some {}) = true ∧ (s.decodingFill 0).isSome = true) ∧
    (let s := ebxFill 48 { stage := .check, out := [1, 2] }
     (s.decodingFill 0).any fun y => !y.2.2.ranked && y.2.1.ready y.2.2 && y.2.1.out.length != ebxOut (y.2.2.head y.2.1.block)) = true := by decide +kernel

/-- A Temper command that writes where it still reads, and one that does not. -/
theorem witness_EngineLineWrites_overlap : rowCommand.overlaps = false ∧ ({ rowCommand with ty := image 16 4 4 2 0 8 } : Cmd).overlaps = true ∧
    (let cmd : Cmd := { rowCommand with ty := image 16 4 4 2 0 8 }
     let s := eng 3 cmd fun _ x => { x with lines := [(.ember 0, 0)] }
     (engOf s 0 3).active = true ∧ s.temperWrite 0 (engOf s 0 3) cmd = some 0 ∧ ((s.core 0).ember.rowAt 0).isSome = true ∧
     ((cmd.outLines (engOf s 0 3).micro).all fun b => ((s.core 0).ember.rowAt b).isSome) = true) := by decide +kernel

/-- Address-space ID 1 with a task and without one; its current root. -/
def tabled (busy : Bool) : State :=
  let s := if busy then bound id fun c => { c with task := some { c.theTask with asid := 1 } } else started []
  { s with hub := { s.hub with asids := [(1, 5, 0x10000)] } }

theorem witness_HubRecords_asid :
    (∃ task, ((tabled true).core 3).task = some task ∧ task.asid.toNat % 4096 = 1) ∧
    (∀ l : CoreId, ((tabled false).core l).task.all fun t => t.asid.toNat % 4096 != 1) ∧ (tabled false).hub.cards = [] ∧
    (tabled false).hub.asids.find? (·.1 == 1) = some (1, 5, 0x10000) := by
  have h : (((tabled true).core 3).task.any fun t => decide (t.asid.toNat % 4096 = 1)) = true ∧
      (∀ l : CoreId, ((tabled false).core l).task.all fun t => t.asid.toNat % 4096 != 1) ∧ (tabled false).hub.cards = [] ∧
      (tabled false).hub.asids.find? (·.1 == 1) = some (1, 5, 0x10000) := by decide +kernel
  obtain ⟨t, ht, h1⟩ := opt_of h.1
  exact ⟨⟨t, ht, of_decide_eq_true h1⟩, h.2⟩

/-- A core whose physical core is retired. -/
def worn (s : State) : State := s.setPhys 3 { s.phys 3 with retired := true }

/-- Chunks: records left by a retired core, none left, and a core that has been retired itself; a task that leaves such a core. -/
theorem witness_Dealing_left :
    [([1], 3), ([], 3), ([1], 0)].all (fun (x : List Nat × Nat) => let s := bound (fun k => { k with dealt := x.2, left := x.1 }) id
      (cardOf s (s.core 3).theTask.card).any fun k => (s.core 3).run == .bound && !k.gang && (s.core 3).records.isEmpty && !k.stops &&
        decide (k.argCount - k.dealt + k.left.length = 3 - x.2 + x.1.length) && s.hub.usable 3 && !(worn s).hub.usable 3) = true ∧
    (let s := worn (bound id fun c => { c with run := .ending, records := [2] })
     s.retires 3 = true ∧ s.hub.usable 3 = false ∧ ((cardOf s (s.core 3).theTask.card).any fun k => !k.gang && !k.stops) = true) := by decide +kernel

/-- A record left by a retired core is dealt first (R340). -/
theorem test_dealing : (match exec (.CHUNK_REQUEST 3) (bound (fun k => { k with dealt := 2, left := [0], nbound := 2 }) id) with
    | .next t => ((t.core 3).records, (cardOf t 9).map fun k => (k.dealt, k.left)) | _ => ([], none)) = ([0], some (2, [])) := by decide +kernel

/-- Numbers of a sender that has sent an ADMIT since, and none. -/
theorem witness_nextNumber : (∃ m : ChorusMsg, nextNumber { idx := 5, st := 2, seq := some 6, admits := [9984] } 6 m ∧ m = msg 8 9990) ∧
    nextNumber { idx := 5, st := 2, seq := some 6, admits := [9984] } 6 (msg 7 9984) ∧
    ¬ nextNumber { idx := 5, st := 2, seq := some 6 } 6 (msg 8 9984) := by
  refine ⟨⟨msg 8 9990, ⟨0, by decide, by decide⟩, rfl⟩, ⟨0, by decide, by decide⟩, fun ⟨j, hj, h⟩ => ?_⟩
  obtain rfl : j = 0 := Nat.le_zero.1 hj
  exact absurd h (by decide)

/-- The package has sent its own LEAVE. -/
theorem witness_ChorusSends_leave :
    (let s : State := { chorus with chorus := { chorus.chorus with members := [{ idx := 0, st := 3, leaveAt := some 10240 }, { idx := 5, st := 2 }] } }
     ∃ m ∈ s.chorus.members, m.idx = s.chorus.self ∧ m.st = 3) ∧ (∀ m ∈ chorus.chorus.members, m.idx = chorus.chorus.self → m.st ≠ 3) :=
  ⟨⟨_, List.mem_cons_self .., by decide +kernel, rfl⟩, by decide +kernel⟩

/-- A gang member's release store before lines of class 3, one with bytes of an older store and one with those of a younger. -/
def superseding : State := (made 0x40000 (some 0)).setCore 0 { (made 0x40000 (some 0)).core 0 with
  task := some { ((made 0x40000 (some 0)).core 0).theTask with gang := true }
  wbuf := [{ addr := 0x40000, bytes := [some 7, some 8, some 9], held := [(3, 0)] }, { addr := 0x40000, bytes := [some 5], held := [(3, 5)] }] }

theorem witness_StoresAreMade_cut : ((superseding.core 0).readyStores superseding.now).map (fun g => (g.addr, g.prog, g.rel)) = [(0x40000, 1, some 0)] ∧
    (superseding.core 0).wbuf.map (fun l => l.held.all fun h => h.2 < 1) = [true, false] ∧ (superseding.core 0).spilt = [] := by decide +kernel

/-- The bytes of the older store that the release covers leave their line (R256). -/
theorem test_supersede : (match exec (.STORE_ACCEPT 0) superseding with | .next t => (t.core 0).wbuf.map (·.bytes) | _ => []) =
    [[none, none, some 9], [some 5]] := by decide +kernel

end Sys2Proof.Tests
end

namespace Sys2Proof.Machine

/-! ### Cards by number -/

/-- The card found under a number has that number. -/
theorem Hub.card_id {h : Hub} {n : Nat} {k : Card} (hk : h.card n = some k) : k.id = n := by
  simpa using List.find?_some hk

/-- A card put in the place of those of its number. -/
theorem Hub.card_setCard (h : Hub) (c : Card) (n : Nat) :
    (h.setCard c).card n = if n = c.id then (h.card n).map (fun _ => c) else h.card n := by
  have hp : ((fun x : Card => x.id == n) ∘ fun x => if x.id == c.id then c else x) = fun x => x.id == n := by
    funext x
    by_cases e : x.id = c.id <;> simp [e]
  unfold Hub.card Hub.setCard
  rw [List.find?_map, hp]
  cases hf : h.cards.find? (·.id == n) with
  | none => simp
  | some k =>
    have hid : k.id = n := by simpa using List.find?_some hf
    by_cases e : n = c.id <;> simp [hid, e]

/-- A change of a card that keeps its number, as every other card finds it and as it finds itself. -/
theorem State.card_modCard (s : State) (n : Nat) {f : Card → Card} (hf : ∀ k, (f k).id = k.id) (m : Nat) :
    (s.modCard n f).hub.card m = if m = n then (s.hub.card n).map f else s.hub.card m := by
  unfold State.modCard
  cases hk : s.hub.card n with
  | none => by_cases e : m = n <;> simp [e, hk]
  | some k =>
    have hid : (f k).id = n := (hf k).trans (Hub.card_id hk)
    simp only [State.setHub_hub, Hub.card_setCard, hid]
    by_cases e : m = n <;> simp [e, hk]

theorem State.card_modCard_same {s : State} {n : Nat} {f : Card → Card} (hf : ∀ k, (f k).id = k.id) :
    (s.modCard n f).hub.card n = (s.hub.card n).map f := by
  simp [State.card_modCard s n hf]

theorem State.card_modCard_some {s : State} {n : Nat} {k : Card} {f : Card → Card} (hk : s.hub.card n = some k) (hf : ∀ k, (f k).id = k.id) :
    (s.modCard n f).hub.card n = some (f k) := by
  rw [State.card_modCard_same hf, hk]; rfl

/-- Changing a card changes the hub's list of cards alone. -/
theorem State.modCard_eq (s : State) (n : Nat) (f : Card → Card) :
    s.modCard n f = s.setHub { s.hub with cards := (s.modCard n f).hub.cards } := by
  unfold State.modCard; split <;> rfl

@[simp] theorem State.modCard_mem (s : State) (n : Nat) (f : Card → Card) : (s.modCard n f).mem = s.mem :=
  (congrArg State.mem (s.modCard_eq n f)).trans rfl
@[simp] theorem State.modCard_cores (s : State) (n : Nat) (f : Card → Card) : (s.modCard n f).cores = s.cores :=
  (congrArg State.cores (s.modCard_eq n f)).trans rfl
@[simp] theorem State.modCard_core (s : State) (n : Nat) (f : Card → Card) (l : CoreId) : (s.modCard n f).core l = s.core l :=
  (congrArg (State.core · l) (s.modCard_eq n f)).trans rfl
@[simp] theorem State.modCard_clock (s : State) (n : Nat) (f : Card → Card) : (s.modCard n f).clock = s.clock :=
  (congrArg State.clock (s.modCard_eq n f)).trans rfl
@[simp] theorem State.modCard_funcs (s : State) (n : Nat) (f : Card → Card) : (s.modCard n f).funcs = s.funcs :=
  (congrArg State.funcs (s.modCard_eq n f)).trans rfl
@[simp] theorem State.modCard_nextCard (s : State) (n : Nat) (f : Card → Card) : (s.modCard n f).hub.nextCard = s.hub.nextCard :=
  (congrArg (·.hub.nextCard) (s.modCard_eq n f)).trans rfl
@[simp] theorem State.modCard_deps (s : State) (n : Nat) (f : Card → Card) : (s.modCard n f).hub.deps = s.hub.deps :=
  (congrArg (·.hub.deps) (s.modCard_eq n f)).trans rfl
@[simp] theorem State.modCard_tabs (s : State) (n : Nat) (f : Card → Card) : (s.modCard n f).hub.tabs = s.hub.tabs :=
  (congrArg (·.hub.tabs) (s.modCard_eq n f)).trans rfl
@[simp] theorem State.modCard_lastCard (s : State) (n : Nat) (f : Card → Card) : (s.modCard n f).hub.lastCard = s.hub.lastCard :=
  (congrArg (·.hub.lastCard) (s.modCard_eq n f)).trans rfl
@[simp] theorem State.modCard_regrow (s : State) (n : Nat) (f : Card → Card) : (s.modCard n f).hub.regrow = s.hub.regrow :=
  (congrArg (·.hub.regrow) (s.modCard_eq n f)).trans rfl
@[simp] theorem State.modCard_sample (s : State) (n : Nat) (f : Card → Card) : (s.modCard n f).hub.sample = s.hub.sample :=
  (congrArg (·.hub.sample) (s.modCard_eq n f)).trans rfl

end Sys2Proof.Machine

namespace Sys2Proof.Machine

open Sys2Proof.Claims

/-! ### Positions that change nothing, and Salamander's answers -/

/-- A position that leaves its core as it is and is no transfer moves on to its successor. -/
theorem perform_ok {s : State} {size : Nat} {k : PosKind} {n : Fetch × Loop} (hk : k ≠ .transfer) (h : runs s size k = true)
    (hn : leads s (s.core s.cur).fetch none n) : perform s size k (fun _ c => .ok c) = after s (s.core s.cur) n := by
  obtain ⟨hr, hl⟩ := runs_iff.1 h
  unfold perform
  simp only [hr, hl, Act.ok, if_true, Bool.false_eq_true, if_false]
  rw [finishPos_ok (n := n) (by simpa [hk, leads] using hn)]
  rfl

/-- R110: an annulled position whose word is fetched and that starts a body where its target bit says so takes its cycle alone. -/
theorem execANNULLED_POSITION_next {c : CoreId} {s : State} {size w : Nat} {n : Fetch × Loop} (hr : (s.core c).run = .running)
    (ha : (s.core c).fetch.pc.ann = true)
    (hw : wordAt s.mem (s.core c).theTask (s.core c).loop (s.core c).fetch.pc.addr.toNat = .ok (size, w)) {head : Bool}
    (hh : isHeader s.mem (s.core c).theTask (s.core c).loop (s.core c).fetch.pc.addr.toNat = head)
    (ht : (s.core c).fetch.pc.tgt = true → head = true)
    (hruns : runs (Claims.at_ s c) size (if head then .header else .plain) = true) (hn : leads (Claims.at_ s c) (s.core c).fetch none n) :
    execANNULLED_POSITION c s = .next (after (Claims.at_ s c) (s.core c) n) := by
  have hp : perform (Claims.at_ s c) size (if head then .header else .plain) (fun _ k => .ok k) = after (Claims.at_ s c) (s.core c) n :=
    perform_ok (by cases head <;> simp) hruns hn
  have htgt : ((s.core c).fetch.pc.tgt && !head) = false := by
    cases h : (s.core c).fetch.pc.tgt with
    | false => rfl
    | true => simp [ht h]
  unfold execANNULLED_POSITION
  have hcore : State.core { s with cur := c } c = s.core c := rfl
  simp only [hcore, hr, ha, hw, hh, htgt, Bool.and_self, Bool.not_true, Bool.false_eq_true, if_false, beq_self_eq_true]
  exact congrArg Host.Outcome.next hp

/-- R93: an illegal position of a core that runs raises 0x02 for a reserved field and else 0x01. -/
theorem execILLEGAL_INSTRUCTION_next {c : CoreId} {s : State} (res : Bool) (p : Word) (hr : (s.core c).run = .running) :
    execILLEGAL_INSTRUCTION c res p s = .next (s.setCore c ((s.core c).raise (if res then 0x02 else 0x01) p none false s.now)) := by
  simp [execILLEGAL_INSTRUCTION, hr]

/-- R271, R272: the counters that a position waits for meet their bounds. -/
theorem execWAIT_CONDITION_MET_next {c : CoreId} {s : State} {n : Nat} (h : (s.core c).stall = some (.counters n)) :
    execWAIT_CONDITION_MET c s = .next (s.setCore c { s.core c with stall := none }) := by
  simp [execWAIT_CONDITION_MET, State.modCore, h]

theorem positionEvents : PositionEvents :=
  ⟨fun _ _ _ _ _ hr ha hw ht hruns hn => execANNULLED_POSITION_next hr ha hw rfl ht hruns hn,
    fun _ _ => ⟨rfl, fun _ h => execWAIT_CONDITION_MET_next h⟩,
    fun _ res p _ hr => execILLEGAL_INSTRUCTION_next res p hr⟩

/-! ### Restore words and services -/

/-- A write at a global address changes memory alone. -/
theorem State.writeGlobal_eq (s : State) (t : Task) (va : Nat) (bs : List (Option Byte)) :
    s.writeGlobal t va bs = { s with mem := (s.writeGlobal t va bs).mem } := by
  unfold State.writeGlobal; split <;> rfl

/-- A restore word is written to memory and changes nothing else. -/
theorem State.writeRestores_eq (s : State) (l : CoreId) (t : Task) :
    s.writeRestores l t = { s with mem := (s.writeRestores l t).mem } := by
  unfold State.writeRestores
  split
  · rfl
  · exact s.writeGlobal_eq _ _ _

@[simp] theorem State.writeRestores_core (s : State) (l : CoreId) (t : Task) (m : CoreId) : (s.writeRestores l t).core m = s.core m :=
  (congrArg (State.core · m) (s.writeRestores_eq l t)).trans rfl
@[simp] theorem State.writeRestores_hub (s : State) (l : CoreId) (t : Task) : (s.writeRestores l t).hub = s.hub :=
  (congrArg State.hub (s.writeRestores_eq l t)).trans rfl
@[simp] theorem State.writeRestores_clock (s : State) (l : CoreId) (t : Task) : (s.writeRestores l t).clock = s.clock :=
  (congrArg State.clock (s.writeRestores_eq l t)).trans rfl

/-- The result of each service (R199). -/
theorem serviceResult_eq (s : State) (a : Word) : serviceResult s a =
    if a.toNat % 65536 = 1 then s.clock.tick else if a.toNat % 65536 = 0 ∨ a.toNat % 65536 = 2 then 0 else -1 := by
  have hf : fld a 0 16 = a.toNat % 65536 := by simp [fld, bitsAt]
  unfold serviceResult
  rw [hf]
  split
  all_goals simp_all

/-- A named register after a write: `s0` and numbers outside the file are never written (R99). -/
theorem Core.getS_setS (c : Core) (r x : Nat) (v : Word) (hx : x < 32) : (c.setS r v).getS x = if x = r ∧ x ≠ 0 then v else c.getS x := by
  by_cases h0 : x = 0
  · simp [Core.getS, h0]
  · by_cases hr : r = 0
    · simp [Core.setS, hr, h0]
    · by_cases e : x = r
      · subst e; simp [Core.getS, Core.setS, h0, hx]
      · simp [Core.getS, Core.setS, h0, hr, e, Ne.symm e]

/-- The state in which the hub has noted what a service leaves (R199): the diagnostic word of service 2, and the task's restore word. -/
def State.served (s : State) (c : CoreId) (a b : Word) : State :=
  let t := (s.core c).theTask
  (if fld a 0 16 = 2 then s.modCard t.card fun x => { x with diag := b } else s).writeRestores c t

theorem State.served_core (s : State) (c : CoreId) (a b : Word) (l : CoreId) : (s.served c a b).core l = s.core l := by
  unfold State.served; split <;> simp

theorem State.served_clock (s : State) (c : CoreId) (a b : Word) : (s.served c a b).clock = s.clock := by
  unfold State.served; split <;> simp

/-- A core that a service has answered (R199). -/
def Core.answered (k : Core) (dst : Nat) (v : Word) (now : Nat) : Core :=
  { ({ k with q := pushQ k.q { val := v } }.setS dst v) with run := .running, ready := now }

@[simp] theorem Core.answered_run (k : Core) (dst : Nat) (v : Word) (now : Nat) : (k.answered dst v now).run = .running := rfl
@[simp] theorem Core.answered_ready (k : Core) (dst : Nat) (v : Word) (now : Nat) : (k.answered dst v now).ready = now := rfl
@[simp] theorem Core.answered_q (k : Core) (dst : Nat) (v : Word) (now : Nat) : (k.answered dst v now).q = pushQ k.q { val := v } :=
  Core.setS_q _ _ _

theorem Core.getS_answered (k : Core) (dst : Nat) (v : Word) (now x : Nat) (hx : x < 32) :
    (k.answered dst v now).getS x = if x = dst ∧ x ≠ 0 then v else k.getS x :=
  Core.getS_setS { k with q := pushQ k.q { val := v } } dst x v hx

/-- R199: a service that is due answers. -/
theorem execSYSTEM_SERVICE_next {c : CoreId} {s : State} {a b : Word} {dst due : Nat} (hr : (s.core c).run = .service a b dst due) (hd : due ≤ s.now) :
    execSYSTEM_SERVICE c s = .next ((s.served c a b).setCore c ((s.core c).answered dst (serviceResult s a) s.now)) := by
  have hlt : ¬ s.now < due := Nat.not_lt.2 hd
  have hnow : (s.served c a b).now = s.now := congrArg Clock.now (s.served_clock c a b)
  unfold execSYSTEM_SERVICE
  simp only [hr, hlt, if_false]
  change Host.Outcome.next ((s.served c a b).modCore c fun k => k.answered dst (serviceResult s a) (s.served c a b).now) = _
  rw [hnow, State.modCore, State.served_core]

theorem systemServices : SystemServices := by
  intro c a b dst due s hr hd
  refine ⟨_, execSYSTEM_SERVICE_next hr hd, ?_⟩
  rw [serviceResult_eq]
  refine ⟨by simp, by simp, fun x hx => by rw [State.core_setCore]; exact Core.getS_answered _ _ _ _ x hx, by simp only [State.core_setCore, Core.answered_q], ?_⟩
  intro h2 k hk
  have hf : fld a 0 16 = 2 := by simpa [fld, bitsAt] using h2
  simp [State.served, hf, State.card_modCard_same, hk]

/-- Settles O41: positions that change nothing, illegal positions, the ends of stalls, and Salamander's answers. -/
theorem positionsAndServices : Obligations.PositionsAndServices := ⟨positionEvents, systemServices⟩

end Sys2Proof.Machine

namespace Sys2Proof.Machine

open Sys2Proof.Claims

/-! ### Folds over cores and cards -/

/-- What every step of a fold keeps, the fold keeps. -/
theorem foldl_keeps {σ α β : Type} (g : σ → β) {f : σ → α → σ} : ∀ {l : List α} (s : σ), (∀ u, ∀ x ∈ l, g (f u x) = g u) → g (l.foldl f s) = g s
  | [], _, _ => rfl
  | x :: _, s, h => (foldl_keeps g (f s x) fun u y hy => h u y (List.mem_cons_of_mem _ hy)).trans (h s x List.mem_cons_self)

/-- A list whose entries differ, as the placement rules test it. -/
theorem nodup_of_distinct {α : Type} [BEq α] [LawfulBEq α] : ∀ {l : List α}, distinct l = true → l.Nodup
  | [], _ => List.nodup_nil
  | x :: t, h => by
    simp only [distinct, Bool.and_eq_true, Bool.not_eq_true', List.contains_eq_mem, decide_eq_false_iff_not] at h
    exact List.nodup_cons.2 ⟨h.1, nodup_of_distinct h.2⟩

@[simp] theorem State.setHub_core (s : State) (h : Hub) (l : CoreId) : (s.setHub h).core l = s.core l := rfl
@[simp] theorem State.setDie_core (s : State) (d : DieId) (x : Die) (l : CoreId) : (s.setDie d x).core l = s.core l := rfl
@[simp] theorem State.setFunc_core (s : State) (f : FnId) (x : Func) (l : CoreId) : (s.setFunc f x).core l = s.core l := rfl

theorem State.core_modCore_ne (s : State) (l m : CoreId) (f : Core → Core) (h : m ≠ l) : (s.modCore l f).core m = s.core m :=
  s.core_setCore_ne l m _ h

/-! ### Cores that cards leave (R39, R379, R384) -/

@[simp] theorem State.releaseMma_hub (s : State) (l : CoreId) : (s.releaseMma l).hub = s.hub := rfl
@[simp] theorem State.releaseMma_mem (s : State) (l : CoreId) : (s.releaseMma l).mem = s.mem := rfl
@[simp] theorem State.freeCore_hub (s : State) (l : CoreId) : (s.freeCore l).hub = s.hub := rfl
@[simp] theorem State.freeCore_mem (s : State) (l : CoreId) : (s.freeCore l).mem = s.mem := rfl

theorem State.freeCore_core_ne (s : State) (l m : CoreId) (h : m ≠ l) : (s.freeCore l).core m = s.core m := by
  rw [State.freeCore, State.core_setCore_ne _ _ _ _ h, State.releaseMma, State.core_modCore_ne _ _ _ _ h, State.setDie_core]

@[simp] theorem State.freeCore_task (s : State) (l : CoreId) : ((s.freeCore l).core l).task = none := by simp [State.freeCore]
@[simp] theorem State.freeCore_run (s : State) (l : CoreId) : ((s.freeCore l).core l).run = .idle := by simp [State.freeCore]
@[simp] theorem State.freeCore_ember (s : State) (l : CoreId) : ((s.freeCore l).core l).ember = {} := by simp [State.freeCore]

/-- A card that ends changes no core. -/
@[simp] theorem State.endCard_cores (s : State) (n : Nat) : (s.endCard n).cores = s.cores := by
  unfold State.endCard State.leaveSealed
  cases s.hub.card n with
  | none => rfl
  | some k => cases hk : k.key <;> simp only <;> split <;> rfl

theorem State.endIfDone_cases (s : State) (n : Nat) : s.endIfDone n = s ∨ s.endIfDone n = s.endCard n := by
  unfold State.endIfDone
  cases s.hub.card n with
  | none => exact .inl rfl
  | some k =>
    dsimp only
    generalize (k.st == .running && (if k.gang then k.cores.isEmpty else k.nbound == 0 && (k.toDeal == 0 || k.stops)) && k.saved.isEmpty) = b
    cases b
    · exact .inl rfl
    · exact .inr rfl

@[simp] theorem State.endIfDone_core (s : State) (n : Nat) (l : CoreId) : (s.endIfDone n).core l = s.core l := by
  rcases s.endIfDone_cases n with h | h
  · rw [h]
  · rw [h]; exact congrArg (·[l]) (s.endCard_cores n)

/-! ### Binding (R23, R28, R229, R328, R358) -/

@[simp] theorem State.bindCore_mem (s : State) (k : Card) (asid gangid : Word) (i : Nat) (l : CoreId) : (s.bindCore k asid gangid i l).mem = s.mem := rfl
@[simp] theorem State.bindCore_cards (s : State) (k : Card) (asid gangid : Word) (i n : Nat) (l : CoreId) :
    (s.bindCore k asid gangid i l).hub.card n = s.hub.card n := rfl
@[simp] theorem State.bindCore_tabs (s : State) (k : Card) (asid gangid : Word) (i : Nat) (l : CoreId) :
    (s.bindCore k asid gangid i l).hub.tabs = s.hub.tabs := rfl

theorem State.bindCore_core_ne (s : State) (k : Card) (asid gangid : Word) (i : Nat) (l m : CoreId) (h : m ≠ l) :
    (s.bindCore k asid gangid i l).core m = s.core m := by
  rw [State.bindCore, State.setHub_core, State.core_setCore_ne _ _ _ _ h]

/-- The card that another core last ran is what it was. -/
theorem State.bindCore_lastCard_ne (s : State) (k : Card) (asid gangid : Word) (i : Nat) (l m : CoreId) (h : m ≠ l) :
    (s.bindCore k asid gangid i l).hub.lastCard.find? (·.1 == m) = s.hub.lastCard.find? (·.1 == m) := by
  have hf : (fun x : CoreId × Nat => decide (x.1 != l ∧ x.1 == m)) = fun x => x.1 == m := by
    funext x
    by_cases e : x.1 = m <;> simp [e, h]
  change List.find? _ ((l, k.id) :: s.hub.lastCard.filter (·.1 != l)) = _
  rw [List.find?_cons_of_neg (by simpa using Ne.symm h), List.find?_filter, hf]

/-- What a core `l` that held `c` receives from the hub `h`: the bind record of its task, and the operand SRAM of its card or none. -/
def Card.boundCore (k : Card) (h : Hub) (c : Core) (asid gangid : Word) (i : Nat) (l : CoreId) : Core :=
  { run := .bound
    task := some (h.shown { k.taskAt i l asid gangid with eprio := k.level, resv := h.resv[l].val, start := k.start })
    sram := if (h.lastCard.find? (·.1 == l)).map (·.2) == some k.id then c.sram else {}, pwrRet := c.pwrRet, last := c.last }

theorem State.bindCore_core (s : State) (k : Card) (asid gangid : Word) (i : Nat) (l : CoreId) :
    (s.bindCore k asid gangid i l).core l = k.boundCore s.hub (s.core l) asid gangid i l := by
  rw [State.bindCore, State.setHub_core, State.core_setCore]
  rfl

/-- Of the hub a bound core depends on its own reservation class, the page tables and the card that it last ran. -/
theorem Card.boundCore_congr {k : Card} {h g : Hub} (c : Core) (asid gangid : Word) (i : Nat) {l : CoreId} (hr : h.resv = g.resv)
    (ht : h.tabs = g.tabs) (hl : h.lastCard.find? (·.1 == l) = g.lastCard.find? (·.1 == l)) :
    k.boundCore h c asid gangid i l = k.boundCore g c asid gangid i l := by
  unfold Card.boundCore Hub.shown
  rw [hr, ht, hl]

/-- The bind record that a core receives depends on no other core's. -/
theorem State.bindCore_bindCore (s : State) (k : Card) (asid gangid : Word) (i j : Nat) (l m : CoreId) (h : m ≠ l) :
    ((s.bindCore k asid gangid i l).bindCore k asid gangid j m).core m = (s.bindCore k asid gangid j m).core m := by
  rw [State.bindCore_core, State.bindCore_core, State.bindCore_core_ne _ _ _ _ _ _ _ h]
  exact Card.boundCore_congr _ _ _ _ rfl rfl (s.bindCore_lastCard_ne k asid gangid i l m h)

/-- Each of some distinct cores holds the bind record that it received. -/
theorem State.core_bindCores (k : Card) (asid gangid : Word) (cores : List (Nat × CoreId)) (s : State) (hd : (cores.map (·.2)).Nodup)
    (m : Nat × CoreId) (hm : m ∈ cores) :
    (cores.foldl (fun s m => s.bindCore k asid gangid m.1 m.2) s).core m.2 = (s.bindCore k asid gangid m.1 m.2).core m.2 := by
  induction cores generalizing s with
  | nil => cases hm
  | cons x t ih =>
    obtain ⟨hx, ht⟩ := List.nodup_cons.1 (by simpa only [List.map_cons] using hd)
    rw [List.foldl_cons]
    rcases List.mem_cons.1 hm with rfl | hm
    · refine foldl_keeps (State.core · m.2) _ fun u y hy => State.bindCore_core_ne u k asid gangid y.1 y.2 m.2 ?_
      exact fun e => hx (e ▸ List.mem_map_of_mem hy)
    · rw [ih _ ht hm]
      exact s.bindCore_bindCore k asid gangid x.1 m.1 x.2 m.2 fun e => hx (e ▸ List.mem_map_of_mem hm)

/-- What a binding leaves before its cores receive their records: the state `u` and the card `k'`. -/
structure State.Binds (s u : State) (card : Nat) (k k' : Card) (n : Nat) : Prop where
  cores : u.cores = s.cores
  lastCard : u.hub.lastCard = s.hub.lastCard
  found : u.hub.card card = some k'
  st : k'.st = .running
  nbound : k'.nbound = k.nbound + n
  taskAt : ∀ i l a g, k'.taskAt i l a g = k.taskAt i l a g
  mem : k.conf = false → u.mem = s.mem
  opened : k.conf = true → k.key = none → s.hub.keys.contains s.hub.nextKey = false →
    k'.key = some s.hub.nextKey ∧ u.mem = s.mem.openPages s.hub.nextKey (u.hub.sealed k s.mem)

/-- A card put in the place of one that is found is found there. -/
theorem Hub.card_setCard_found {g h : Hub} {n : Nat} {k k' : Card} (hg : g.cards = h.cards) (hk : h.card n = some k) (hid : k'.id = k.id) :
    (g.setCard k').card n = some k' := by
  have hgn : g.card n = some k := by simpa only [Hub.card, hg] using hk
  simp [Hub.card_setCard, hid, Hub.card_id hk, hgn]

/-- A card that may be bound has an address-space entry, and its cores differ. -/
theorem State.mayBind_facts {s : State} {k : Card} {cores : List (Nat × CoreId)} {spans : Bool} (h : s.mayBind k cores spans = true) :
    (∃ x, s.hub.asidFor k = some x) ∧ (cores.map (·.2)).Nodup := by
  simp only [State.mayBind, Bool.and_eq_true] at h
  obtain ⟨⟨⟨⟨⟨⟨⟨-, hd⟩, -⟩, -⟩, -⟩, -⟩, ha⟩, -⟩ := h
  exact ⟨Option.isSome_iff_exists.1 ha, nodup_of_distinct hd⟩

/-- R328: a card that may be bound runs, and each of its cores receives its bind record. -/
theorem execBIND_next {card : Nat} {k : Card} {cores : List (Nat × CoreId)} (start launch : BitVec 64) {span : List (BitVec 10)} {s : State}
    (hk : s.hub.card card = some k) (hb : s.mayBind k cores (!span.isEmpty) = true) :
    ∃ u k' asid gangid, s.Binds u card k k' cores.length ∧ execBIND card cores start launch span s =
      .next ((cores.foldl (fun s m => s.bindCore k' asid gangid m.1 m.2) u).modCard card fun k => { k with risen := 0 }) := by
  obtain ⟨⟨gen, asids⟩, ha⟩ := (State.mayBind_facts hb).1
  unfold execBIND
  simp only [hk, hb, ha, Bool.not_true, Bool.false_eq_true, if_false]
  refine ⟨_, _, _, _, ?_, rfl⟩
  constructor
  case cores => split <;> rfl
  case lastCard => split <;> split <;> rfl
  case found =>
    split <;> refine Hub.card_setCard_found (h := s.hub) ?_ hk rfl
    all_goals
      change Hub.cards (if _ then _ else _) = _
      split <;> rfl
  case st => rfl
  case nbound => rfl
  case taskAt => intros; rfl
  case mem =>
    intro h
    split
    next hf _ => exact absurd (show k.conf = true from (Bool.and_eq_true_iff.1 hf).1) (by simp [h])
    next => rfl
  case opened =>
    intro hc hn hf
    have hkey : (if k.conf then k.key.orElse fun _ => some s.hub.nextKey else none) = some s.hub.nextKey := by simp [hc, hn]
    have hfresh : (k.conf && !s.hub.keys.contains s.hub.nextKey) = true := by rw [hc, hf]; rfl
    refine ⟨hkey, ?_⟩
    split
    next hk' => rw [Option.some.inj (hk'.symm.trans hkey)]; rfl
    next hno => exact absurd hkey (hno _ (by rw [hkey]; exact hfresh))

/-- R23, R28, R229, R328, R358: what a binding leaves. -/
theorem binding : Binding := by
  intro card k cores start launch span s hk hb
  obtain ⟨u, k', asid, gangid, hu, he⟩ := execBIND_next start launch hk hb
  have hd := (State.mayBind_facts hb).2
  have hid : k'.id = card := Hub.card_id hu.found
  have hcore (l : CoreId) : u.core l = s.core l := congrArg (·[l]) hu.cores
  have hmem : (cores.foldl (fun s m => s.bindCore k' asid gangid m.1 m.2) u).mem = u.mem := foldl_keeps State.mem _ fun _ _ _ => rfl
  have htabs : (cores.foldl (fun s m => s.bindCore k' asid gangid m.1 m.2) u).hub.tabs = u.hub.tabs :=
    foldl_keeps (fun v : State => v.hub.tabs) _ fun _ _ _ => rfl
  have hcards : (cores.foldl (fun s m => s.bindCore k' asid gangid m.1 m.2) u).hub.card card = u.hub.card card :=
    foldl_keeps (fun v : State => v.hub.card card) _ fun _ _ _ => rfl
  have hend : ((cores.foldl (fun s m => s.bindCore k' asid gangid m.1 m.2) u).modCard card fun k => { k with risen := 0 }).hub.card card =
      some { k' with risen := 0 } := State.card_modCard_some (hcards.trans hu.found) fun _ => rfl
  refine ⟨_, he, fun hc => ?_, fun hc hn hf => ⟨?_, ?_⟩, fun l hl => ?_, ⟨_, hend, hu.st, hu.nbound, rfl⟩, fun m hm => ?_⟩
  · rw [State.modCard_mem, hmem, hu.mem hc]
  · rw [State.modCard_mem, hmem, (hu.opened hc hn hf).2, Hub.sealed, Hub.sealed, Hub.tablesOf, Hub.tablesOf, Hub.shown, Hub.shown,
      State.modCard_tabs, htabs]
  · exact (congrArg (·.bind (·.key)) hend).trans (hu.opened hc hn hf).1
  · rw [State.modCard_core, foldl_keeps (State.core · l) u fun v m hm => State.bindCore_core_ne v k' asid gangid m.1 m.2 l (Ne.symm (hl m hm)), hcore]
  · have hm' : ((cores.foldl (fun s m => s.bindCore k' asid gangid m.1 m.2) u).modCard card fun k => { k with risen := 0 }).core m.2 =
        k'.boundCore u.hub (s.core m.2) asid gangid m.1 m.2 := by
      rw [State.modCard_core, State.core_bindCores _ _ _ _ _ hd m hm, State.bindCore_core, hcore]
    have hx := hu.taskAt m.1 m.2 asid gangid
    rw [hm', Card.boundCore, hx, hu.lastCard, hid]
    refine ⟨rfl, ⟨_, rfl, Hub.card_id hk, rfl, rfl, rfl, rfl, rfl⟩, fun h => ?_, fun h => ?_⟩
    · simp [h]
    · simp [h]

/-! ### Dealing (R21, R22, R340) -/

/-- R21: a bound core without records receives the next chunk of a card that has records left. -/
theorem execCHUNK_REQUEST_deals {c : CoreId} {k : Card} {s : State} (hk : s.hub.card (s.core c).theTask.card = some k)
    (hr : (s.core c).run = .bound) (hg : k.gang = false) (hn : (s.core c).records = []) (hs : k.stops = false) (hl : 0 < k.toDeal)
    (hu : s.hub.usable c = true) :
    let n := max 1 (ceilDiv k.toDeal (2 * k.nbound))
    execCHUNK_REQUEST c s = .next ((s.setCore c { s.core c with records := (k.left ++ (List.range n).map (k.dealt + ·)).take n }).modCard k.id
      fun k => { k with dealt := k.dealt + (n - k.left.length), left := k.left.drop n }) := by
  have h0 : ¬ k.toDeal = 0 := by omega
  unfold execCHUNK_REQUEST
  simp only [hk, hr, hg, hn, hs, hu, h0, beq_self_eq_true, Bool.not_false, List.isEmpty_nil, Bool.and_self, Bool.not_true, Bool.false_eq_true,
    if_false, decide_false, Bool.or_self]

/-- R22, R340: a bound core leaves its card when no record remains, or when it has been retired. -/
theorem execCHUNK_REQUEST_leaves {c : CoreId} {k : Card} {s : State} (hk : s.hub.card (s.core c).theTask.card = some k)
    (hr : (s.core c).run = .bound) (hg : k.gang = false) (hn : (s.core c).records = []) (hl : k.toDeal = 0 ∨ s.hub.usable c = false) :
    execCHUNK_REQUEST c s = .next (((s.freeCore c).modCard k.id fun k => { k with nbound := k.nbound - 1 }).endIfDone k.id) := by
  have h : (decide (k.toDeal = 0) || k.stops || !s.hub.usable c) = true := by
    rcases hl with h | h <;> simp [h]
  unfold execCHUNK_REQUEST
  simp only [hk, hr, hg, hn, h, beq_self_eq_true, Bool.not_false, List.isEmpty_nil, Bool.and_self, Bool.not_true, Bool.false_eq_true, if_false, if_true]

/-- R21, R22, R340: a bound core of a batch card without records. -/
theorem dealing : Dealing := by
  intro c k s x hk hr hg hn hs left
  have hid : k.id = x.theTask.card := Hub.card_id hk
  refine ⟨fun hl hu _ => ⟨_, execCHUNK_REQUEST_deals hk hr hg hn hs hl hu, ?_⟩, fun hl => ⟨_, execCHUNK_REQUEST_leaves hk hr hg hn hl, ?_⟩⟩
  · refine ⟨by simp, ?_, fun l hl => ?_, ?_⟩
    · rw [State.modCard_core, State.core_setCore]; rfl
    · rw [State.modCard_core, State.core_setCore_ne _ _ _ _ hl]
    · exact State.card_modCard_some (hid.symm ▸ hk) fun _ => rfl
  · refine ⟨by simp, by simp, fun l hl => ?_⟩
    rw [State.endIfDone_core, State.modCard_core, State.freeCore_core_ne _ _ _ hl]

/-- Settles O50: what a binding leaves, and what a request for records is answered with. -/
theorem bindingAndDealing : Obligations.BindingAndDealing := ⟨binding, dealing⟩

end Sys2Proof.Machine

namespace Sys2Proof.Machine

open Sys2Proof.Claims

/-! ### A request for a core (R37, R38) -/

/-- What a step of a fold brings about, and no step undoes, holds at its end. -/
theorem foldl_reaches {σ α : Type} {P : σ → Prop} {f : σ → α → σ} {x : α} (hset : ∀ s, P (f s x)) (hkeep : ∀ s y, P s → P (f s y)) :
    ∀ {l : List α} (s : σ), x ∈ l → P (l.foldl f s)
  | y :: t, s, h => by
    rw [List.foldl_cons]
    rcases List.mem_cons.1 h with rfl | h
    · exact List.foldlRecOn t f (hset s) fun u hu y _ => hkeep u y hu
    · exact foldl_reaches hset hkeep _ h

/-- What a change of cores keeps of each core. -/
theorem State.modCore_keeps {β : Type} (g : Core → β) {f : Core → Core} (hf : ∀ c, g (f c) = g c) (s : State) (m l : CoreId) :
    g ((s.modCore m f).core l) = g (s.core l) := by
  by_cases e : l = m
  · rw [e, State.core_modCore, hf]
  · rw [State.core_modCore_ne _ _ _ _ e]

/-- A core of which a request asks that it stop, where its task has started. -/
def Core.asked (y : Core) : Core := if y.started then { y with preq := true } else y

theorem Core.asked_eq (y : Core) : y.asked = { y with preq := y.asked.preq } := by
  unfold Core.asked; split <;> rfl

theorem Core.asked_started (y : Core) : y.asked.started = y.started := by rw [Core.asked_eq]; rfl

theorem Core.asked_preq {y : Core} (h : y.started = true) : y.asked.preq = true := by rw [Core.asked, if_pos h]

/-- R37: a request that can be answered becomes pending on every member. -/
theorem execPREEMPT_REQUEST_asks {c : CoreId} {s : State} (hr : (s.core c).run ≠ .preempting) (hp : (s.core c).preq = false)
    (hm : s.maySave c = true) : execPREEMPT_REQUEST c s = .next ((s.stopSet c).foldl (fun s m => s.modCore m Core.asked) s) := by
  unfold execPREEMPT_REQUEST
  simp only [beq_iff_eq, hr, hp, hm, if_true, if_false, Bool.false_eq_true]
  rfl

theorem preempt_pends (c : CoreId) (s : State) (hr : (s.core c).run ≠ .preempting) (hp : (s.core c).preq = false) (hm : s.maySave c = true) :
    ∃ t, exec (.PREEMPT_REQUEST c) s = .next t ∧ t.mem = s.mem ∧ smithKept s t ∧
      ∀ m ∈ s.stopSet c, (s.core m).started = true → (t.core m).preq = true := by
  have keeps {β : Type} (g : Core → β) (hg : ∀ y, g (Core.asked y) = g y) (l : CoreId) :
      g (((s.stopSet c).foldl (fun s m => s.modCore m Core.asked) s).core l) = g (s.core l) :=
    foldl_keeps (fun u : State => g (u.core l)) s fun u m _ => u.modCore_keeps g hg m l
  refine ⟨_, execPREEMPT_REQUEST_asks hr hp hm, foldl_keeps State.mem s fun _ _ _ => rfl, fun l => ?_, fun m hm hs => ?_⟩
  · exact ⟨keeps Core.s (fun y => by rw [Core.asked_eq]) l, keeps Core.q (fun y => by rw [Core.asked_eq]) l,
      keeps Core.fetch (fun y => by rw [Core.asked_eq]) l, keeps Core.run (fun y => by rw [Core.asked_eq]) l⟩
  · refine foldl_reaches (P := fun u => (u.core m).started = true → (u.core m).preq = true) (fun u h => ?_) (fun u y h hu => ?_) s hm ?_
    · rw [State.core_modCore] at h ⊢
      exact Core.asked_preq (Core.asked_started _ ▸ h)
    · by_cases e : m = y
      · subst e
        rw [State.core_modCore] at hu ⊢
        exact Core.asked_preq (Core.asked_started _ ▸ hu)
      · rw [State.core_modCore_ne _ _ _ _ e] at hu ⊢
        exact h hu
    · rw [keeps Core.started Core.asked_started]; exact hs

/-! ### The stop (R37, R202, R384) -/

theorem Core.dropReq_eq (c : Core) : c.dropReq = { c with pwrReq := none, pwrRet := c.dropReq.pwrRet } := by
  unfold Core.dropReq; split <;> rfl
theorem Core.dropReq_s (c : Core) : c.dropReq.s = c.s := by rw [Core.dropReq_eq]
theorem Core.dropReq_eng (c : Core) : c.dropReq.eng = c.eng := by rw [Core.dropReq_eq]

theorem Core.rewind_s (c : Core) : c.rewind.s = c.s := by
  unfold Core.rewind
  dsimp only
  split <;> split <;> simp only [Core.dropReq_s]
theorem Core.rewind_eng (c : Core) : c.rewind.eng = c.eng := by
  unfold Core.rewind
  dsimp only
  split <;> split <;> simp only [Core.dropReq_eng]

theorem Core.releaseRegion_eq (c : Core) : c.releaseRegion = { c with pwrRet := c.releaseRegion.pwrRet, csr := c.releaseRegion.csr } := by
  unfold Core.releaseRegion; split <;> rfl

/-- The core as a stop leaves it before its engines are told. -/
def Core.parkedAt (c : Core) (now : Nat) : Core := (c.rewind.parkStores true now).releaseRegion

theorem Core.parkedAt_s (c : Core) (now : Nat) : (c.parkedAt now).s = c.s := by
  rw [Core.parkedAt, Core.releaseRegion_eq]; exact c.rewind_s
theorem Core.parkedAt_eng (c : Core) (now : Nat) : (c.parkedAt now).eng = c.eng := by
  rw [Core.parkedAt, Core.releaseRegion_eq]; exact c.rewind_eng

theorem Core.stopAt_s (c : Core) (mid : EngId → Bool) (now : Nat) : (c.stopAt mid now).s = c.s := c.parkedAt_s now

/-- What a stop tells an engine: one that is frozen or inside no micro-step stops at once, another at the end of its micro-step. -/
theorem Core.stopAt_eng (c : Core) (mid : EngId → Bool) (now : Nat) (e : EngId) : (c.stopAt mid now).eng[e] =
    if c.eng[e].frozen then { c.eng[e] with stop := true } else if mid e then { c.eng[e] with halts := true }
    else { c.eng[e].rewound with stop := true } := by
  have h : (c.stopAt mid now).eng[e] =
      let x := (c.parkedAt now).eng[e]
      if x.frozen then { x with stop := true } else if mid e then { x with halts := true } else { x.rewound with stop := true } := by
    simp only [Core.stopAt, Fin.getElem_fin, Vector.getElem_ofFn]
    rfl
  rw [h, Core.parkedAt_eng]

/-- The fills of a Crucible whose engine is neither frozen nor inside a micro-step are gone. -/
theorem Core.stopAt_fills {c : Core} {mid : EngId → Bool} (now : Nat) (hf : c.eng[(2 : EngId)].frozen = false) (hm : mid 2 = false) :
    (c.stopAt mid now).fills = [] := by
  have h : (c.stopAt mid now).fills = if (c.parkedAt now).eng[(2 : EngId)].frozen then (c.parkedAt now).fills
      else if mid 2 then (c.parkedAt now).fills.filter fun f => some f.prog == (c.parkedAt now).eng[(2 : EngId)].queue.head?.map (·.prog) else [] := rfl
  rw [h, Core.parkedAt_eng, hf, hm]
  rfl

/-- R37: at the next boundary the core stops. -/
theorem execPREEMPT_REQUEST_stops {c : CoreId} {s : State} (hr : (s.core c).run ≠ .preempting) (hp : (s.core c).preq = true)
    (hb : (s.core c).atBoundary s.now = true) (hph : s.clock.phase = .issue) :
    execPREEMPT_REQUEST c s = .next (s.setCore c ((s.core c).stopAt (s.midStep c) s.now)) := by
  unfold execPREEMPT_REQUEST
  simp only [beq_iff_eq, hr, hp, hb, hph, if_true, if_false, Bool.true_and]

theorem preempt_stops (c : CoreId) (s : State) (hr : (s.core c).run ≠ .preempting) (hp : (s.core c).preq = true)
    (hb : (s.core c).atBoundary s.now = true) (hph : s.clock.phase = .issue) :
    ∃ t, exec (.PREEMPT_REQUEST c) s = .next t ∧ t.mem = s.mem ∧ (t.core c).run = .preempting ∧ (t.core c).s = (s.core c).s ∧
      (∀ e : EngId, ((t.core c).eng[e]).queue = ((s.core c).eng[e]).queue ∧
        (s.midStep c e = false ∨ (engOf s c e).frozen = true → ((t.core c).eng[e]).stop = true) ∧
        (s.midStep c e = true → (engOf s c e).frozen = false → ((t.core c).eng[e]).halts = true)) ∧
      ((engOf s c 2).frozen = false → s.midStep c 2 = false → (t.core c).fills = []) ∧
      ∀ l, l ≠ c → t.core l = s.core l := by
  refine ⟨_, execPREEMPT_REQUEST_stops hr hp hb hph, rfl, ?_⟩
  simp only [State.core_setCore]
  refine ⟨Core.stopAt_run _ _ _, Core.stopAt_s _ _ _, fun e => ?_, Core.stopAt_fills _, fun l hl => s.core_setCore_ne c l _ hl⟩
  rw [Core.stopAt_eng]
  cases hf : ((s.core c).eng[e]).frozen <;> cases hm : s.midStep c e <;> simp [Eng.rewound]

/-! ### The save (R201, R390) -/

/-- The free number that a state hands out is no part of an image. -/
theorem Core.fullImage_fresh (c : Core) (s : State) (l : CoreId) (n : Nat) : c.fullImage s.fresh.2 l n = c.fullImage s l n := by
  have h : csrRead s.fresh.2 l c = csrRead s l c := rfl
  unfold Core.fullImage Core.image Core.imageParts
  rw [h]

theorem State.putImage_fresh (s : State) (t : Task) (img : Mem) (n : Nat) (key : Option Nat) :
    (s.fresh.2.putImage t img n key).mem = (s.putImage t img n key).mem := rfl

@[simp] theorem Core.context_theTask (c : Core) : c.context.theTask = c.theTask := rfl

/-- What is saved of a core (R201). -/
def State.savedOf (s : State) (l : CoreId) : Saved :=
  { task := (s.core l).theTask.index, at_ := l, core := (s.core l).context, free := s.fresh.1 }

/-- A card with one saved task more and one core fewer. -/
def Card.keeping (k : Card) (x : Saved) : Card := { k with saved := k.saved ++ [x], nbound := k.nbound - 1 }

theorem State.saveCore_card (s : State) (l : CoreId) {k : Card} (hk : s.hub.card (s.core l).theTask.card = some k) :
    (s.saveCore l).hub.card k.id = some (k.keeping (s.savedOf l)) := by
  rw [Hub.card_id hk]
  exact State.card_modCard_some (f := fun k => k.keeping (s.savedOf l)) hk fun _ => rfl

theorem State.saveCore_mem (s : State) (l : CoreId) {k : Card} (hk : s.hub.card (s.core l).theTask.card = some k) :
    (s.saveCore l).mem = (s.putImage (s.core l).theTask ((s.core l).context.fullImage s l s.fresh.1) (s.core l).context.imageBytes k.key).mem := by
  have hkey : s.fresh.2.keyOf (s.core l).theTask.card = k.key := by
    change (s.hub.card _).bind _ = _
    rw [hk]; rfl
  have h : (s.saveCore l).mem = (s.fresh.2.putImage (s.core l).theTask ((s.core l).context.fullImage s.fresh.2 l s.fresh.1)
      (s.core l).context.imageBytes (s.fresh.2.keyOf (s.core l).theTask.card)).mem := State.modCard_mem _ _ _
  rw [h, hkey, Core.fullImage_fresh, State.putImage_fresh]

theorem State.saveCore_regrow (s : State) (l : CoreId) : (s.saveCore l).hub.regrow = s.hub.regrow := State.modCard_regrow _ _ _

theorem preempt_saves (c : CoreId) (k : Card) (s : State) (hr : (s.core c).run = .preempting) (ha : s.allStill c = true) (hg : s.hub.regrow = [])
    (hk : cardOf s (s.core c).theTask.card = some k) :
    let y := (s.core c).context
    ∃ t, exec (.PREEMPT_REQUEST c) s = .next t ∧ (t.core c).task = none ∧ (t.core c).run = .idle ∧
      t.mem = (s.putImage y.theTask (y.fullImage s c s.fresh.1) y.imageBytes k.key).mem ∧
      (cardOf t k.id).map (·.saved) = some (k.saved ++ [{ task := (s.core c).theTask.index, at_ := c, core := y, free := s.fresh.1 }]) := by
  have he : execPREEMPT_REQUEST c s = .next (s.saveCore c) := by
    have hno : ((s.stopSet c).any fun m => (s.saveCore c).hub.regrow.contains m) = false := by
      rw [State.saveCore_regrow, hg]; simp
    unfold execPREEMPT_REQUEST
    simp only [hr, ha, hno, beq_self_eq_true, if_true, Bool.not_true, Bool.false_eq_true, if_false]
  exact ⟨_, he, State.freeCore_task _ _, State.freeCore_run _ _, s.saveCore_mem c hk, congrArg (Option.map Card.saved) (s.saveCore_card c hk)⟩

end Sys2Proof.Machine

namespace Sys2Proof.Machine

open Sys2Proof.Claims

/-! ### The restore of one task (R201, R202, R341, R384, R410) -/

theorem Core.restore_task (c now : Core) (seed : Option Nat) : (c.restore now seed).task = c.task := by
  unfold Core.restore; dsimp only; split <;> rfl
theorem Core.restore_s (c now : Core) (seed : Option Nat) : (c.restore now seed).s = c.s := by
  unfold Core.restore; dsimp only; split <;> rfl
theorem Core.restore_q (c now : Core) (seed : Option Nat) : (c.restore now seed).q = c.q := by
  unfold Core.restore; dsimp only; split <;> rfl
theorem Core.restore_v (c now : Core) (seed : Option Nat) : (c.restore now seed).v = c.v := by
  unfold Core.restore; dsimp only; split <;> rfl
theorem Core.restore_fetch (c now : Core) (seed : Option Nat) : (c.restore now seed).fetch = c.fetch := by
  unfold Core.restore; dsimp only; split <;> rfl
theorem Core.restore_run (c now : Core) (seed : Option Nat) : (c.restore now seed).run = .restoring c.csr.grant := by
  unfold Core.restore; dsimp only; split <;> simp_all
theorem Core.restore_pwrReq (c now : Core) (seed : Option Nat) (h : c.csr.grant = true) :
    (c.restore now seed).pwrReq.map (·.level) = some c.csr.level := by
  simp [Core.restore, h]

theorem State.rebind_core (s : State) (l : CoreId) : (s.rebind l).core l = { s.core l with feeds := ((s.rebind l).core l).feeds } := by
  rw [State.rebind, State.core_modCore]
theorem State.rebind_core_ne (s : State) (l m : CoreId) (h : m ≠ l) : (s.rebind l).core m = s.core m := s.core_modCore_ne l m _ h

/-- A saved task with the page tables that its address space now shows its units (R240). -/
def Saved.shown (x : Saved) (h : Hub) : Saved := { x with core := { x.core with task := x.core.task.map h.shown } }

/-- A card one of whose saved tasks has gone back to its core `l`, in a part of its areas. -/
def Card.takes (k : Card) (part task : Nat) (l : CoreId) : Card :=
  { k.revive part with saved := k.saved.filter fun y => !(y.task == task && y.at_ == l), nbound := k.nbound + 1 }

/-- `u` is the state `s` with the context `back` put on core `l`. -/
structure State.Restores (s u : State) (l : CoreId) (card : Nat) (k : Card) (back : Core) : Prop where
  core : ∃ seed feeds, u.core l = { back.restore (s.core l) seed with feeds }
  others : ∀ m, m ≠ l → u.core m = s.core m
  card : u.hub.card card = some k

/-- What a restore leaves: the context on its core, or, of a confidential card whose image has changed, the system stop that follows. -/
theorem State.restoreCore_some {s : State} {l : CoreId} {card task : Nat} {k : Card} {x : Saved} (hk : s.hub.card card = some k)
    (hx : (k.saved.find? fun x => x.task == task && x.at_ == l) = some x) :
    let y := x.shown s.hub
    ∃ u tval, s.Restores u l card (k.takes (k.part y.core.theTask l) task l) (s.contextOf y k.key).1 ∧
      s.restoreCore l card task = if (s.contextOf y k.key).2 then u else u.systemStop l 0x1A tval := by
  unfold State.restoreCore
  simp only [hk, hx]
  refine ⟨_, _, ⟨?_, fun m hm => ?_, ?_⟩, rfl⟩
  · rw [State.writeRestores_core, State.setHub_core, State.rebind_core, State.core_setCore, State.modCard_core]
    exact ⟨_, _, rfl⟩
  · rw [State.writeRestores_core, State.setHub_core, State.rebind_core_ne _ _ _ hm, State.core_setCore_ne _ _ _ _ hm, State.modCard_core]
    rfl
  · rw [State.writeRestores_hub]
    exact State.card_modCard_some (f := fun y => y.takes (k.part (x.shown s.hub).core.theTask l) task l) hk fun _ => rfl

/-- The core of a restored task holds its context, and waits for the region that stood. -/
theorem State.Restores.fields {s u : State} {l : CoreId} {card : Nat} {k : Card} {back : Core} (h : s.Restores u l card k back) :
    (u.core l).task = back.task ∧ (u.core l).s = back.s ∧ (u.core l).q = back.q ∧ (u.core l).v = back.v ∧ (u.core l).fetch = back.fetch ∧
      (u.core l).run = .restoring back.csr.grant ∧ (back.csr.grant = true → (u.core l).pwrReq.map (·.level) = some back.csr.level) := by
  obtain ⟨seed, feeds, hc⟩ := h.core
  rw [hc]
  exact ⟨Core.restore_task _ _ _, Core.restore_s _ _ _, Core.restore_q _ _ _, Core.restore_v _ _ _, Core.restore_fetch _ _ _,
    Core.restore_run _ _ _, Core.restore_pwrReq _ _ _⟩

/-! ### What a save area gives back -/

theorem Core.fromImage_task (c : Core) (m : Mem) : (c.fromImage m).task = c.task := by unfold Core.fromImage; rfl
theorem Core.fromImage_fetch (c : Core) (m : Mem) : (c.fromImage m).fetch = c.fetch := by unfold Core.fromImage; rfl

theorem State.contextOf_stands {s : State} {x : Saved} {key : Option Nat} (h : s.imageStands x key = true) : s.contextOf x key = (x.core, true) := by
  rw [State.contextOf, if_pos h]

theorem State.contextOf_changed {s : State} {x : Saved} (h : s.imageStands x none = false) :
    s.contextOf x none = (x.core.fromImage (s.getImage x.core.theTask x.core.imageBytes), true) := by
  simp [State.contextOf, h]

/-- The context that a saved task takes up where it is not refused. -/
theorem State.contextOf_given {s : State} {x : Saved} {key : Option Nat} (h : key = none ∨ s.imageStands x key = true) :
    s.contextOf x key = (if s.imageStands x key = true then x.core else x.core.fromImage (s.getImage x.core.theTask x.core.imageBytes), true) := by
  by_cases hs : s.imageStands x key = true
  · rw [State.contextOf_stands hs, if_pos hs]
  · obtain rfl := h.resolve_right hs
    rw [State.contextOf_changed (Bool.eq_false_iff.2 hs), if_neg hs]

/-- Its task and its fetch state are those that were saved. -/
theorem State.given_kept (s : State) (x : Saved) (key : Option Nat) :
    let y := if s.imageStands x key = true then x.core else x.core.fromImage (s.getImage x.core.theTask x.core.imageBytes)
    y.task = x.core.task ∧ y.fetch = x.core.fetch := by
  intro y
  by_cases hs : s.imageStands x key = true
  · rw [show y = x.core from if_pos hs]; exact ⟨rfl, rfl⟩
  · rw [show y = _ from if_neg hs]; exact ⟨Core.fromImage_task _ _, Core.fromImage_fetch _ _⟩

theorem State.contextOf_refused {s : State} {x : Saved} {key : Option Nat} (h : s.imageStands x key = false) (hk : key ≠ none) :
    s.contextOf x key = (x.core, false) := by
  obtain ⟨n, rfl⟩ := Option.ne_none_iff_exists'.1 hk
  simp [State.contextOf, h]

/-- R410: the context of a card without a key is never refused. -/
theorem State.contextOf_open (s : State) (x : Saved) : (s.contextOf x none).2 = true ∧ (s.contextOf x none).1.task = x.core.task := by
  cases h : s.imageStands x none with
  | true => rw [State.contextOf_stands h]; exact ⟨rfl, rfl⟩
  | false => rw [State.contextOf_changed h]; exact ⟨rfl, Core.fromImage_task _ _⟩

/-! ### System stops (R189) -/

@[simp] theorem State.systemStop_run (s : State) (l : CoreId) (code : Byte) (tval : Word) : ((s.systemStop l code tval).core l).run = .stopped := by
  rw [State.systemStop, State.modCard_core, State.core_setCore]

theorem State.systemStop_core_ne (s : State) (l m : CoreId) (code : Byte) (tval : Word) (h : m ≠ l) :
    (s.systemStop l code tval).core m = s.core m := by
  rw [State.systemStop, State.modCard_core, State.core_setCore_ne _ _ _ _ h]

/-- Of a card a stop touches what its record says and whether its tasks are being ended. -/
theorem Card.stopBy_eq (k : Card) (code : Byte) (i : Nat) (tval : Word) (told : Nat × Nat) :
    ∃ a b c d e f, k.stopBy code i tval told = { k with stops := a, status := b, code := c, task := d, tval := e, told := f } := by
  unfold Card.stopBy
  extract_lets
  split <;> exact ⟨_, _, _, _, _, _, rfl⟩
theorem Card.stopBy_id (k : Card) (code : Byte) (i : Nat) (tval : Word) (told : Nat × Nat) : (k.stopBy code i tval told).id = k.id := by
  obtain ⟨_, _, _, _, _, _, h⟩ := k.stopBy_eq code i tval told
  rw [h]
theorem Card.stopBy_restored (k : Card) (code : Byte) (i : Nat) (tval : Word) (told : Nat × Nat) (part : Nat) :
    (k.stopBy code i tval told).restored part = k.restored part := by
  obtain ⟨_, _, _, _, _, _, h⟩ := k.stopBy_eq code i tval told
  rw [h]; rfl

/-- A stop touches no restore word. -/
theorem State.systemStop_restored (s : State) (l : CoreId) (code : Byte) (tval : Word) (card part : Nat) :
    ((s.systemStop l code tval).hub.card card).map (·.restored part) = (s.hub.card card).map (·.restored part) := by
  rw [State.systemStop, State.card_modCard _ _ (fun k => k.stopBy_id _ _ _ _)]
  split
  next e =>
    rw [Option.map_map, e, State.setCore_hub]
    exact congrArg (Option.map · _) (funext fun k => k.stopBy_restored _ _ _ _ part)
  next => rfl

/-! ### CONTEXT_RESTORE -/

/-- A task of a batch card goes back alone. -/
theorem execCONTEXT_RESTORE_single {c : CoreId} {card task : Nat} {k : Card} {s : State} (hm : s.mayRestore k c = true)
    (hk : s.hub.card card = some k) (hg : k.gang = false) : execCONTEXT_RESTORE c card task s = .next (s.restoreCore c card task) := by
  simp [execCONTEXT_RESTORE, hk, hg, hm]

theorem restore_single (c : CoreId) (card task : Nat) (k : Card) (x : Saved) (s : State) (hm : s.mayRestore k c = true)
    (hk : cardOf s card = some k) (hg : k.gang = false) (hx : (k.saved.find? fun x => x.task == task && x.at_ == c) = some x) :
    let x := x.shown s.hub
    let stands := s.imageStands x k.key
    let y := if stands = true then x.core else x.core.fromImage (s.getImage x.core.theTask x.core.imageBytes)
    ∃ t, exec (.CONTEXT_RESTORE c card task) s = .next t ∧
      (k.key = none ∨ stands = true → (t.core c).task = x.core.task ∧ (t.core c).s = y.s ∧ (t.core c).q = y.q ∧ (t.core c).v = y.v ∧
        (t.core c).fetch = x.core.fetch ∧ (t.core c).run = .restoring y.csr.grant ∧
        (y.csr.grant = true → (t.core c).pwrReq.map (·.level) = some y.csr.level)) ∧
      (k.key ≠ none → stands = false → (t.core c).run = .stopped) ∧
      (cardOf t card).map (fun y => y.restored (k.part x.core.theTask c)) = some (k.restored (k.part x.core.theTask c) + 1) := by
  intro x' stands y
  obtain ⟨u, tval, hu, he⟩ := State.restoreCore_some hk hx
  have hcount : (u.hub.card card).map (fun y => y.restored (k.part x'.core.theTask c)) = some (k.restored (k.part x'.core.theTask c) + 1) := by
    rw [hu.card]
    exact congrArg some (k.revive_restored _)
  by_cases hok : k.key = none ∨ stands = true
  · have hc : s.contextOf (x.shown s.hub) k.key = (y, true) := State.contextOf_given hok
    obtain ⟨hytask, hyfetch⟩ : y.task = x'.core.task ∧ y.fetch = x'.core.fetch := s.given_kept x' k.key
    rw [hc, if_pos rfl] at he
    rw [hc] at hu
    obtain ⟨htask, hs, hq, hv, hfetch, hrun, hreq⟩ := hu.fields
    exact ⟨u, (execCONTEXT_RESTORE_single hm hk hg).trans (congrArg _ he),
      fun _ => ⟨htask.trans hytask, hs, hq, hv, hfetch.trans hyfetch, hrun, hreq⟩,
      fun hn hs => absurd hok (by simp [hn, hs]), hcount⟩
  · obtain ⟨hn, hs⟩ := not_or.1 hok
    have hc : s.contextOf (x.shown s.hub) k.key = (x'.core, false) := State.contextOf_refused (Bool.eq_false_iff.2 hs) hn
    rw [hc, if_neg (by simp)] at he
    exact ⟨_, (execCONTEXT_RESTORE_single hm hk hg).trans (congrArg _ he), fun h => absurd h hok, fun _ _ => State.systemStop_run _ _ _ _,
      (State.systemStop_restored _ _ _ _ _ _).trans hcount⟩

/-- A restore onto one core leaves every other. -/
theorem State.restoreCore_core_ne (s : State) (l m : CoreId) (card task : Nat) (h : m ≠ l) : (s.restoreCore l card task).core m = s.core m := by
  cases hk : s.hub.card card with
  | none => simp only [State.restoreCore, hk]
  | some k =>
    cases hx : k.saved.find? fun x => x.task == task && x.at_ == l with
    | none => simp only [State.restoreCore, hk, hx]
    | some x =>
      obtain ⟨u, tval, hu, he⟩ := State.restoreCore_some hk hx
      rw [he]
      split
      · exact hu.others m h
      · rw [State.systemStop_core_ne _ _ _ _ _ h, hu.others m h]

/-- R38: when the tasks `L` that a card without a key has saved, on distinct cores, go back one after the other, each stands on its core. -/
theorem State.restoreAll {card : Nat} (L : List Saved) (s : State) (k : Card) (hk : s.hub.card card = some k) (hs : k.saved = L) (hkey : k.key = none)
    (hd : (L.map (·.at_)).Nodup) (x : Saved) (hx : x ∈ L) :
    ((L.foldl (fun s x => s.restoreCore x.at_ card x.task) s).core x.at_).task.map (·.index) = x.core.task.map (·.index) := by
  induction L generalizing s k with
  | nil => cases hx
  | cons y t ih =>
    obtain ⟨hy, ht⟩ := List.nodup_cons.1 (by simpa only [List.map_cons] using hd)
    have hne (z : Saved) (hz : z ∈ t) : z.at_ ≠ y.at_ := fun e => hy (e ▸ List.mem_map_of_mem hz)
    have hf : (k.saved.find? fun x => x.task == y.task && x.at_ == y.at_) = some y := by
      rw [hs, List.find?_cons_of_pos (by simp)]
    obtain ⟨u, tval, hu, he⟩ := State.restoreCore_some hk hf
    obtain ⟨hok, htask⟩ := s.contextOf_open (y.shown s.hub)
    rw [hkey] at he hu
    rw [hok, if_pos rfl] at he
    rw [List.foldl_cons, he]
    rcases List.mem_cons.1 hx with rfl | hx
    · rw [foldl_keeps (State.core · x.at_) u fun v z hz => v.restoreCore_core_ne _ _ _ _ (hne z hz).symm, hu.fields.1, htask]
      cases hc : x.core.task <;> simp [Saved.shown, hc, Hub.shown]
    · have hrest : (k.saved.filter fun z => !(z.task == y.task && z.at_ == y.at_)) = t := by
        rw [hs, List.filter_cons_of_neg (by simp)]
        exact List.filter_eq_self.2 fun z hz => by simp [hne z hz]
      exact ih u _ hu.card hrest hkey ht hx

theorem restore_gang (c : CoreId) (card task : Nat) (k : Card) (s : State) (hk : cardOf s card = some k) (hg : k.gang = true) (hkey : k.key = none)
    (ha : (k.saved.any fun x => x.task == task && x.at_ == c) = true) (hl : k.saved.length = k.cores.length)
    (hm : ∀ x ∈ k.saved, s.mayRestore k x.at_ = true ∧ x.core.task.isSome = true) (hd : (k.saved.map (·.at_)).Nodup) :
    ∃ t, exec (.CONTEXT_RESTORE c card task) s = .next t ∧ ∀ x ∈ k.saved, (t.core x.at_).task.map (·.index) = x.core.task.map (·.index) := by
  have hall : (k.saved.all fun x => s.mayRestore k x.at_) = true := List.all_eq_true.2 fun x hx => (hm x hx).1
  have hk' : s.hub.card card = some k := hk
  have he : execCONTEXT_RESTORE c card task s = .next (k.saved.foldl (fun s x => s.restoreCore x.at_ card x.task) s) := by
    simp only [execCONTEXT_RESTORE, hk', hg, ha, hl, hall, if_true, beq_self_eq_true, Bool.and_self]
  exact ⟨_, he, State.restoreAll k.saved s k hk rfl hkey hd⟩

/-! ### Regrowth (R36, R340) -/

/-- What a free spare of a die is. -/
theorem Hub.spare_facts {h : Hub} {d : DieId} {q : Fin 72} (hq : h.spare d = some q) :
    dieOfPhys q = d ∧ h.phys[q].retired = false ∧ ∀ l : CoreId, h.map[l] ≠ some q := by
  have hp := List.find?_some hq
  simp only [Bool.and_eq_true, beq_iff_eq, Bool.not_eq_true', List.contains_eq_mem, decide_eq_false_iff_not] at hp
  obtain ⟨⟨hd, hr⟩, hn⟩ := hp
  refine ⟨hd, hr, fun l hl => hn ?_⟩
  exact hl ▸ Vector.mem_toList_iff.2 (Vector.getElem_mem l.isLt)

/-- R340: a core without a task moves to a spare of its die. -/
theorem regrowth_remaps (c : CoreId) (p q : Fin 72) (s : State) (hp : s.hub.map[c] = some p) (hq : s.hub.spare (dieOf c) = some q)
    (ht : (s.core c).task = none) (hr : s.responds c = true) :
    ∃ t, exec (.REGROWTH c) s = .next t ∧ t.mem = s.mem ∧ t.core c = { s.core c with sram := {} } ∧
      (∀ l, l ≠ c → t.core l = s.core l) ∧ t.hub.map[c] = some q ∧ (t.phys p).retired = true ∧
      dieOfPhys q = dieOf c ∧ (s.phys q).retired = false ∧ (∀ l : CoreId, s.hub.map[l] ≠ some q) := by
  have he : execREGROWTH c s = .next (s.remap c) := by
    simp [execREGROWTH, hp, hq, hr, ht]
  have hm : s.remap c = ((s.setPhys p { s.phys p with retired := true }).modCore c fun c => { c with sram := if c.task.isNone then {} else c.sram }).setHub
      { (s.setPhys p { s.phys p with retired := true }).hub with
        lastCard := s.hub.lastCard.filter (·.1 != c), map := s.hub.map.set c (some q), regrow := s.hub.regrow.filter (· != c) } := by
    unfold State.remap
    rw [hp, hq]
    rfl
  refine ⟨_, he, ?_, ?_, fun l hl => ?_, ?_, ?_, Hub.spare_facts hq⟩
  · rw [hm]; rfl
  · rw [hm, State.setHub_core, State.core_modCore]
    change { s.core c with sram := if (s.core c).task.isNone then {} else (s.core c).sram } = _
    rw [ht]; rfl
  · rw [hm, State.setHub_core, State.core_modCore_ne _ _ _ _ hl]; rfl
  · rw [hm]; simp
  · rw [hm]; simp [State.phys, State.setPhys]

/-- Settles O7: a request pends, stops and saves; a saved task goes back, alone or with its gang; a core without a task moves to a spare. -/
theorem preemptionAndRegrowth : Obligations.PreemptionAndRegrowth :=
  ⟨preempt_pends, preempt_stops, preempt_saves, restore_single, restore_gang, regrowth_remaps⟩

end Sys2Proof.Machine

namespace Sys2Proof.Machine

open Sys2Proof.Claims

/-! ### Retirement, dealing and starting -/

/-- A request deals at least one record. -/
theorem take_append_range_ne_nil {n : Nat} (hn : 0 < n) (xs : List Nat) (f : Nat → Nat) : (xs ++ (List.range n).map f).take n ≠ [] := by
  intro h
  have hl := congrArg List.length h
  simp only [List.length_take, List.length_append, List.length_map, List.length_range, List.length_nil] at hl
  omega

/-- R39: a core whose task leaves has its Ember slice and walker as at reset. -/
theorem execTASK_RETIRE_ember {c : CoreId} {s : State} (h : s.retires c = true) :
    ∃ t, exec (.TASK_RETIRE c) s = .next t ∧ (t.core c).ember = {} := by
  change ∃ t, execTASK_RETIRE c s = .next t ∧ _
  unfold execTASK_RETIRE
  simp only [h, Bool.not_true, Bool.false_eq_true, if_false]
  cases ((s.lastStores c).cutLinks c).hub.card (s.core c).theTask.card with
  | none => exact ⟨_, rfl, State.freeCore_ember _ _⟩
  | some k =>
    refine ⟨_, rfl, ?_⟩
    rw [State.endIfDone_core, State.modCard_core]
    split
    · rw [State.core_modCore]; exact State.freeCore_ember _ _
    · exact State.freeCore_ember _ _

/-- R202: a restored core runs. -/
theorem Core.resume_run (c : Core) (now : Nat) : (c.resume now).run = .running := by
  rw [Core.resume, Core.count_run]

/-- R384: a restored task whose region stands goes on. -/
theorem execTASK_START_resumes {c : CoreId} {k : Card} {s : State} (hm : s.mayStart c = true) (hk : cardOf s (s.core c).theTask.card = some k)
    (hb : (s.core c).run ≠ .bound) : execTASK_START c s = .next (s.setCore c ((s.core c).resume s.now)) := by
  have hr : (s.core c).restored? = true := by
    have h := hm
    simp only [State.mayStart, Bool.and_eq_true, Bool.or_eq_true, beq_iff_eq, hb, false_or] at h
    obtain ⟨⟨⟨hr, -⟩, -⟩, -⟩ := h
    exact hr
  have hk' : s.hub.card (s.core c).theTask.card = some k := hk
  simp [execTASK_START, hm, hk', hr]

/-! ### Counters -/

theorem Hub.dep_ctr (h : Hub) (c : Nat) : (h.dep c).ctr = c := by
  unfold Hub.dep
  cases hf : h.deps.find? (·.ctr == c) with
  | none => rfl
  | some d => simpa using List.find?_some hf

/-- The value of a counter as the statements read it. -/
theorem counter_eq (s : State) (c : Nat) : counter s c = (s.hub.dep c).v := by
  unfold counter Hub.dep
  cases s.hub.deps.find? (·.ctr == c) <;> rfl

/-- A counter that is put has the value put. -/
theorem Hub.dep_setDep_v (h : Hub) (d : Dep) : ((h.setDep d).dep d.ctr).v = d.v := by
  unfold Hub.dep Hub.setDep
  cases hz : decide (d.v = 0) && d.card.isNone with
  | false => simp
  | true =>
    have hn : (h.deps.filter (·.ctr != d.ctr)).find? (·.ctr == d.ctr) = none := by simp [List.find?_eq_none]
    simp only [if_true, hn, Option.getD_none]
    exact (of_decide_eq_true (Bool.and_eq_true_iff.1 hz).1).symm

/-- The value of a counter after a decrement (R329). -/
def lowered (v : Int) : Int := if v ≤ -2147483648 then v else v - 1

/-- R329: a decrement puts its counter lowered, and may free the card that waits for it. -/
theorem State.decrement_cases (s : State) (c : Nat) : ∃ d : Dep, d.ctr = c ∧ d.v = lowered (s.hub.dep c).v ∧
    (s.decrement c = s.setHub (s.hub.setDep d) ∨ ∃ k, s.decrement c = (s.setHub (s.hub.setDep d)).enqueue k) := by
  have hd := s.hub.dep_ctr c
  unfold State.decrement
  extract_lets d v
  cases hk : d.card with
  | none => exact ⟨{ d with v }, hd, rfl, .inl (by simp only [hk])⟩
  | some k =>
    by_cases hv : v = 0
    · exact ⟨⟨c, 0, none⟩, rfl, hv.symm, .inr ⟨k, if_pos hv⟩⟩
    · exact ⟨{ d with v }, hd, rfl, .inl (by simp only [hk, if_neg hv])⟩

theorem State.enqueue_nextCard (s : State) (n : Nat) : (s.enqueue n).hub.nextCard = s.hub.nextCard := s.modCard_nextCard _ _
theorem State.enqueue_deps (s : State) (n : Nat) : (s.enqueue n).hub.deps = s.hub.deps := s.modCard_deps _ _

theorem State.decrement_counter {s : State} {c : Nat} (h : -2147483648 < counter s c) : counter (s.decrement c) c = counter s c - 1 := by
  rw [counter_eq] at h
  obtain ⟨d, rfl, hv, he⟩ := s.decrement_cases c
  have hput : ((s.hub.setDep d).dep d.ctr).v = (s.hub.dep d.ctr).v - 1 := by
    rw [Hub.dep_setDep_v, hv, lowered, if_neg (Int.not_le.2 h)]
  rw [counter_eq, counter_eq, ← hput]
  rcases he with he | ⟨k, he⟩
  · rw [he, State.setHub_hub]
  · rw [he, Hub.dep, State.enqueue_deps]; rfl

theorem State.decrement_nextCard (s : State) (c : Nat) : (s.decrement c).hub.nextCard = s.hub.nextCard := by
  obtain ⟨d, -, -, he | ⟨k, he⟩⟩ := s.decrement_cases c
  · rw [he]; rfl
  · rw [he, State.enqueue_nextCard]; rfl

/-! ### Cards: acceptance, the pool and ageing (R30, R42, R322) -/

theorem State.takeSent_nextCard (s : State) : s.takeSent.hub.nextCard = s.hub.nextCard := by
  unfold State.takeSent
  exact foldl_keeps (fun u : State => u.hub.nextCard) _ fun u c _ => u.decrement_nextCard c.toNat

theorem State.arm_nextCard (s : State) (k : Card) : (s.arm k).hub.nextCard = s.hub.nextCard := by
  unfold State.arm
  simp only
  split
  · rw [State.enqueue_nextCard]; rfl
  · rw [State.modCard_nextCard]; rfl

theorem State.leaveSealed_hub (s : State) (k : Card) : (s.leaveSealed k).hub = s.hub := by
  unfold State.leaveSealed; split <;> rfl

theorem State.endCard_nextCard (s : State) (n : Nat) : (s.endCard n).hub.nextCard = s.hub.nextCard := by
  unfold State.endCard
  cases s.hub.card n with
  | none => rfl
  | some k => rfl

theorem State.check_nextCard (s : State) (n : Nat) : (s.check n).hub.nextCard = s.hub.nextCard := by
  rw [← s.takeSent_nextCard]
  unfold State.check
  simp only
  split
  · rfl
  · split
    · rw [State.endCard_nextCard, State.modCard_nextCard]
    · split
      · rw [State.arm_nextCard]
      · rw [State.enqueue_nextCard]

/-- R326: a submission entry that waits is copied and checked. -/
theorem execJOB_CARD_ACCEPT_counts {f : FnId} (ch : CardChoice) {s : State} (h : s.hasEntry f = true) :
    ∃ t, exec (.JOB_CARD_ACCEPT (.ring f) ch) s = .next t ∧ t.hub.nextCard = s.hub.nextCard + 1 := by
  change ∃ t, execJOB_CARD_ACCEPT (.ring f) ch s = .next t ∧ _
  unfold execJOB_CARD_ACCEPT
  simp only [h, Bool.not_true, Bool.false_eq_true, if_false]
  exact ⟨_, rfl, State.check_nextCard _ _⟩

/-- R30: the oldest spilled card returns to a pool in which more than 32 entries are free. -/
theorem execSPILL_CARD_RETURN_returns {n : Nat} {rest : List Nat} {s : State} (h : s.hub.spill = n :: rest) (hp : s.hub.pool.length < 224) :
    ∃ t, exec (.SPILL_CARD_RETURN n) s = .next t ∧ t.hub.spill = rest := by
  have hr : s.hub.returns n = true := by
    unfold Hub.returns
    simp only [h, List.head?_cons, beq_self_eq_true, Bool.true_and, decide_eq_true_eq]
    split <;> split <;> omega
  refine ⟨_, rfl, ?_⟩
  rw [if_pos hr, State.setHub_hub, h]
  rfl

/-- R42: a card that has waited 2 ms more rises a level. -/
theorem execPRIORITY_AGEING_rises {n : Nat} {k : Card} {s : State} (hk : cardOf s n = some k) (hw : k.st = .waiting) (hp : k.prio < 6)
    (hr : k.prio + k.risen < 6) (ht : k.since + 200000 * (k.risen + 1) ≤ s.tick) :
    ∃ t, exec (.PRIORITY_AGEING n) s = .next t ∧ (cardOf t n).map (·.risen) = some (k.risen + 1) := by
  have hrise : k.rises s.tick = true := by
    have hl : k.level = k.prio + k.risen := by rw [Card.level, if_neg (by omega)]; omega
    simp [Card.rises, hw, hl, hr, ht]
  refine ⟨_, rfl, ?_⟩
  have hid (k : Card) : (if k.rises s.tick then { k with risen := k.risen + 1 } else k).id = k.id := by split <;> rfl
  rw [show cardOf (s.modCard n _) n = _ from State.card_modCard_some (show s.hub.card n = some k from hk) hid, if_pos hrise]
  rfl

/-! ### Restoring, polls and the detector -/

theorem execCONTEXT_RESTORE_leavesIdle {c : CoreId} {card task : Nat} {k : Card} {x : Saved} {s : State} (hm : s.mayRestore k c = true)
    (hk : cardOf s card = some k) (hg : k.gang = false) (hx : k.saved.find? (fun x => x.task == task && x.at_ == c) = some x) :
    ∃ t, exec (.CONTEXT_RESTORE c card task) s = .next t ∧ (t.core c).run ≠ .idle := by
  obtain ⟨u, tval, hu, he⟩ := State.restoreCore_some (show s.hub.card card = some k from hk) hx
  obtain ⟨-, -, -, -, -, hrun, -⟩ := hu.fields
  refine ⟨_, (execCONTEXT_RESTORE_single hm hk hg).trans (congrArg _ he), ?_⟩
  split
  · rw [hrun]; simp
  · rw [State.systemStop_run]; simp

theorem State.phys_setPhys (s : State) (p : Fin 72) (x : Phys) : (s.setPhys p x).phys p = x := by
  simp [State.phys, State.setPhys]

/-- R36: a core that answers has missed no poll. -/
theorem execCORE_POLL_answered {c : CoreId} {p : Fin 72} {s : State} (hp : s.hub.map[c] = some p) (ht : (s.core c).task.isSome = true) :
    ∃ t, exec (.CORE_POLL c true) s = .next t ∧ (t.phys p).missed = 0 := by
  obtain ⟨x, hx⟩ := Option.isSome_iff_exists.1 ht
  have he : execCORE_POLL c true s = .next (s.setPhys p { s.phys p with missed := 0 }) := by
    simp [execCORE_POLL, hp, hx]
  exact ⟨_, he, by rw [State.phys_setPhys]⟩

theorem State.systemStop_sample (s : State) (l : CoreId) (code : Byte) (tval : Word) :
    (s.systemStop l code tval).hub.sample = s.hub.sample := by
  rw [State.systemStop, State.modCard_sample]; rfl

theorem State.sampleWait_sample (s : State) (l : CoreId) : (s.sampleWait l).hub.sample = s.hub.sample := by
  unfold State.sampleWait
  simp only
  split
  · rfl
  · split
    · rfl
    · rw [State.systemStop_sample]; rfl

/-- R44: at a sample the hub keeps the wait-for relation. -/
theorem execDEADLOCK_SAMPLE_keeps {s : State} (h : s.clock.stamp.toNat % 4096 = 0) :
    ∃ t, exec .DEADLOCK_SAMPLE s = .next t ∧ t.hub.sample = s.edges := by
  change ∃ t, execDEADLOCK_SAMPLE s = .next t ∧ _
  unfold execDEADLOCK_SAMPLE
  simp only [h, bne_self_eq_false, Bool.false_eq_true, if_false]
  exact ⟨_, rfl, foldl_keeps (fun u : State => u.hub.sample) _ fun u l _ => u.sampleWait_sample l⟩

end Sys2Proof.Machine

namespace Sys2Proof.Machine

open Sys2Proof.Claims

/-! ### What hosts do (R404 to R411) -/

@[simp] theorem State.func_setFunc (s : State) (f : FnId) (x : Func) : (s.setFunc f x).func f = x := by
  simp [State.func, State.setFunc]

/-- A function that takes the request changes as asked. -/
theorem State.func_onFunc {s : State} {f : FnId} (h : takes s f) (g : Func → Func) : (s.onFunc f g).func f = g (s.func f) := by
  rw [State.onFunc, if_pos (by simp [Func.takes, h.1, h.2]), State.func_setFunc]

theorem fld_bit {w : Nat} (v : BitVec w) (i : Nat) : (fld v i 1 == 1) = v.getLsbD i := by
  rw [fld, bitsAt, BitVec.getLsbD, Nat.testBit_eq_decide_div_mod_eq]
  rfl

theorem fld_low {w : Nat} (v : BitVec w) (n : Nat) : fld v 0 n = v.toNat % 2 ^ n := by
  simp [fld, bitsAt]

/-- R405: EN of a ring is bit 4 of its control register. -/
theorem execSQ_CTL_WRITE_en {f : FnId} (v : Word) {s : State} (h : takes s f) :
    ∃ t, exec (.SQ_CTL_WRITE f v) s = .next t ∧ (t.func f).sqen = v.getLsbD 4 :=
  ⟨_, rfl, (congrArg Func.sqen (State.func_onFunc h _)).trans (fld_bit v 4)⟩

theorem execCQ_CTL_WRITE_en {f : FnId} (v : Word) {s : State} (h : takes s f) :
    ∃ t, exec (.CQ_CTL_WRITE f v) s = .next t ∧ (t.func f).cqen = v.getLsbD 4 :=
  ⟨_, rfl, (congrArg Func.cqen (State.func_onFunc h _)).trans (fld_bit v 4)⟩

/-- R405: a head inside the ring is stored. -/
theorem execCQ_HEAD_WRITE_head {f : FnId} {v : Word} {s : State} (h : takes s f) (hv : v.toNat % 4096 < 2 ^ (s.func f).cqlog) :
    ∃ t, exec (.CQ_HEAD_WRITE f v) s = .next t ∧ (t.func f).cqhead.toNat = v.toNat % 4096 := by
  have hin : ¬ ringSize (s.func f).cqlog ≤ fld v 0 12 := by rw [fld_low, ringSize]; exact Nat.not_le.2 hv
  refine ⟨_, rfl, ?_⟩
  rw [State.func_onFunc h, if_neg hin, fld_low]
  simp

/-- R405: a tail is stored that advances over free entries only. -/
theorem execSQ_DOORBELL_tail {f : FnId} {v : Word} {s : State} (h : takes s f) (hh : (s.func f).sqhead.toNat < 2 ^ (s.func f).sqlog)
    (ht : (s.func f).sqtail.toNat < 2 ^ (s.func f).sqlog) (hv : v.toNat % 4096 < 2 ^ (s.func f).sqlog)
    (hfree : ((s.func f).sqtail.toNat + 2 ^ (s.func f).sqlog - (s.func f).sqhead.toNat) % 2 ^ (s.func f).sqlog +
      (v.toNat % 4096 + 2 ^ (s.func f).sqlog - (s.func f).sqtail.toNat) % 2 ^ (s.func f).sqlog < 2 ^ (s.func f).sqlog) :
    ∃ t, exec (.SQ_DOORBELL f v) s = .next t ∧ (t.func f).sqtail.toNat = v.toNat % 4096 := by
  refine ⟨_, rfl, ?_⟩
  rw [State.func_onFunc h]
  simp only [ringSize, fld_low, Nat.mod_eq_of_lt hh, Nat.mod_eq_of_lt ht]
  rw [if_neg (by simpa using ⟨hv, hfree⟩)]
  simp

/-- R409: a report is begun where none is being built. -/
theorem execATTESTATION_GO_begins {f : FnId} {v : Word} {s : State} (h : takes s f) (hv : v.getLsbD 0 = true) (hn : s.boot.signing = none) :
    ∃ t, exec (.ATTESTATION_GO f v) s = .next t ∧ t.boot.signing.isSome = true := by
  have hc : ((s.func f).takes && fld v 0 1 == 1 && s.boot.signing.isNone) = true := by
    rw [fld_bit, hv, hn]; simp [Func.takes, h.1, h.2]
  refine ⟨_, rfl, ?_⟩
  rw [if_pos hc]
  rfl

/-- R413: `startclr` takes 0xA5. -/
theorem execSTARTCLR_WRITE_clears {f : FnId} {v : Word} {s : State} (h : takes s f) (hv : v.toNat % 256 = 0xA5) :
    ∃ t, exec (.STARTCLR_WRITE f v) s = .next t ∧ t.boot.counter = 0 := by
  have hc : ((s.func f).takes && fld v 0 8 == 0xA5) = true := by
    rw [fld_low]; simp [Func.takes, h.1, h.2, hv]
  refine ⟨_, rfl, ?_⟩
  rw [if_pos hc]

/-- R404: a template that has no owner takes the word of any function. -/
theorem execHOST_TEMPLATE_WRITE_next {f : FnId} {n : Fin 1024} (w : Fin 72) (v : Word) {s : State} (h : takes s f) (hm : s.boot.minimal = false)
    (ho : (vget (s.hub.template n.val) 65 0).getLsbD 34 = false) :
    execHOST_TEMPLATE_WRITE f n w v s =
      .next (s.setHub (s.hub.setTemplate n.val (vput (s.hub.template n.val) w.val (templateWord w.val v)))) := by
  have hown : mayTouch (s.hub.template n.val) f = true := by
    have h1 : fld (vget (s.hub.template n.val) 65 0) 34 1 ≠ 1 := by
      have hbit := fld_bit (vget (s.hub.template n.val) 65 0) 34
      rw [ho, beq_eq_false_iff_ne] at hbit
      exact hbit
    have h2 : fld (vget (s.hub.template n.val) 65 0) 34 1 < 2 := Nat.mod_lt _ (by decide)
    have h0 : fld (vget (s.hub.template n.val) 65 0) 34 1 = 0 := by omega
    rw [mayTouch, h0]; rfl
  simp [execHOST_TEMPLATE_WRITE, Func.takes, h.1, h.2, hm, hown]

theorem Hub.template_setTemplate (h : Hub) (n : Nat) (v : Vector Word 72) : (h.setTemplate n v).template n = v := by
  simp [Hub.template, Hub.setTemplate]

theorem templateWord_eq (w : Nat) (v : Word) : templateWord w v = templateDword w v := by
  rw [templateWord, templateDword, fld_low]

/-! ### Memory as a host finds it (R241, R242, R404) -/

@[simp] theorem State.logEntry_mem (s : State) (kind phys unit : Nat) (task : Option Task) (addr : Nat) :
    (s.logEntry kind phys unit task addr).mem = s.mem := rfl

theorem State.hostByte_open {s : State} {a : Nat} (h : openAt s a) : s.hostByte a = s.mem.get a := by
  rw [State.hostByte, show s.keyHolder a = none from h]

theorem map_range_get (m : Mem) : ∀ n a : Nat, ((List.range n).map fun i => m.get (a + i)) = m.read a n
  | 0, _ => rfl
  | n + 1, a => by
    rw [List.range_succ_eq_map, List.map_cons, List.map_map, Mem.read, ← map_range_get m n (a + 1)]
    simp [Function.comp_def, Nat.add_assoc, Nat.add_comm 1]

/-- What a host reads where no resident key holds the bytes. -/
theorem State.hostRead_open {s : State} {a : Nat} (h : ∀ i, i < 8 → openAt s (a + i)) :
    leNat ((List.range 8).map fun i => s.hostByte (a + i)) = s.mem.readNat a 8 := by
  rw [Mem.readNat, ← map_range_get]
  congr 1
  exact List.map_congr_left fun i hi => State.hostByte_open (h i (List.mem_range.1 hi))

/-- R416: the state in which the hub has noted each word that a host's read finds corrected. -/
def State.weakNoted (s : State) (a : Nat) : State := (List.range (s.mem.weakIn a 8)).foldl (fun s _ => s.logEntry 1 255 2 none a) s

@[simp] theorem State.weakNoted_mem (s : State) (a : Nat) : (s.weakNoted a).mem = s.mem := foldl_keeps State.mem s fun _ _ _ => rfl

theorem execHOST_HBM_READ_next {f : FnId} {a : Nat} {s : State} (ha : a + 8 ≤ 2 ^ 40) (h : takes s f) (hm : s.boot.minimal = false)
    (ho : ∀ i, i < 8 → openAt s (a + i)) (hp : s.mem.poisonIn a 8 = none) :
    execHOST_HBM_READ f a s =
      .next ((s.weakNoted a).setFunc f { (s.weakNoted a).func f with answer := BitVec.ofNat 64 (s.mem.readNat a 8) }) := by
  have hp' : ((s.weakNoted a).mem.poisonIn a 8).isNone = true := by rw [State.weakNoted_mem, hp]; rfl
  rw [← State.hostRead_open ho]
  rw [State.weakNoted] at hp' ⊢
  unfold execHOST_HBM_READ
  simp only [Nat.not_lt.2 ha, Func.takes, h.1, h.2, hm, hp', Bool.and_self, Bool.not_true, Bool.false_eq_true, if_false, if_true]

theorem execHOST_HBM_WRITE_next {f : FnId} {a : Nat} (v : Word) {s : State} (ha : a + 8 ≤ 2 ^ 40) (h : takes s f) (hm : s.boot.minimal = false)
    (ho : ∀ i, i < 8 → openAt s (a + i)) :
    execHOST_HBM_WRITE f a v s = .next { s with mem := s.mem.write a (leBytes 8 v.toNat) } := by
  have h0 : s.keyHolder a = none := ho 0 (by decide)
  have h7 : s.keyHolder (a + 7) = none := ho 7 (by decide)
  unfold execHOST_HBM_WRITE
  simp only [Nat.not_lt.2 ha, Func.takes, h.1, h.2, hm, h0, h7, Bool.and_self, Bool.not_true, Bool.or_self, Bool.false_eq_true, if_false,
    Option.orElse_none]

/-! ### Attestation (R409) -/

/-- R409: the report stands once it is signed. -/
theorem execATTESTATION_DONE_done {nonce : List Byte} {s : State} (h : s.boot.signing = some nonce) :
    ∃ t, exec .ATTESTATION_DONE s = .next t ∧ t.boot.done = true := by
  let body := s.reportBody nonce
  have he : execATTESTATION_DONE s =
      .next { s with boot := { s.boot with signing := none, done := true, report := body ++ Config.deviceSign body } } := by
    rw [execATTESTATION_DONE, h]
  exact ⟨_, he, rfl⟩

/-! ### Start-up (R412, R413) -/

theorem Boot.stage_lt_nextStage (b : Boot) : b.stage < b.nextStage := by
  unfold Boot.nextStage
  split
  next h =>
    simp only [Bool.and_eq_true, decide_eq_true_eq] at h
    omega
  next => exact Nat.lt_succ_self _

/-- R412: a stage that does not fail is followed by a later one. -/
theorem execBOOT_STAGE_moves {r : StageResult} {s : State} (hf : s.boot.failed = false) (hs : s.boot.stage < 8) (hr : s.boot.failure r = none) :
    ∃ t, exec (.BOOT_STAGE r) s = .next t ∧ s.boot.stage < t.boot.stage := by
  refine ⟨{ s.stageWork r with boot := { (s.stageWork r).boot with stage := s.boot.nextStage, began := (s.stageWork r).tick } }, ?_,
    s.boot.stage_lt_nextStage⟩
  change execBOOT_STAGE r s = _
  simp [execBOOT_STAGE, hf, Nat.not_le.2 hs, hr]

/-- R412: a stage that takes longer than 10 s fails. -/
theorem execBOOT_STAGE_TIMEOUT_fails {s : State} (hf : s.boot.failed = false) (hs : s.boot.stage < 8) (hb : s.boot.began + 1000000000 < s.tick) :
    ∃ t, exec .BOOT_STAGE_TIMEOUT s = .next t ∧ t.boot.failed = true := by
  have hl : s.stageLate = true := by simp [State.stageLate, hf, hs, hb]
  have hc : ¬ (s.boot.failed || decide (8 ≤ s.boot.stage)) = true := by simp [hf, hs]
  refine ⟨_, rfl, ?_⟩
  rw [if_pos hl, State.bootFail, if_neg hc]

theorem hostEventsComplete : HostEventsComplete := by
  refine ⟨fun f v s h => ⟨execSQ_CTL_WRITE_en v h, execCQ_CTL_WRITE_en v h, execCQ_HEAD_WRITE_head h,
      fun _ hh ht hv hfree => execSQ_DOORBELL_tail h hh ht hv hfree, fun i => ⟨_, rfl, ?_⟩, execATTESTATION_GO_begins h,
      execSTARTCLR_WRITE_clears h⟩,
    fun f n w v s h hm ho => ⟨_, execHOST_TEMPLATE_WRITE_next w v h hm ho, ?_⟩,
    fun f a v s ha h hm ho => ⟨fun hp => ⟨_, execHOST_HBM_READ_next ha h hm ho hp, ?_⟩, _, execHOST_HBM_WRITE_next v ha h hm ho, rfl⟩,
    fun _ _ => execATTESTATION_DONE_done, fun f s he => ⟨_, rfl, ?_⟩, fun _ _ _ _ _ => ⟨_, rfl, rfl⟩, fun _ _ => execBOOT_STAGE_moves,
    fun _ => execBOOT_STAGE_TIMEOUT_fails, fun _ => ⟨_, rfl, rfl⟩⟩
  · rw [State.func_onFunc h]; simp
  · rw [State.setHub_hub, Hub.template_setTemplate, vget_vput_same _ _ _ _ w.isLt, templateWord_eq]
  · rw [State.func_setFunc]
  · rw [if_pos he, State.func_setFunc]

end Sys2Proof.Machine

namespace Sys2Proof.Machine

open Sys2Proof.Claims

/-! ### Quantum commits and the hub's cards (R254 to R258) -/

@[simp] theorem State.writeGlobal_hub (s : State) (t : Task) (va : Nat) (bs : List (Option Byte)) : (s.writeGlobal t va bs).hub = s.hub :=
  (congrArg State.hub (s.writeGlobal_eq t va bs)).trans rfl

theorem State.modCores_hub (ls : List CoreId) (f : CoreId → Core → Core) (s : State) :
    (ls.foldl (fun s l => s.modCore l (f l)) s).hub = s.hub := foldl_keeps State.hub s fun _ _ _ => rfl

theorem State.writeProgram_hub (s : State) (t : Task) (va : Nat) (bs : List (Option Byte)) : (s.writeProgram t va bs).hub = s.hub := by
  unfold State.writeProgram
  split
  · simp only [State.modCores_hub, State.writeGlobal_hub]
    rfl
  · exact s.writeGlobal_hub _ _ _

theorem State.spillOldest_hub (s : State) (l : CoreId) : (s.spillOldest l).hub = s.hub := by
  unfold State.spillOldest
  simp only
  split
  · rfl
  · rw [State.setCore_hub, State.writeGlobal_hub, State.writeGlobal_hub]; rfl

theorem State.acceptStore_hub (s : State) (l : CoreId) (g : GStore) : (s.acceptStore l g).hub = s.hub := by
  unfold State.acceptStore
  extract_lets c u new due v
  have hu : u.hub = s.hub := by
    change State.hub (if _ then _ else _) = _
    split
    · exact s.spillOldest_hub l
    · rfl
  split <;> exact hu

theorem State.commitAll_hub (s : State) (l : CoreId) : (s.commitAll l).hub = s.hub := by
  unfold State.commitAll
  extract_lets c t u v
  have hu : u.hub = s.hub := foldl_keeps State.hub s fun w x _ => w.writeProgram_hub t x.addr x.bytes
  rw [State.setCore_hub, ← hu]
  change State.hub (if _ then _ else _) = _
  split
  · rfl
  · exact u.writeGlobal_hub _ _ _

theorem State.quantum_hub (s : State) (l : CoreId) : (s.quantum l).hub = s.hub := by
  unfold State.quantum
  rw [State.commitAll_hub, State.modCore_hub]
  exact foldl_keeps State.hub s fun u g _ => u.acceptStore_hub l g

/-- A change of every card that keeps their numbers keeps which are found. -/
theorem find_map_isSome {f : Card → Card} (hf : ∀ k, (f k).id = k.id) (cards : List Card) (n : Nat) :
    ((cards.map f).find? (·.id == n)).isSome = (cards.find? (·.id == n)).isSome := by
  have hp : ((fun k : Card => k.id == n) ∘ f) = fun k => k.id == n := funext fun k => congrArg (· == n) (hf k)
  rw [List.find?_map, hp, Option.isSome_map]

theorem State.release_found (s : State) (l : CoreId) (n : Nat) : ((s.release l).hub.card n).isSome = (s.hub.card n).isSome :=
  find_map_isSome (fun k => by split <;> rfl) s.hub.cards n

/-- A quantum commit removes no card from the hub. -/
theorem State.quantumCommit_found (s : State) (ms : List (Nat × CoreId)) (n : Nat) :
    ((s.quantumCommit ms).hub.card n).isSome = (s.hub.card n).isSome := by
  unfold State.quantumCommit
  exact (foldl_keeps (fun u : State => (u.hub.card n).isSome) _ fun u m _ => u.release_found m.2 n).trans
    (congrArg (fun h : Hub => (h.card n).isSome) (foldl_keeps State.hub s fun u m _ => u.quantum_hub m.2))

theorem State.leaveAt_hub (s : State) (k : Card) (tag unit : Nat) : (s.leaveAt k tag unit).2.hub = s.hub := by
  unfold State.leaveAt
  exact (apply_ite (fun x : (Nat × Bool) × State => x.2.hub) _ _ _).trans (ite_self _)

/-- A barrier that completes once more leaves the completion counts of its card. -/
theorem State.checkBarrier_cp (s : State) (card tag unit j i : Nat) :
    ((s.checkBarrier card tag unit).hub.card card).map (·.cp j i) = (s.hub.card card).map (·.cp j i) := by
  unfold State.checkBarrier
  cases hk : s.hub.card card with
  | none => simp only [hk]
  | some k =>
    simp only
    split
    · rw [State.card_modCard_some ((congrArg (Hub.card · card) (State.leaveAt_hub _ _ _ _)).trans hk)]
      · rfl
      · exact fun _ => rfl
    · rw [hk]

/-- R332: a completion counts. -/
theorem execBARRIER_COMPLETE_counts {card : Nat} {tag : Fin 9} {unit : Nat} {k : Card} {s : State} (hk : cardOf s card = some k)
    (hd : s.barrierDue k tag.val unit = true) :
    ∃ t, exec (.BARRIER_COMPLETE card tag unit) s = .next t ∧
      (cardOf t card).map (fun k => k.cp tag.val unit) = some (k.cp tag.val unit + 1) := by
  have hk' : s.hub.card card = some k := hk
  obtain ⟨k', hq⟩ := Option.isSome_iff_exists.1 ((s.quantumCommit_found (s.liveMembers k tag.val unit) card).trans (by rw [hk']; rfl))
  change ∃ t, execBARRIER_COMPLETE card tag unit s = .next t ∧ _
  unfold execBARRIER_COMPLETE
  simp only [hk', hd, Bool.not_true, Bool.false_eq_true, if_false]
  refine ⟨_, rfl, (State.checkBarrier_cp _ _ _ _ _ _).trans ?_⟩
  rw [State.card_modCard_some hq]
  · simp [Card.cp]
  · exact fun _ => rfl

/-! ### The end of a gang (R258) -/

theorem mem_insertBy {α : Type} (key : α → Nat) (x y : α) : ∀ l : List α, y ∈ insertBy key x l ↔ y = x ∨ y ∈ l
  | [] => by rw [insertBy, List.mem_singleton, List.mem_nil_iff, or_false]
  | z :: t => by
    unfold insertBy
    split
    · rw [List.mem_cons]
    · rw [List.mem_cons, mem_insertBy key x y t, List.mem_cons, or_left_comm]

theorem mem_foldl_insertBy {α : Type} (key : α → Nat) (y : α) : ∀ l acc : List α,
    y ∈ l.foldl (fun acc x => insertBy key x acc) acc ↔ y ∈ l ∨ y ∈ acc
  | [], acc => by rw [List.foldl_nil, List.mem_nil_iff, false_or]
  | x :: t, acc => by
    rw [List.foldl_cons, mem_foldl_insertBy key y t, mem_insertBy, List.mem_cons, or_left_comm, or_assoc]

theorem mem_sortBy {α : Type} {key : α → Nat} {l : List α} {y : α} : y ∈ sortBy key l ↔ y ∈ l := by
  simp [sortBy, mem_foldl_insertBy]

/-- R258: every member of a gang that ends leaves. -/
theorem execGANG_END_COMMIT_ends {card : Nat} {k : Card} {s : State} (hk : cardOf s card = some k) (hg : s.gangEnds k = true) :
    ∃ t, exec (.GANG_END_COMMIT card) s = .next t ∧ ∀ m ∈ k.cores, (t.core m.2).run = .ending := by
  have hk' : s.hub.card card = some k := hk
  change ∃ t, execGANG_END_COMMIT card s = .next t ∧ _
  unfold execGANG_END_COMMIT
  simp only [hk', hg, Bool.not_true, Bool.false_eq_true, if_false]
  refine ⟨_, rfl, fun m hm => foldl_reaches (P := fun u : State => (u.core m.2).run = .ending) (fun u => ?_) (fun u y h => ?_) _ (mem_sortBy.2 hm)⟩
  · rw [State.core_modCore]
  · by_cases e : m.2 = y.2
    · rw [e, State.core_modCore]
    · rw [State.core_modCore_ne _ _ _ _ e, h]

/-! ### Records, address spaces and reservations -/

theorem State.setHub_func (s : State) (h : Hub) (f : FnId) : (s.setHub h).func f = s.func f := rfl

/-- R327: the record of the card that ended first is written, and waits no longer. -/
theorem execCOMPLETION_RECORD_WRITE_takes {f : FnId} {n : Nat} {rest : List Nat} {s : State} (h : s.recordDue f = true)
    (hh : (s.func f).held = n :: rest) : ∃ t, exec (.COMPLETION_RECORD_WRITE f) s = .next t ∧ (t.func f).held = rest := by
  change ∃ t, execCOMPLETION_RECORD_WRITE f s = .next t ∧ _
  unfold execCOMPLETION_RECORD_WRITE
  simp only [h, hh, Bool.not_true, Bool.false_eq_true, if_false]
  exact ⟨_, rfl, by rw [State.setHub_func, State.func_setFunc]⟩

/-- R237: an ID whose entries are invalidated is noted. -/
theorem execASID_INVALIDATE_notes (i : BitVec 12) (s : State) :
    ∃ t, exec (.ASID_INVALIDATE i) s = .next t ∧ i.toNat ∈ t.hub.invalid :=
  ⟨_, rfl, List.mem_insert_self⟩

theorem hubEventsComplete : HubEventsComplete := by
  refine ⟨fun _ _ => execTASK_RETIRE_ember, fun c k s hk hr hg hn hs hl hu _ => ⟨_, execCHUNK_REQUEST_deals hk hr hg hn hs hl hu, ?_⟩,
    fun _ ch _ h _ => execJOB_CARD_ACCEPT_counts ch h, fun c s h => ⟨_, rfl, State.decrement_counter h⟩,
    fun _ _ _ => execSPILL_CARD_RETURN_returns, fun card k cores start launch span s hk hb => ?_,
    fun c k s hm hk hb => ⟨_, execTASK_START_resumes hm hk hb, ?_⟩, fun _ _ _ => execPRIORITY_AGEING_rises,
    fun c s hr hp hb hph => ⟨_, execPREEMPT_REQUEST_stops hr hp hb hph, ?_⟩, fun _ _ _ _ _ _ => execCONTEXT_RESTORE_leavesIdle,
    fun c p q s hp hq ht hr => ?_, fun _ _ _ => execCORE_POLL_answered, fun _ => execDEADLOCK_SAMPLE_keeps,
    fun _ _ _ _ _ => execBARRIER_COMPLETE_counts, fun _ _ _ => execGANG_END_COMMIT_ends,
    fun _ _ _ _ => execCOMPLETION_RECORD_WRITE_takes, execASID_INVALIDATE_notes, fun c r s => ⟨_, rfl, ?_⟩⟩
  · rw [State.modCard_core, State.core_setCore]
    exact take_append_range_ne_nil (Nat.lt_of_lt_of_le Nat.one_pos (Nat.le_max_left _ _)) _ _
  · obtain ⟨t, he, -, -, -, ⟨k', hk', hst, -⟩, -⟩ := binding card k cores start launch span s hk hb
    exact ⟨t, he, by rw [hk', Option.map_some, hst]⟩
  · rw [State.core_setCore, Core.resume_run]
  · rw [State.core_setCore]; rfl
  · obtain ⟨t, he, -, -, -, hmap, -⟩ := regrowth_remaps c p q s hp hq ht hr
    exact ⟨t, he, hmap⟩
  · simp

/-- Settles O58: what the events of the hub, of Salamander, of hosts and of start-up need to complete. -/
theorem formsOfTheHubComplete : Obligations.FormsOfTheHubComplete := ⟨hubEventsComplete, hostEventsComplete⟩

end Sys2Proof.Machine

namespace Sys2Proof.Machine

open Sys2Proof.Claims

/-! ### A spawned card that the hub takes although its old choice would have rejected it

The hub gives a spawned card its address space as it checks it, so its check looks for page tables at the root of the new choice alone (R236). The
statement asks the state before, in whose list the card still stands with the choice of its spawning, root 0. -/

/-- The image of a gang of one whose arguments, spill area and one lease, with all rights, lie in the first 64 KiB page. -/
def lowGangImage : BitVec 4096 :=
  BitVec.ofNat 4096 (1 * 2 ^ (8 * 0x10) + 8 * 2 ^ (8 * 0x14) + (1 + 2 * 3 + 256) * 2 ^ (8 * 0x16) + 1 * 2 ^ (8 * 0x18) + 16 * 2 ^ (8 * 0x30) +
    (1 + 7 * 2 ^ 32) * 2 ^ (8 * 0x88))

/-- That card as its spawning leaves it in the pool. -/
def lowSpawned : Card := { id := 9, image := lowGangImage, func := 1, st := .pending, parent := some (8, 0) }

/-- The address space that Salamander chooses for it: its root table stands at 0x10000. -/
def lowChoice : CardChoice := { asidId := 1, root := 0x10000, heapb := 0, heapl := 0, heapo := 0 }

/-- The package with that card, and with the page tables of `rootAt`, which map the first 512 MiB to themselves. -/
def lowState : State :=
  { State.reset with
    mem := (State.reset.mem.write rootAt (leBytes 8 (1 + tableAt))).write tableAt (leBytes 8 31)
    hub := { State.reset.hub with cards := [lowSpawned], nextCard := 40 } }

theorem lowState_reason : lowState.takeSent.reason { lowSpawned with choice := lowChoice, order := lowState.hub.nextCard, st := .pending } = some 0x0B := by
  decide +kernel

theorem lowState_accepted : (match exec (.JOB_CARD_ACCEPT (.pool 9) lowChoice) lowState with
    | .next t => (cardOf t 9).map (·.st)
    | _ => none) = some .waiting := by
  decide +kernel

/-- The statement's second part fails there: the check finds no page table in the lease and the card waits, while the statement has it ended with
reason 0x0B for the page of the old root. -/
theorem not_cardsAccepted : ¬ CardsAccepted := by
  intro h
  obtain ⟨t, ht, -, -, -, hrej⟩ := h.2 9 lowSpawned lowChoice lowState rfl rfl (.inl rfl) rfl
  have hend := hrej 0x0B lowState_reason
  have hwait := lowState_accepted
  rw [ht] at hwait
  obtain ⟨k, hk, hst⟩ := Option.map_eq_some_iff.1 hwait
  rw [hk] at hend
  simp [hst] at hend

/-- Refutes O49: a spawned card whose lease holds the first page is accepted, while the state before its check, where its choice still has root 0, rejects
it with reason 0x0B. -/
theorem not_cardsAndRecords : ¬ Obligations.CardsAndRecords := fun h => not_cardsAccepted h.1

end Sys2Proof.Machine

namespace Sys2Proof.Laws

/-- Each row of words has its own law; an event has no word. -/
theorem Encoding.holds (i : Instr) : Encoding.Statement i := by
  cases i with
  | BLK_IMMEDIATE => exact Encoding.BLK_IMMEDIATE .. | BLK_REGISTER => exact Encoding.BLK_REGISTER .. | END => exact Encoding.END
  | YIELD => exact Encoding.YIELD | TRAP => exact Encoding.TRAP .. | RETT => exact Encoding.RETT | BRK => exact Encoding.BRK
  | FENCE => exact Encoding.FENCE .. | SEQW => exact Encoding.SEQW .. | WAITV => exact Encoding.WAITV .. | NOP => exact Encoding.NOP
  | WAIT => exact Encoding.WAIT .. | CSRR => exact Encoding.CSRR .. | CSRW => exact Encoding.CSRW .. | CSRS => exact Encoding.CSRS ..
  | CSRC => exact Encoding.CSRC .. | ADD => exact Encoding.ADD .. | SUB => exact Encoding.SUB .. | MUL => exact Encoding.MUL ..
  | MULH => exact Encoding.MULH .. | MULHU => exact Encoding.MULHU .. | DIV => exact Encoding.DIV .. | DIVU => exact Encoding.DIVU ..
  | REM => exact Encoding.REM .. | REMU => exact Encoding.REMU .. | AND => exact Encoding.AND .. | OR => exact Encoding.OR ..
  | XOR => exact Encoding.XOR .. | SHL => exact Encoding.SHL .. | SHR => exact Encoding.SHR .. | SHRA => exact Encoding.SHRA ..
  | MIN => exact Encoding.MIN .. | MAX => exact Encoding.MAX .. | MINU => exact Encoding.MINU .. | MAXU => exact Encoding.MAXU ..
  | CLZ => exact Encoding.CLZ .. | CTZ => exact Encoding.CTZ .. | POPC => exact Encoding.POPC .. | CMPEQ => exact Encoding.CMPEQ ..
  | CMPNE => exact Encoding.CMPNE .. | CMPLT => exact Encoding.CMPLT .. | CMPLTU => exact Encoding.CMPLTU .. | CMPGE => exact Encoding.CMPGE ..
  | CMPGEU => exact Encoding.CMPGEU .. | SEL => exact Encoding.SEL .. | ADDW => exact Encoding.ADDW .. | SUBW => exact Encoding.SUBW ..
  | SH1ADD => exact Encoding.SH1ADD .. | SH2ADD => exact Encoding.SH2ADD .. | SH3ADD => exact Encoding.SH3ADD .. | BFX => exact Encoding.BFX ..
  | BFI => exact Encoding.BFI .. | ADDI => exact Encoding.ADDI .. | ANDI => exact Encoding.ANDI .. | ORI => exact Encoding.ORI ..
  | XORI => exact Encoding.XORI .. | SHLI => exact Encoding.SHLI .. | SHRI => exact Encoding.SHRI .. | SHRAI => exact Encoding.SHRAI ..
  | CMPLTI => exact Encoding.CMPLTI .. | CMPEQI => exact Encoding.CMPEQI .. | LI => exact Encoding.LI .. | LUI => exact Encoding.LUI ..
  | BEQ => exact Encoding.BEQ .. | BNE => exact Encoding.BNE .. | BLT => exact Encoding.BLT .. | BGE => exact Encoding.BGE ..
  | BLTU => exact Encoding.BLTU .. | BGEU => exact Encoding.BGEU .. | J => exact Encoding.J .. | JAL => exact Encoding.JAL ..
  | JALR => exact Encoding.JALR .. | LD_B => exact Encoding.LD_B .. | LD_BU => exact Encoding.LD_BU .. | LD_H => exact Encoding.LD_H ..
  | LD_HU => exact Encoding.LD_HU .. | LD_W => exact Encoding.LD_W .. | LD_WU => exact Encoding.LD_WU .. | LD_D => exact Encoding.LD_D ..
  | ST_B => exact Encoding.ST_B .. | ST_H => exact Encoding.ST_H .. | ST_W => exact Encoding.ST_W .. | ST_D => exact Encoding.ST_D ..
  | FADD_S => exact Encoding.FADD_S .. | FSUB_S => exact Encoding.FSUB_S .. | FMUL_S => exact Encoding.FMUL_S ..
  | FDIV_S => exact Encoding.FDIV_S .. | FSQRT_S => exact Encoding.FSQRT_S .. | FMIN_S => exact Encoding.FMIN_S ..
  | FMAX_S => exact Encoding.FMAX_S .. | FCMPEQ_S => exact Encoding.FCMPEQ_S .. | FCMPLT_S => exact Encoding.FCMPLT_S ..
  | FCMPLE_S => exact Encoding.FCMPLE_S .. | FCLASS_S => exact Encoding.FCLASS_S .. | FMA_S => exact Encoding.FMA_S ..
  | FADD_D => exact Encoding.FADD_D .. | FSUB_D => exact Encoding.FSUB_D .. | FMUL_D => exact Encoding.FMUL_D ..
  | FDIV_D => exact Encoding.FDIV_D .. | FSQRT_D => exact Encoding.FSQRT_D .. | FMIN_D => exact Encoding.FMIN_D ..
  | FMAX_D => exact Encoding.FMAX_D .. | FCMPEQ_D => exact Encoding.FCMPEQ_D .. | FCMPLT_D => exact Encoding.FCMPLT_D ..
  | FCMPLE_D => exact Encoding.FCMPLE_D .. | FCLASS_D => exact Encoding.FCLASS_D .. | FMA_D => exact Encoding.FMA_D ..
  | FCVT_S_D => exact Encoding.FCVT_S_D .. | FCVT_D_S => exact Encoding.FCVT_D_S .. | FCVT_S_L => exact Encoding.FCVT_S_L ..
  | FCVT_D_L => exact Encoding.FCVT_D_L .. | FCVT_L_S => exact Encoding.FCVT_L_S .. | FCVT_L_D => exact Encoding.FCVT_L_D ..
  | FCVT_S_BF => exact Encoding.FCVT_S_BF .. | FCVT_BF_S => exact Encoding.FCVT_BF_S .. | FCVT_S_H => exact Encoding.FCVT_S_H ..
  | FCVT_H_S => exact Encoding.FCVT_H_S .. | VADD => exact Encoding.VADD .. | VSUB => exact Encoding.VSUB .. | VMUL => exact Encoding.VMUL ..
  | VFMA => exact Encoding.VFMA .. | VMIN => exact Encoding.VMIN .. | VMAX => exact Encoding.VMAX .. | VAND => exact Encoding.VAND ..
  | VOR => exact Encoding.VOR .. | VXOR => exact Encoding.VXOR .. | VSHL => exact Encoding.VSHL .. | VSHR => exact Encoding.VSHR ..
  | VCMPEQ => exact Encoding.VCMPEQ .. | VCMPNE => exact Encoding.VCMPNE .. | VCMPLT => exact Encoding.VCMPLT ..
  | VCMPLE => exact Encoding.VCMPLE .. | VSEL => exact Encoding.VSEL .. | VNEG => exact Encoding.VNEG .. | VABS => exact Encoding.VABS ..
  | VEXP2 => exact Encoding.VEXP2 .. | VLOG2 => exact Encoding.VLOG2 .. | VRCP => exact Encoding.VRCP .. | VRSQ => exact Encoding.VRSQ ..
  | VSQRT => exact Encoding.VSQRT .. | VTANH => exact Encoding.VTANH .. | VSIGM => exact Encoding.VSIGM .. | VFLOOR => exact Encoding.VFLOOR ..
  | VCVT => exact Encoding.VCVT .. | VCOAL => exact Encoding.VCOAL .. | VMOV => exact Encoding.VMOV .. | VSCAN => exact Encoding.VSCAN ..
  | VNOT => exact Encoding.VNOT .. | VRSUM => exact Encoding.VRSUM .. | VRMAX => exact Encoding.VRMAX .. | VRMIN => exact Encoding.VRMIN ..
  | VRCNT => exact Encoding.VRCNT .. | VRFIRST => exact Encoding.VRFIRST .. | VLEN => exact Encoding.VLEN .. | VRUNS => exact Encoding.VRUNS ..
  | VSPLAT => exact Encoding.VSPLAT .. | VIOTA => exact Encoding.VIOTA .. | VSLICE => exact Encoding.VSLICE .. | VCAT => exact Encoding.VCAT ..
  | VSETLEN => exact Encoding.VSETLEN .. | VEXTR => exact Encoding.VEXTR .. | VINS => exact Encoding.VINS .. | VLD => exact Encoding.VLD ..
  | VLDS => exact Encoding.VLDS .. | VLDFF => exact Encoding.VLDFF .. | VST => exact Encoding.VST .. | VSTS => exact Encoding.VSTS ..
  | VPOP => exact Encoding.VPOP .. | PSET => exact Encoding.PSET .. | PCNT => exact Encoding.PCNT .. | PMIN => exact Encoding.PMIN ..
  | PGET => exact Encoding.PGET .. | PALL => exact Encoding.PALL .. | EALLOC => exact Encoding.EALLOC .. | EFREE => exact Encoding.EFREE ..
  | ETOUCH => exact Encoding.ETOUCH .. | EAGE => exact Encoding.EAGE .. | ECLASS => exact Encoding.ECLASS .. | TDSET => exact Encoding.TDSET ..
  | TDGET => exact Encoding.TDGET .. | TDCOPY => exact Encoding.TDCOPY .. | TDCLR => exact Encoding.TDCLR .. | BSET => exact Encoding.BSET ..
  | BGET => exact Encoding.BGET .. | COPY => exact Encoding.COPY .. | COPYX => exact Encoding.COPYX .. | COPYM => exact Encoding.COPYM ..
  | COPYF => exact Encoding.COPYF .. | COPYT => exact Encoding.COPYT .. | COPYO => exact Encoding.COPYO .. | EXPORT => exact Encoding.EXPORT ..
  | SACC => exact Encoding.SACC .. | SACCR => exact Encoding.SACCR .. | ROWSM => exact Encoding.ROWSM .. | ROWNM => exact Encoding.ROWNM ..
  | ROWLN => exact Encoding.ROWLN .. | ROWMX => exact Encoding.ROWMX .. | MMA => exact Encoding.MMA .. | MZERO => exact Encoding.MZERO ..
  | MSTORE => exact Encoding.MSTORE .. | MLOAD => exact Encoding.MLOAD .. | BAR => exact Encoding.BAR .. | BARA => exact Encoding.BARA ..
  | BARW => exact Encoding.BARW .. | BARX => exact Encoding.BARX .. | DEPDEC => exact Encoding.DEPDEC .. | SPAWN => exact Encoding.SPAWN ..
  | SPATCH => exact Encoding.SPATCH .. | PWRQ => exact Encoding.PWRQ .. | PWRL => exact Encoding.PWRL | PWRG => exact Encoding.PWRG ..
  | LXFER => exact Encoding.LXFER .. | LRECV => exact Encoding.LRECV .. | LRED => exact Encoding.LRED .. | LTOPK => exact Encoding.LTOPK ..
  | STAMP => exact Encoding.STAMP .. | C_CLS => exact Encoding.C_CLS .. | C_ADDI => exact Encoding.C_ADDI .. | C_ADD => exact Encoding.C_ADD ..
  | C_MV => exact Encoding.C_MV .. | C_LI => exact Encoding.C_LI .. | C_BZ => exact Encoding.C_BZ .. | C_BNZ => exact Encoding.C_BNZ ..
  | C_J => exact Encoding.C_J .. | C_LDD => exact Encoding.C_LDD .. | C_STD => exact Encoding.C_STD .. | C_WAIT => exact Encoding.C_WAIT ..
  | C_SHLI => exact Encoding.C_SHLI .. | C_SUB => exact Encoding.C_SUB .. | C_AND => exact Encoding.C_AND .. | C_NOP => exact Encoding.C_NOP
  | C_BRK => exact Encoding.C_BRK
  | _ => exact .inl rfl

end Sys2Proof.Laws

namespace Sys2Proof.Machine

open Sys2Proof.Claims

/-! ### Decoding what the encoder writes (R77, R84 to R91) -/

/-- Settles O11: the row's law, for an instruction that has a word. -/
theorem decodeInvertsEncode : Obligations.DecodeInvertsEncode := fun i hword => (Laws.Encoding.holds i).resolve_left hword

/-- Settles O12: the words of the table are decoded one by one. -/
theorem wordsDecode : Obligations.WordsDecode := by
  unfold Obligations.WordsDecode
  decide

end Sys2Proof.Machine

namespace Sys2Proof.Machine

open Sys2Proof.Claims

/-! ### Positions that decode (R77, R93) -/

theorem decode_eq_instr {w : Nat} {i : Instr} :
    decode w = .instr i ↔ decodeRow w = some i ∧ (encode i).2 = w % 2 ^ (encode i).1 := by
  unfold decode
  cases decodeRow w with
  | none => simp
  | some j =>
    by_cases h : (encode j).2 = w % 2 ^ (encode j).1
    · simp only [h, if_true, Decoded.instr.injEq, Option.some.injEq]
      exact ⟨fun e => ⟨e, e ▸ h⟩, And.left⟩
    · simp only [h, if_false, reduceCtorEq, Option.some.injEq, false_iff, not_and]
      exact fun e => e ▸ h

/-- The group field of a word whose fixed bits `m` are those of a VRED form with g = 1. -/
theorem bitsAt_word_group {m d a b k : Nat} (hg : m / 0x2000000 % 8 = 1) (hlow : m % 0x2000000 = 0x3D) (hd : d < 32) (ha : a < 32) (hb : b < 32)
    (hk : k < 8) : bitsAt (word 32 m [(7, d), (12, a), (17, b), (22, k)]).2 25 3 = 1 := by
  rw [Laws.word_cons, Laws.word_cons, Laws.word_cons, Laws.word_cons, Laws.word_nil, bitsAt]
  omega

/-- The same of a form without a predicate. -/
theorem bitsAt_word_group_unpredicated {m d a b : Nat} (hg : m / 0x2000000 % 8 = 1) (hlow : m % 0x2000000 = 0x3D) (hd : d < 32) (ha : a < 32)
    (hb : b < 32) : bitsAt (word 32 m [(7, d), (12, a), (17, b)]).2 25 3 = 1 := by
  have h := bitsAt_word_group hg hlow hd ha hb (k := 0) (by decide)
  rwa [Laws.word_cons, Laws.word_cons, Laws.word_cons, Laws.word_cons, Nat.zero_mul, Nat.add_zero] at h

/-- R170: the decoder's VRED forms of fn 7 to 13 are encoded with g = 1. -/
theorem decodeVRed_group {v : Nat} {i : Instr} (hlo : 7 ≤ bitsAt v 28 4) (hhi : bitsAt v 28 4 ≤ 13) (h : decodeVRed v = some i) :
    (encode i).1 = 32 ∧ bitsAt (encode i).2 25 3 = 1 := by
  have hfn : bitsAt v 28 4 = 7 ∨ bitsAt v 28 4 = 8 ∨ bitsAt v 28 4 = 9 ∨ bitsAt v 28 4 = 10 ∨ bitsAt v 28 4 = 11 ∨ bitsAt v 28 4 = 12 ∨
    bitsAt v 28 4 = 13 := by omega
  unfold decodeVRed at h
  obtain e | e | e | e | e | e | e := hfn <;> rw [e] at h <;> obtain rfl := Option.some.inj h
  case inl | inr.inl => exact ⟨rfl, bitsAt_word_group rfl rfl (BitVec.isLt _) (BitVec.isLt _) (BitVec.isLt _) (BitVec.isLt _)⟩
  all_goals exact ⟨rfl, bitsAt_word_group_unpredicated rfl rfl (BitVec.isLt _) (BitVec.isLt _) (BitVec.isLt _)⟩

/-- R89, R170: a word that decodes to a VRED form which needs g = 1 has it. -/
theorem group_of_oneGroupForm {w : Nat} {i : Instr} (hd : decode w = .instr i) (ho : oneGroupForm w = true) : bitsAt w 25 3 = 1 := by
  obtain ⟨hrow, henc⟩ := decode_eq_instr.1 hd
  obtain ⟨⟨hmaj, hlo⟩, hhi⟩ : (w % 128 = 0x3D ∧ 7 ≤ bitsAt w 28 4) ∧ bitsAt w 28 4 ≤ 13 := by simpa [oneGroupForm] using ho
  have hfn : bitsAt (w % 2 ^ 32) 28 4 = bitsAt w 28 4 := by unfold bitsAt; omega
  have hgroup : bitsAt (w % 2 ^ 32) 25 3 = bitsAt w 25 3 := by unfold bitsAt; omega
  have hvred : decodeRow w = decodeVRed (w % 2 ^ 32) := by
    rw [decodeRow, if_neg (by omega)]
    exact Laws.major_VRed _ (by omega)
  rw [hvred] at hrow
  obtain ⟨hsize, hg⟩ := decodeVRed_group (by rwa [hfn]) (by rwa [hfn]) hrow
  rwa [henc, hsize, hgroup] at hg

/-- A word that decodes to a well-formed instruction has no fault of its own. -/
theorem wordFault_of_wellFormed {w : Nat} {i : Instr} (hd : decode w = .instr i) (hwf : i.wellFormed = true) :
    badGroup w = false ∧ wordFault w = none := by
  obtain ⟨hrow, henc⟩ := decode_eq_instr.1 hd
  obtain ⟨hill, hbad⟩ : i.illegal = false ∧ i.badValue = false := by simpa [Instr.wellFormed] using hwf
  have hgroup : badGroup w = false := by
    cases ho : oneGroupForm w with
    | false => simp [badGroup, ho]
    | true => simp [badGroup, group_of_oneGroupForm hd ho]
  have hone : (oneGroupForm w && (bitsAt w 25 3 == 0 || bitsAt w 25 3 == 7)) = false := by
    cases ho : oneGroupForm w with
    | false => rfl
    | true => simp [group_of_oneGroupForm hd ho]
  refine ⟨hgroup, ?_⟩
  simp [wordFault, normal, hone, hgroup, hrow, hill, hbad, henc]

/-- A position that is neither C.CLS nor STAMP is a unit of its own. -/
theorem unitWords_instr {m : Mem} {t : Task} {lp : Loop} {p : Pos} {rest : List Pos} {size w : Nat} (hw : wordAt m t lp p.addr.toNat = .ok (size, w))
    (hs : prefixShape size w = false) : unitWords m t lp (p :: rest) = .ok [(p, size, w)] := by
  simp [unitWords, hw, hs]

theorem firstFault_of_none {p : Pos} {size w : Nat} (code : Byte) (h : wordFault w = none) : firstFault code [(p, size, w)] = none := by
  simp [firstFault, h]

/-- Settles O10: the word at pc is the whole unit, and no decoding fault is its own. -/
theorem wellFormedWordsRun : Obligations.WellFormedWordsRun := by
  intro m c size w i hw hs ht hd hwf
  obtain ⟨hgroup, hfault⟩ := wordFault_of_wellFormed hd hwf
  have htgt : (c.fetch.pc.tgt && !isHeader m c.theTask c.loop c.fetch.pc.addr.toNat) = false := by
    cases h : c.fetch.pc.tgt with
    | false => rfl
    | true => simp [ht h]
  simp [fateAt, unitWords_instr hw hs, htgt, firstFault_of_none _ hfault, hgroup, hd]

end Sys2Proof.Machine

namespace Sys2Proof.Machine

open Sys2Proof.Claims

/-! ### Tables of scalar instructions -/

theorem readAll_length : ∀ {xs : List Nat} {c c' : Core} {vs : List Word}, readAll c xs = some (vs, c') → vs.length = xs.length
  | [], _, _, _, h => by
    simp only [readAll, Option.some.injEq, Prod.mk.injEq] at h
    exact congrArg List.length h.1.symm
  | x :: t, c, c', vs, h => by
    rw [readAll] at h
    split at h
    · simp at h
    · obtain ⟨⟨ws, c2⟩, ht, he⟩ := Option.map_eq_some_iff.1 h
      rw [← (Prod.mk.inj he).1, List.length_cons, List.length_cons, readAll_length ht]

theorem reads_length {c c' : Core} {xs beside : List Nat} {d : Nat} {vs : List Word} (h : reads c xs beside d vs c') : vs.length = xs.length :=
  readAll_length h.2

/-- Two sources read give two values. -/
theorem reads_two {c c' : Core} {a b d : Nat} {beside : List Nat} {vs : List Word} (h : reads c [a, b] beside d vs c') : ∃ x y, vs = [x, y] := by
  match vs, reads_length h with
  | [x, y], _ => exact ⟨x, y, rfl⟩

theorem none'_holds {i : Instr} {size d : Nat} {v : Word} (he : ∀ s, exec i s = scalar0 size d v s) : (none' i size d v).holds := by
  intro s vs c n hp hr
  obtain rfl := List.length_eq_zero_iff.1 (reads_length hr)
  exact (he s).trans (scalar0_completes hp hr v)

theorem one_holds {i : Instr} {size d a lat : Nat} {op op' : Word → Word} (he : ∀ s, exec i s = scalar1 size d a lat op' s)
    (hop : ∀ x, op' x = op x) : (one i size d a lat op).holds := by
  obtain rfl : op' = op := funext hop
  intro s vs c n hp hr
  obtain ⟨x, rfl⟩ := List.length_eq_one_iff.1 (reads_length hr)
  exact (he s).trans (scalar1_completes hp hr lat op')

theorem two_holds {i : Instr} {size d a b lat : Nat} {op op' : Word → Word → Word} (he : ∀ s, exec i s = scalar2 size d a b lat op' s)
    (hop : ∀ x y, op' x y = op x y) : (two i size d a b lat op).holds := by
  obtain rfl : op' = op := funext fun x => funext (hop x)
  intro s vs c n hp hr
  obtain ⟨x, y, rfl⟩ := reads_two hr
  exact (he s).trans (scalar2_completes hp hr lat op')

/-! ### Values of the immediate and 16-bit forms (R90, R123, R124) -/

theorem shiftLeft_eq_ofNat (x : Word) (k : Nat) : x <<< k = BitVec.ofNat 64 (x.toNat * 2 ^ k) := by
  apply BitVec.eq_of_toNat_eq
  rw [BitVec.toNat_shiftLeft, BitVec.toNat_ofNat, Nat.shiftLeft_eq]

theorem ushiftRight_eq_ofNat (x : Word) (k : Nat) : x >>> k = BitVec.ofNat 64 (x.toNat / 2 ^ k) := by
  apply BitVec.eq_of_toNat_eq
  rw [BitVec.toNat_ushiftRight, BitVec.toNat_ofNat, Nat.shiftRight_eq_div_pow,
    Nat.mod_eq_of_lt (Nat.lt_of_le_of_lt (Nat.div_le_self _ _) x.isLt)]

theorem sshiftRight_eq_ofInt (x : Word) (k : Nat) : x.sshiftRight k = BitVec.ofInt 64 (x.toInt / 2 ^ k) := by
  rw [BitVec.sshiftRight, Int.shiftRight_eq_div_pow, Int.natCast_pow]
  rfl

theorem signExtend_shiftLeft_13 (j : BitVec 19) : j.signExtend 64 <<< 13 = BitVec.ofInt 64 (j.toInt * 8192) := by
  rw [BitVec.shiftLeft_eq_mul_twoPow, BitVec.ofInt_mul]
  rfl

theorem flag_decide (p : Prop) [Decidable p] : flag (decide p) = bit p := by
  by_cases h : p <;> simp [flag, bit, ofBool, h]

theorem flag_beq (x y : Word) : flag (x == y) = bit (x = y) := flag_decide (x = y)

theorem flag_slt_signExtend (x : Word) (i : BitVec 13) : flag (x.slt (i.signExtend 64)) = bit (x.toInt < i.toInt) := by
  rw [← flag_decide, BitVec.slt, BitVec.toInt_signExtend_of_le (by decide)]

theorem aluImmediates : AluImmediates := by
  intro d a k i j r hr
  simp only [aluImm, List.mem_cons, List.not_mem_nil, or_false] at hr
  obtain rfl | rfl | rfl | rfl | rfl | rfl | rfl | rfl | rfl | rfl | rfl := hr
  case inl | inr.inl | inr.inr.inl | inr.inr.inr.inl => exact one_holds (fun _ => rfl) fun _ => rfl
  · exact one_holds (fun _ => rfl) fun x => shiftLeft_eq_ofNat x k.toNat
  · exact one_holds (fun _ => rfl) fun x => ushiftRight_eq_ofNat x k.toNat
  · exact one_holds (fun _ => rfl) fun x => sshiftRight_eq_ofInt x k.toNat
  · exact one_holds (fun _ => rfl) fun x => flag_slt_signExtend x i
  · exact one_holds (fun _ => rfl) fun x => flag_beq x _
  · exact none'_holds fun _ => rfl
  · exact none'_holds fun s => congrArg (scalar0 4 d.toNat · s) (signExtend_shiftLeft_13 j)

/-- R99: `s0` read as a second source gives 0. -/
theorem reads_second_s0 {c c' : Core} {a d : Nat} {beside : List Nat} {x y : Word} (h : reads c [a, 0] beside d [x, y] c') : y = 0 := by
  have hall := h.2
  rw [readAll] at hall
  cases e : c.source a with
  | error _ => simp [e] at hall
  | ok r =>
    have hs0 : r.2.source 0 = .ok (0, r.2) := rfl
    simp only [e, readAll, hs0, Option.map_some, Option.some.injEq, Prod.mk.injEq, List.cons.injEq, and_true] at hall
    exact hall.1.2.symm

/-- C.MV adds `s0` to its source. -/
theorem scalar_C_MV_holds (d : BitVec 5) (a : BitVec 6) : (two (.C_MV d a) 2 d.toNat a.toNat 0 1 fun x _ => x).holds := by
  intro s vs c n hp hr
  obtain ⟨x, y, rfl⟩ := reads_two hr
  obtain rfl := reads_second_s0 hr
  exact (scalar2_completes hp hr 1 fun x y => x + y).trans
    (congrArg (fun v => Host.Outcome.next (after s (c.push d.toNat v (s.now + 1)) n)) (BitVec.add_zero x))

theorem aluShortForms : AluShortForms := by
  intro d a k r hr
  simp only [aluShort, List.mem_cons, List.not_mem_nil, or_false] at hr
  obtain rfl | rfl | rfl | rfl | rfl | rfl | rfl := hr
  · exact one_holds (fun _ => rfl) fun _ => rfl
  · exact two_holds (fun _ => rfl) fun _ _ => rfl
  · exact scalar_C_MV_holds d a
  · exact none'_holds fun _ => rfl
  · exact one_holds (fun _ => rfl) fun x => shiftLeft_eq_ofNat x k.toNat
  · exact two_holds (fun _ => rfl) fun _ _ => rfl
  · exact two_holds (fun _ => rfl) fun _ _ => rfl

/-- Settles O19: every row of the two tables completes with its value. -/
theorem aluImmediateForms : Obligations.AluImmediateForms := ⟨aluImmediates, aluShortForms⟩

end Sys2Proof.Machine

namespace Sys2Proof.Machine

open Sys2Proof.Claims

/-! ### Predicate instructions (R146, R183) -/

@[simp] theorem Core.setK_fetch (c : Core) (k : Nat) (x : KReg) : (c.setK k x).fetch = c.fetch := by
  unfold Core.setK
  split <;> rfl

theorem execPSET_completes (k : BitVec 3) {a : BitVec 6} (w : BitVec 2) {s : State} {x : Word} {c : Core} {n : Fetch × Loop} (hp : plain s 4 n)
    (hr : reads (me s) [a.toNat] [] 0 [x] c) :
    exec (.PSET k a w) s = .next (after s (c.setK k.toNat { count := BitVec.ofNat 17 (min x.toNat 131071), wid := w }) n) :=
  smith_ok hp (with1_of_reads hr _) ((Core.setK_fetch ..).trans (reads_fetch hr))

theorem execPMIN_completes (k i j : BitVec 3) {s : State} {n : Fetch × Loop} (hp : plain s 4 n) :
    exec (.PMIN k i j) s = .next (after s ((me s).setK k.toNat
      (if ((me s).getK i.toNat).bytes ≤ ((me s).getK j.toNat).bytes then (me s).getK i.toNat else (me s).getK j.toNat)) n) := by
  refine smith_ok hp (congrArg (fun x => Act.ok ((me s).setK k.toNat x)) ?_) (Core.setK_fetch ..)
  simp only [← Nat.not_le, ite_not]

/-- The value that PGET pushes: width above count. -/
theorem ofNat_count_wid (x : KReg) : BitVec.ofNat 64 (x.count.toNat + 2 ^ 17 * x.wid.toNat) = (x.wid ++ x.count).zeroExtend 64 := by
  apply BitVec.eq_of_toNat_eq
  have := x.count.isLt
  have := x.wid.isLt
  rw [BitVec.zeroExtend, BitVec.toNat_setWidth, BitVec.toNat_append, ← Nat.shiftLeft_add_eq_or_of_lt x.count.isLt, Nat.shiftLeft_eq,
    BitVec.toNat_ofNat]
  congr 1
  omega

theorem execPGET_completes {d : BitVec 6} (i : BitVec 3) {s : State} {n : Fetch × Loop} (hp : plain s 4 n)
    (hr : reads (me s) [] [] d.toNat [] (me s)) :
    exec (.PGET d i) s = .next (after s ((me s).push d.toNat
      ((((me s).getK i.toNat).wid ++ ((me s).getK i.toNat).count).zeroExtend 64) (s.now + 1)) n) :=
  smith_ok hp ((with0_of_reads hr _).trans (congrArg (pushed s (me s) d.toNat · 1) (ofNat_count_wid _))) (Core.push_fetch ..)

theorem predicates : Predicates :=
  ⟨fun k _ w _ _ _ _ hp hr => execPSET_completes k w hp hr, fun _ _ _ hp => smith_ok hp rfl (Core.setK_fetch ..),
    fun k i j _ _ hp => execPMIN_completes k i j hp, fun _ i _ _ hp hr => execPGET_completes i hp hr, fun _ _ => ⟨rfl, rfl⟩⟩

/-! ### Prefixes (R91, R92, R105) -/

theorem exec_C_CLS (k : BitVec 4) (a r : BitVec 1) (sc : BitVec 3) (s : State) :
    exec (.C_CLS k a r sc) s = prefixed 2 (fun x => { x with cls := some (k.toNat, a == 1, r == 1, sc.toNat) }) s := rfl

theorem exec_STAMP (st : BitVec 24) (s : State) : exec (.STAMP st) s = prefixed 4 (fun x => { x with stamp := some st.toNat }) s := rfl

/-- C.CLS or STAMP in a unit without misuse is recorded. -/
theorem prefixed_recorded {s : State} {size : Nat} {n : Fetch × Loop} (take : Pfx → Pfx) (hp : plain s size n)
    (hm : (me s).misused s.mem (prefixes (me s)) = none) : prefixed size take s = .next (afterPrefix s (take (prefixes (me s))) n) := by
  obtain ⟨hruns, hleads⟩ := hp
  obtain ⟨hrun, hlayout⟩ := runs_iff.1 hruns
  have hlayout : (me s).fetch.layout size .plain = false := by simpa using hlayout
  have hnext : nextFetch s.mem (me s) (me s).fetch none = .ok n := by
    unfold leads at hleads
    cases e : nextFetch s.mem (me s) (me s).fetch none with
    | error h => simp [e, Except.toOption] at hleads
    | ok y => simpa [e, Except.toOption] using hleads
  unfold prefixes at hm
  simp only [prefixed, if_pos hrun, hm, hlayout, hnext, Bool.false_eq_true, if_false]
  rfl

/-- The misused one of the unit at pc raises 0x03. -/
theorem prefixed_misused {s : State} {size : Nat} {x : Word} (take : Pfx → Pfx) (hrun : (me s).run = .running)
    (hm : (me s).misused s.mem (prefixes (me s)) = some x) : prefixed size take s = .next (faulted s 0x03 x) := by
  unfold prefixes at hm
  simp only [prefixed, if_pos hrun, hm]
  rfl

theorem Pos.badPrefix_eq (p : Pos) (size : Nat) :
    p.badPrefix size = ((p.slot == 2 && !p.tgt) || p.ctx.head?.any fun b => p.addr.toNat + size == b.limit) := by
  unfold Pos.badPrefix
  cases p.ctx <;> rfl

/-- A unit whose first position is a C.CLS or STAMP that is repeated, badly placed or refused names that position. -/
theorem Core.misused_first {c : Core} {m : Mem} {x : Pfx} {size w : Nat} {rest : List (Pos × Nat × Nat)} {pre i : Instr}
    (hu : unitWords m c.theTask c.loop [c.fetch.pc, c.fetch.n1, c.fetch.n2] = .ok ((c.fetch.pc, size, w) :: rest)) (hs : prefixShape size w = true)
    (hd : decode w = .instr pre) (hi : mainOf ((c.fetch.pc, size, w) :: rest) = some i)
    (hbad : ((if size = 2 then x.cls.isSome else x.stamp.isSome) || c.fetch.pc.badPrefix size || refuses pre i) = true) :
    c.misused m x = some c.fetch.pc.addr := by
  unfold Core.misused
  rw [hu]
  dsimp only
  rw [hi]
  unfold misuse
  simp only [hs, hd, hbad, Bool.not_true, Bool.false_eq_true, if_false, if_true]

theorem prefixes_recorded_or_misused : Prefixes := by
  intro k a r sc st s n
  rw [exec_C_CLS, exec_STAMP]
  refine ⟨fun hp hm => prefixed_recorded _ hp hm, fun hp hm => prefixed_recorded _ hp hm,
    fun x hrun hm => ⟨prefixed_misused _ hrun hm, prefixed_misused _ hrun hm⟩, fun w rest i => ⟨?_, ?_⟩⟩
  · intro hu hs hd hi hbad
    refine Core.misused_first hu hs hd hi ?_
    rw [Pos.badPrefix_eq, if_pos rfl]
    simpa only [refuses, Bool.or_assoc] using hbad
  · intro hu hs hd hi hbad
    refine Core.misused_first hu hs hd hi ?_
    rw [Pos.badPrefix_eq, if_neg (by decide)]
    exact hbad

/-- Settles O25: the predicate instructions complete, and C.CLS and STAMP are recorded or their misuse faults. -/
theorem predicatesAndPrefixes : Obligations.PredicatesAndPrefixes := ⟨predicates, prefixes_recorded_or_misused⟩

end Sys2Proof.Machine

namespace Sys2Proof.Machine

open Sys2Proof.Claims

/-! ### A vector store of an empty element at the end of a row group

A row group becomes valid when a write reaches it (R209). `oneRequest` bounds an element by the first byte after the line, and so it admits an element of
no byte that stands there: behind the last line of a row group its address belongs to the next row group, and nothing reaches the line's own. -/

/-- An element of no byte, at the first byte after row group 0. -/
def edgeElem : VElem := { ea := 0xE000000000001000, place := .ember 0, addr := 4096, n := 0, data := some [] }

/-- A core that holds row group 0 of its Ember, still empty, and no other. -/
def edgeCore : Core := { ember := { rows := [{ g := 0 }] } }

/-- The element passes as a request of line 63, the last of row group 0. -/
theorem oneRequest_edgeElem : oneRequest [edgeElem] 63 := by
  refine ⟨fun x hx => ?_, List.pairwise_singleton _ _⟩
  obtain rfl := List.mem_singleton.1 hx
  exact ⟨[], rfl, rfl, by decide, by decide⟩

theorem edgeCore_rowAt : edgeCore.ember.rowAt (64 * 63) = some { g := 0 } := rfl

/-- The write goes to row group 1, which is free, and is not made: row group 0 is as empty as before. -/
theorem edgeCore_vecPuts_rowAt : (edgeCore.vecPuts [edgeElem]).ember.rowAt (64 * 63) = some { g := 0 } := by
  decide +kernel

/-- The statement's first part has row group 0 valid after the request; the model leaves it empty. -/
theorem not_vectorStoresLand : ¬ VectorStoresLand := by
  intro h
  obtain ⟨land, -⟩ := h
  obtain ⟨-, hst, -⟩ := land edgeCore [edgeElem] 63 { g := 0 } (List.cons_ne_nil _ _) oneRequest_edgeElem edgeCore_rowAt Mem.wf_empty
  rw [edgeCore_vecPuts_rowAt] at hst
  simp at hst

/-- Refutes O37: the request of a vector store whose one element has no byte and stands right behind an empty row group leaves that row group empty. -/
theorem not_vectorOccupancyEnds : ¬ Obligations.VectorOccupancyEnds := by
  intro h
  obtain ⟨-, -, lands⟩ := h
  exact not_vectorStoresLand lands

end Sys2Proof.Machine

namespace Sys2Proof.Machine

open Sys2Proof.Claims

/-! ### Positions that wait (R249, R271 to R273) -/

/-- A position that waits and asks for something. -/
theorem smith_wait {s : State} {size : Nat} {k : PosKind} (h : runs s size k = true) {f : State → Core → Act} {c' : Core} {st : Stall}
    {fx : State → State} (hf : f s (s.core s.cur) = .wait c' st fx) :
    smith s size k f = .next (fx (s.setCore s.cur { c' with stall := some st })) := by
  obtain ⟨hr, hl⟩ := runs_iff.1 h
  unfold smith perform
  simp [hr, hl, hf]

/-- A position that stalls and asks for nothing. -/
theorem smith_stalled {s : State} {size : Nat} {k : PosKind} (h : runs s size k = true) {f : State → Core → Act} {x : Stall}
    (hf : f s (s.core s.cur) = .halt (.stall x)) : smith s size k f = .next (stalled s x) := smith_halt h hf

/-- A position that faults at issue. -/
theorem smith_faulted {s : State} {size : Nat} {k : PosKind} (h : runs s size k = true) {f : State → Core → Act} {code : Byte} {tval : Word}
    (hf : f s (s.core s.cur) = .halt (.fault code tval)) : smith s size k f = .next (faulted s code tval) := smith_halt h hf

/-- Whether counter `k` of LD, ST, CP and TL is above its bound (R271). -/
def Core.aboveBound (c : Core) (bounds : List Nat) (k : Nat) : Bool :=
  bounds.getD k 63 != 63 && decide (bounds.getD k 63 < [c.ld, c.st, c.cp, c.tl].getD k 0)

theorem not_meets (bound v : Nat) : (!meets bound v) = (bound != 63 && decide (bound < v)) := by
  rw [meets, Bool.not_or, ← decide_not, bne]
  simp only [Nat.not_le]

/-- The counter that WAIT stalls on is the first one above its bound. -/
theorem Core.unmet_eq_head? (c : Core) (ld st cp tl : Nat) :
    c.unmet ld st cp tl = ((List.range 4).filter (c.aboveBound [ld, st, cp, tl])).head? := by
  have h0 : c.aboveBound [ld, st, cp, tl] 0 = !meets ld c.ld := (not_meets ..).symm
  have h1 : c.aboveBound [ld, st, cp, tl] 1 = !meets st c.st := (not_meets ..).symm
  have h2 : c.aboveBound [ld, st, cp, tl] 2 = !meets cp c.cp := (not_meets ..).symm
  have h3 : c.aboveBound [ld, st, cp, tl] 3 = !meets tl c.tl := (not_meets ..).symm
  rw [List.head?_filter, show List.range 4 = [0, 1, 2, 3] from rfl]
  simp only [List.find?, h0, h1, h2, h3, Core.unmet]
  cases meets ld c.ld <;> cases meets st c.st <;> cases meets cp c.cp <;> cases meets tl c.tl <;> rfl

/-- WAIT without a deferred fault completes, or stalls on the first counter above its bound (R271). -/
theorem waitCounters_next {s : State} {size ld st cp tl : Nat} {n : Fetch × Loop} (hp : plain s size n)
    (hd : ld = 63 ∨ (me s).deferred anyClass = none) :
    ((me s).unmet ld st cp tl = none → waitCounters size ld st cp tl s = .next (after s (me s) n)) ∧
    ∀ k, (me s).unmet ld st cp tl = some k → waitCounters size ld st cp tl s = .next (stalled s (.counters k)) := by
  have hn : (if ld = 63 then none else (me s).deferred anyClass) = none := by
    obtain h | h := hd <;> simp [h]
  exact ⟨fun h => smith_ok hp (by simp only [hn, h]) rfl, fun k h => smith_stalled hp.1 (by simp only [hn, h])⟩

theorem waitForCounters : WaitForCounters := by
  intro l st cp tl cp5 s n above goes cpS
  have key : ∀ size ld st cp tl, plain s size n → (ld = 63 ∨ (me s).deferred anyClass = none) →
      waitCounters size ld st cp tl s = .next (goes [ld, st, cp, tl]) := by
    intro size ld st cp tl hp hd
    obtain ⟨completes, stalls⟩ := waitCounters_next (st := st) (cp := cp) (tl := tl) hp hd
    have hu : (me s).unmet ld st cp tl = (above [ld, st, cp, tl]).head? := Core.unmet_eq_head? ..
    simp only [goes]
    split
    · next h => exact completes (by rw [hu, h]; rfl)
    · next k _ h => exact stalls k (by rw [hu, h]; rfl)
  refine ⟨fun hp hd => key 4 _ _ _ _ hp (hd.imp_left (congrArg BitVec.toNat)), fun hp => ?_⟩
  have hcp : cpS = if cp5.toNat = 31 then 63 else cp5.toNat := by
    simp only [cpS, ← BitVec.toNat_inj]
    rfl
  rw [hcp]
  exact key 2 63 63 _ _ hp (.inl rfl)

theorem reached_iff (x y : BitVec 32) : reached x y = true ↔ (x - y).toNat < 2 ^ 31 := decide_eq_true_iff

/-- The engine that a number names (R264). -/
theorem Core.engine_of_number (c : Core) (e : Nat) : c.eng.toList[e]? = if h : e < 6 then some c.eng[e] else none := by
  split
  · next h => simp [h]
  · next h => simp [Nat.le_of_not_lt h]

theorem waitForSequence : WaitForSequence := by
  intro a b s x y c n hp hr
  have hx : fld x 0 3 = x.toNat % 8 := fld_low x 3
  have hy : BitVec.ofNat 32 (fld y 0 32) = y.truncate 32 := by
    apply BitVec.eq_of_toNat_eq
    rw [fld_low, BitVec.toNat_ofNat, BitVec.truncate, BitVec.toNat_setWidth, Nat.mod_mod]
  by_cases he : x.toNat % 8 < 6
  · rw [dif_pos he]
    have hq : (me s).eng.toList[x.toNat % 8]? = some (me s).eng[x.toNat % 8] := by rw [Core.engine_of_number, dif_pos he]
    by_cases hd : ((me s).eng[x.toNat % 8].seq - y.truncate 32).toNat < 2 ^ 31
    · rw [if_pos hd]
      refine smith_ok hp ((with2_of_reads hr _).trans ?_) (reads_fetch hr)
      simp only [hx, hy, hq, (reached_iff _ _).2 hd, if_true]
    · rw [if_neg hd]
      refine smith_stalled hp.1 ((with2_of_reads hr _).trans ?_)
      simp only [hx, hy, hq, Bool.eq_false_iff.2 (mt (reached_iff _ _).1 hd), Bool.false_eq_true, if_false]
  · rw [dif_neg he]
    refine smith_faulted hp.1 ((with2_of_reads hr _).trans ?_)
    simp only [hx, Core.engine_of_number, dif_neg he]

/-! ### FENCE (R249, R256) -/

/-- The classes that FENCE's operand names. -/
theorem fenceMask_eq (x : Word) (k : Nat) : fenceMask x k = (x.toNat % 65536 == 0 || (decide (k < 16) && x.getLsbD k)) := by
  have hbit : (bitsAt (x.toNat % 2 ^ 16) k 1 == 1) = (x.toNat % 2 ^ 16).testBit k := by
    rw [Nat.testBit_eq_decide_div_mod_eq]
    rfl
  rw [fenceMask, fld_low, hbit, Nat.testBit_mod_two_pow]
  rfl

theorem Core.close_fetch (c : Core) : c.close.fetch = c.fetch := by
  unfold Core.close
  split <;> rfl

theorem Core.closeOnce_fetch (c : Core) : c.closeOnce.fetch = c.fetch := by
  unfold Core.closeOnce
  split
  · rfl
  · exact c.close_fetch

theorem fences : Fences := by
  intro a s x c n hp hr mask hm
  have hmask : mask = fenceMask x := funext fun k => (fenceMask_eq x k).symm
  clear_value mask
  subst hmask
  by_cases hf : (me s).fenceDone s.now (fenceMask x) = true
  · rw [if_pos hf]
    refine smith_ok hp ((with1_of_reads hr _).trans ?_) (c.closeOnce_fetch.trans (reads_fetch hr))
    simp only [hm, hf, if_true]
  · rw [if_neg hf]
    refine smith_wait hp.1 (fx := id) ((with1_of_reads hr _).trans ?_)
    simp only [hm, Bool.eq_false_iff.2 hf, Bool.false_eq_true, if_false]

/-! ### WAITV (R273) -/

/-- WAITV's conditions as comparisons of numbers. -/
theorem waitvCond_eq (k : Nat) (v y : Word) : waitvCond k v y = match k with
    | 0 => decide (v = y) | 1 => decide (v ≠ y) | 2 => decide (y.toNat ≤ v.toNat) | 3 => decide (v.toNat < y.toNat)
    | 4 => decide (y.toInt ≤ v.toInt) | _ => decide (v.toInt < y.toInt) := by
  match k with
  | 0 | 2 | 3 | 4 | n + 5 => rfl
  | 1 => exact (decide_not (p := v = y)).symm

/-- The core of a WAITV that asks for the word at `off`. -/
def Core.waitvAsks (c : Core) (off now : Nat) : Core :=
  { c with reads := (c.reads.filter fun r => !r.who.isWaitv) ++ [{ who := .waitv, off, len := 8, issue := now }] }

section

variable {k : BitVec 3} {a b : BitVec 6} {s : State} {x y : Word} {c : Core} {n : Fetch × Loop}

theorem execWAITV_outside (hp : plain s 4 n) (hr : reads (me s) [a.toNat, b.toNat] [] 0 [x, y] c) (hw : x.toNat / 2 ^ 28 ≠ 0xE00000000) :
    exec (.WAITV k a b) s = .next (faulted s 0x09 x) := by
  refine smith_faulted hp.1 ((with2_of_reads hr _).trans ?_)
  simp only [bne_iff_ne.2 hw, if_true]

variable (hp : plain s 4 n) (hr : reads (me s) [a.toNat, b.toNat] [] 0 [x, y] c) (hw : x.toNat / 2 ^ 28 = 0xE00000000)
include hp hr hw

theorem execWAITV_misaligned (ha : x.toNat % 8 ≠ 0) : exec (.WAITV k a b) s = .next (faulted s 0x07 x) := by
  refine smith_faulted hp.1 ((with2_of_reads hr _).trans ?_)
  have ha : fld x 0 3 ≠ 0 := by rwa [fld_low]
  simp only [hw, bne_self_eq_false, bne_iff_ne.2 ha, Bool.false_eq_true, if_false, if_true]

/-- WAITV asks for its word when it has not asked yet and class ordering lets it, and again when the word that is there does not meet the condition. -/
theorem execWAITV_asks (ha : x.toNat % 8 = 0)
    (hq : ((me s).reading Reader.isWaitv = none ∧ (me s).classStall s.now ((me s).access 0).1 = false) ∨
      ∃ r, (me s).reading Reader.isWaitv = some r ∧ r.here = true ∧ r.code = none ∧
        waitvCond k.toNat (BitVec.ofNat 64 (leNat r.bytes)) y = false)
    (hrow : ((me s).ember.rowAt (x.toNat % 2 ^ 28)).isSome)
    (hpend : ((me s).csr.dbgPend && (me s).pendingByte s.now (x.toNat % 2 ^ 28) 8) = false) :
    exec (.WAITV k a b) s = .next ((s.setCore s.cur
      { (me s).waitvAsks (x.toNat % 2 ^ 28) s.now with stall := some (.emberWord x.toNat) }).fixLoads s.cur (me s).nextId) := by
  refine smith_wait hp.1 (fx := fun t => t.fixLoads t.cur (me s).nextId) (c' := (me s).waitvAsks (x.toNat % 2 ^ 28) s.now)
    ((with2_of_reads hr _).trans ?_)
  obtain ⟨row, hrow⟩ := Option.isSome_iff_exists.1 hrow
  have ha : (fld x 0 3 != 0) = false := by simpa [fld_low] using ha
  have hoff : fld x 0 28 = x.toNat % 2 ^ 28 := fld_low x 28
  simp only [hw, bne_self_eq_false, ha, hoff, hrow, hpend, Bool.false_eq_true, if_false]
  obtain ⟨hnone, hclass⟩ | ⟨r, hsome, hhere, hcode, hcond⟩ := hq
  · simp only [hnone, hclass, Bool.false_eq_true, if_false]
    rfl
  · simp only [hsome, hhere, hcode, hcond, Bool.not_true, Bool.false_eq_true, if_false]
    rfl

theorem execWAITV_completes (ha : x.toNat % 8 = 0) {r : SRead} (hsome : (me s).reading Reader.isWaitv = some r) (hhere : r.here = true)
    (hcode : r.code = none) (hcond : waitvCond k.toNat (BitVec.ofNat 64 (leNat r.bytes)) y = true) :
    exec (.WAITV k a b) s = .next (afterNow s { c with reads := (me s).reads.filter fun r => !r.who.isWaitv } n) := by
  refine smith_done hp (c' := { c with reads := (me s).reads.filter fun r => !r.who.isWaitv }) (post := fun c => { c with ready := s.now })
    (fx := fun t => { t with clock := { t.clock with turn := t.cur.val } }) ((with2_of_reads hr _).trans ?_)
    (reads_fetch hr : c.fetch = (me s).fetch)
  have ha : (fld x 0 3 != 0) = false := by simpa [fld_low] using ha
  simp only [hw, bne_self_eq_false, ha, hsome, hhere, hcode, hcond, Bool.not_true, Bool.false_eq_true, if_false, if_true]
  rfl

end

theorem waitForValue : WaitForValue := by
  intro k a b s x y c n hp hr
  refine ⟨execWAITV_outside hp hr, execWAITV_misaligned hp hr, fun hw ha => ?_⟩
  refine ⟨fun hnone hclass hrow hpend => execWAITV_asks hp hr hw ha (.inl ⟨hnone, hclass⟩) hrow hpend, fun r hsome hhere hcode => ?_⟩
  intro v met
  have hcond : waitvCond k.toNat v y = met := waitvCond_eq k.toNat v y
  exact ⟨fun hm => execWAITV_completes hp hr hw ha hsome hhere hcode (hcond.trans hm),
    fun hm hrow hpend => execWAITV_asks hp hr hw ha (.inr ⟨r, hsome, hhere, hcode, hcond.trans hm⟩) hrow hpend⟩

/-- Settles O27: each of the five completes or stalls by its own lemma. -/
theorem waitsAndFences : Obligations.WaitsAndFences := ⟨waitForCounters, waitForSequence, waitForValue, fences⟩

end Sys2Proof.Machine

namespace Sys2Proof.Machine

open Sys2Proof.Claims

/-! ### Writes at global addresses (R231, R256, R325) -/

@[simp] theorem State.writeGlobal_core (s : State) (t : Task) (va : Nat) (bs : List (Option Byte)) (l : CoreId) :
    (s.writeGlobal t va bs).core l = s.core l := (congrArg (State.core · l) (s.writeGlobal_eq t va bs)).trans rfl

theorem State.writeGlobal_unmapped {s : State} {t : Task} {va : Nat} (h : translate s.mem t va needW = none) (bs : List (Option Byte)) :
    s.writeGlobal t va bs = s := by
  rw [State.writeGlobal, h]

theorem State.writeGlobal_mapped {s : State} {t : Task} {va p : Nat} (h : translate s.mem t va needW = some p) (bs : List (Option Byte)) :
    s.writeGlobal t va bs = { s with mem := s.mem.writeMask p bs } := by
  rw [State.writeGlobal, h]

/-- What memory holds after a store has been written at its translated address. -/
theorem State.writeGlobal_mem_written (s : State) (c : Core) (g : GStore) : (s.writeGlobal c.theTask g.addr g.data).mem = written s.mem c g := by
  unfold written
  cases h : translate s.mem c.theTask g.addr needW with
  | none => rw [State.writeGlobal_unmapped h]
  | some p => rw [State.writeGlobal_mapped h]

/-- A program's write that stays out of the commit-spill area. -/
theorem State.writeProgram_outside {t : Task} {va : Nat} {bs : List (Option Byte)} (h : t.breaches va bs = false) (s : State) :
    s.writeProgram t va bs = s.writeGlobal t va bs := by
  rw [State.writeProgram, h]
  rfl

/-- A task's write into its own spill area touches spilled lines alone. -/
theorem Core.strayed_eq (c : Core) (w : Task) (n va len : Nat) : c.strayed w n va len = { c with spilt := (c.strayed w n va len).spilt } := by
  unfold Core.strayed
  split
  · rfl
  · dsimp only
    split <;> rfl

theorem Core.strayed_s (c : Core) (w : Task) (n va len : Nat) : (c.strayed w n va len).s = c.s := by rw [Core.strayed_eq]

/-- What a program's write keeps of each core, wherever it goes. -/
theorem State.writeProgram_keeps {β : Type} (f : Core → β) (hf : ∀ c w n va len, f (Core.strayed c w n va len) = f c) (s : State) (t : Task) (va : Nat)
    (bs : List (Option Byte)) (l : CoreId) : f ((s.writeProgram t va bs).core l) = f (s.core l) := by
  unfold State.writeProgram
  split
  · refine (foldl_keeps (fun u : State => f (u.core l)) _ fun u m _ => State.modCore_keeps f (fun c => hf c ..) u m l).trans ?_
    exact congrArg f (State.writeGlobal_core ..)
  · exact congrArg f (State.writeGlobal_core ..)

/-- A masked write puts its bytes and keeps every other one. -/
theorem Mem.get_writeMask {m : Mem} (h : m.wf = true) (p : Nat) (bs : List (Option Byte)) (a : Nat) :
    (m.writeMask p bs).get a = (if p ≤ a then byteOf bs (a - p) else none).getD (m.get a) := by
  refine (cellGet_write bs p a h).trans ?_
  split <;> rfl

/-! ### Lines commit (R257, R262) -/

theorem execCOMMIT_LINE_due {c : CoreId} {l : CLine} {rest : List CLine} {s : State} (hd : (s.core c).lineDue s.now = true)
    (hb : (s.core c).wbuf = l :: rest) :
    exec (.COMMIT_LINE c) s = .next ((s.writeProgram (s.core c).theTask l.addr l.bytes).modCore c fun k => { k with wbuf := rest }) := by
  show execCOMMIT_LINE c s = _
  simp only [execCOMMIT_LINE, hd, hb, Bool.not_true, Bool.false_eq_true, if_false]
  rfl

theorem linesCommit : LinesCommit := by
  intro c l rest s hd hb hwf
  refine ⟨_, execCOMMIT_LINE_due hd hb, by rw [State.core_modCore], fun hclean => ?_⟩
  rw [State.writeProgram_outside hclean]
  refine ⟨by rw [State.core_modCore, State.writeGlobal_core], fun k hk => ?_, fun hnone => ?_, fun p hp a => ?_⟩
  · rw [State.core_modCore_ne _ _ _ _ hk, State.writeGlobal_core]
  · rw [State.modCore_mem, State.writeGlobal_unmapped hnone]
  · rw [State.modCore_mem, State.writeGlobal_mapped hp]
    exact Mem.get_writeMask hwf p l.bytes a

/-! ### Plain stores enter the commit buffer (R256, R259) -/

theorem GStore.plain_iff {g : GStore} : g.plain = true ↔ g.rel = none ∧ g.addr < 2 ^ 48 := by
  simp [GStore.plain]

/-- A spill changes no scalar register. -/
theorem State.spillOldest_s (s : State) (c l : CoreId) : ((s.spillOldest c).core l).s = (s.core l).s := by
  unfold State.spillOldest
  simp only
  split
  · rfl
  · by_cases e : l = c
    · rw [e, State.core_setCore]
    · rw [State.core_setCore_ne _ _ _ _ e, State.writeGlobal_core, State.writeGlobal_core]
      rfl

/-- The new youngest line of a buffer gets the cycle from which it may commit. -/
def dueFrom (lines : List CLine) (due : Nat) : List CLine := lines.dropLast ++ lines.getLast?.toList.map fun x => { x with due }

/-- That cycle aside, the lines are the same. -/
theorem dueFrom_held (lines : List CLine) (due : Nat) :
    (dueFrom lines due).map (fun l => (l.addr, l.bytes, l.held)) = lines.map fun l => (l.addr, l.bytes, l.held) := by
  rcases List.eq_nil_or_concat lines with rfl | ⟨xs, x, rfl⟩
  · rfl
  · simp [dueFrom]

/-- Accepting a store changes no scalar register. -/
theorem State.acceptStore_s (s : State) (c l : CoreId) (g : GStore) : ((s.acceptStore c g).core l).s = (s.core l).s := by
  unfold State.acceptStore
  extract_lets k u new due v
  have hu : (u.core l).s = (s.core l).s := by
    change ((if _ then _ else _ : State).core l).s = _
    split
    · exact s.spillOldest_s c l
    · rfl
  have hv : (v.core l).s = (s.core l).s := by
    refine (State.modCore_keeps Core.s ?_ u c l).trans hu
    exact fun _ => rfl
  split <;> exact hv

@[simp] theorem State.delay_core (s : State) (l : CoreId) : s.delay.2.core l = s.core l := rfl

/-- Accepting a store of a task that is not a gang member spills nothing: the store merges, and a new line draws its time (R256, R257). -/
theorem State.acceptStore_eq {s : State} {c : CoreId} (g : GStore) (hg : (s.core c).theTask.gang = false) :
    s.acceptStore c g = if needsLine (s.core c).wbuf (s.core c).closes g.addr g.prog
      then (s.modCore c fun k => { k with wbuf := dueFrom (mergeLine k.wbuf k.closes g) (s.now + 1 + s.delay.1) }).delay.2
      else s.modCore c fun k => { k with wbuf := mergeLine k.wbuf k.closes g } := by
  unfold State.acceptStore
  simp only [hg, Bool.false_and, Bool.false_eq_true, if_false, Bool.not_false, Bool.and_true]
  cases needsLine (s.core c).wbuf (s.core c).closes g.addr g.prog <;> rfl

theorem State.acceptStore_merges {s : State} {c : CoreId} (g : GStore) (hg : (s.core c).theTask.gang = false) :
    (s.acceptStore c g).mem = s.mem ∧ ∃ lines : List CLine, (s.acceptStore c g).core c = { s.core c with wbuf := lines } ∧
      lines.map (fun l => (l.addr, l.bytes, l.held)) =
        (mergeLine (s.core c).wbuf (s.core c).closes g).map fun l => (l.addr, l.bytes, l.held) := by
  rw [State.acceptStore_eq g hg]
  split
  · exact ⟨rfl, _, (State.delay_core ..).trans (s.core_modCore c _), dueFrom_held ..⟩
  · exact ⟨rfl, _, s.core_modCore c _, rfl⟩

/-! ### Release stores (R251, R256) -/

/-- The bytes at `base` on that a release store leaves of an older store's. -/
def GStore.leaves (g : GStore) (base : Nat) (bs : List (Option Byte)) : List (Option Byte) :=
  bs.zipIdx.map fun x => if (g.at_ (base + x.2)).isSome then none else x.1

/-- A line after a release store: stores older than it, and they alone, lose the bytes that it covers. -/
def GStore.cutLine (g : GStore) (l : CLine) : CLine :=
  if l.held.all fun h => h.2 < g.prog then { l with bytes := g.leaves l.addr l.bytes } else l

theorem Core.supersedeOld_wbuf (c : Core) (g : GStore) : (c.supersedeOld g).wbuf = c.wbuf.map g.cutLine := rfl
theorem Core.supersedeOld_spilt (c : Core) (g : GStore) : (c.supersedeOld g).spilt = c.spilt.map g.cutLine := rfl

@[simp] theorem GStore.cutLine_addr (g : GStore) (l : CLine) : (g.cutLine l).addr = l.addr := by
  unfold GStore.cutLine; split <;> rfl

@[simp] theorem GStore.cutLine_held (g : GStore) (l : CLine) : (g.cutLine l).held = l.held := by
  unfold GStore.cutLine; split <;> rfl

theorem GStore.at_isSome (g : GStore) (a : Nat) :
    (g.at_ a).isSome = true ↔ g.addr ≤ a ∧ (byteOf g.data (a - g.addr)).isSome = true := by
  unfold GStore.at_ byteOf
  split
  · next h =>
    rw [List.getD_eq_getElem?_getD, and_iff_right h]
    cases g.data[a - g.addr]? <;> rfl
  · next h => simp [h]

theorem GStore.leaves_cutBy (g : GStore) (a : Nat) (bs : List (Option Byte)) : cutBy g a bs (g.leaves a bs) := by
  refine ⟨by simp [GStore.leaves], fun i => ?_⟩
  simp only [← GStore.at_isSome]
  rcases Nat.lt_or_ge i bs.length with h | h
  · simp [GStore.leaves, byteOf, h]
  · simp [GStore.leaves, byteOf, h]

/-- The masks of spilled lines are written to memory alone. -/
@[simp] theorem State.spiltMasks_core (s : State) (c l : CoreId) (a n : Nat) : (s.spiltMasks c a n).core l = s.core l :=
  foldl_keeps (fun u : State => u.core l) s fun u _ _ => u.writeGlobal_core ..

/-- Without a spilled line that it touches, a release store writes no mask. -/
theorem State.spiltMasks_none {s : State} {c : CoreId} {a n : Nat} (h : ∀ l ∈ (s.core c).spilt, overlap l.addr 64 a n = false) :
    s.spiltMasks c a n = s := by
  have hnone : ((s.core c).spilt.zipIdx.filter fun x => overlap x.1.addr 64 a n) = [] :=
    List.filter_eq_nil_iff.2 fun x hx => by simp [h x.1 (List.fst_mem_of_mem_zipIdx hx)]
  simp only [State.spiltMasks, hnone, List.foldl_nil]

/-! ### A store is made -/

theorem State.makeStore_plain {g : GStore} (h : g.plain = true) (s : State) (c : CoreId) : s.makeStore c g = s.acceptStore c g := by
  simp only [State.makeStore, h, if_true]

theorem State.makeStore_sram {g : GStore} (h : 2 ^ 48 ≤ g.addr) (s : State) (c : CoreId) :
    s.makeStore c g = s.setCore c { s.core c with sram := (s.core c).sram.writeMask (g.addr - sramWindow) g.data } := by
  have hp : g.plain = false := Bool.eq_false_iff.2 fun hp => Nat.not_le.2 (GStore.plain_iff.1 hp).2 h
  simp only [State.makeStore, hp, h, Bool.false_eq_true, if_false, if_true]

theorem State.makeStore_release {g : GStore} (hr : g.rel.isSome = true) (ha : g.addr < 2 ^ 48) (s : State) (c : CoreId) :
    s.makeStore c g = ((s.modCore c fun k => k.supersedeOld g).spiltMasks c g.addr g.data.length).writeProgram (s.core c).theTask g.addr g.data := by
  have hp : g.plain = false := Bool.eq_false_iff.2 fun hp => by simp [(GStore.plain_iff.1 hp).1] at hr
  simp only [State.makeStore, hp, Nat.not_le.2 ha, Bool.false_eq_true, if_false]

/-- Making a store changes no scalar register. -/
theorem State.makeStore_s (s : State) (c : CoreId) (g : GStore) : ((s.makeStore c g).core c).s = (s.core c).s := by
  by_cases hp : g.plain = true
  · rw [State.makeStore_plain hp, State.acceptStore_s]
  · by_cases ha : 2 ^ 48 ≤ g.addr
    · rw [State.makeStore_sram ha, State.core_setCore]
    · have hr : g.rel.isSome = true := by
        rw [← Option.ne_none_iff_isSome]
        exact fun hn => hp (GStore.plain_iff.2 ⟨hn, Nat.not_le.1 ha⟩)
      rw [State.makeStore_release hr (Nat.not_le.1 ha), State.writeProgram_keeps Core.s Core.strayed_s, State.spiltMasks_core, State.core_modCore]
      rfl

theorem execSTORE_ACCEPT_ready {c : CoreId} {g : GStore} {rest : List GStore} {s : State} (h : (s.core c).readyStores s.now = g :: rest) :
    exec (.STORE_ACCEPT c) s = .next ((s.makeStore c g).modCore c fun k => k.dropStore g.prog) := by
  show execSTORE_ACCEPT c s = _
  simp only [execSTORE_ACCEPT, h]

/-- A release store writes its bytes at its translated address and supersedes those of its task's older stores (R251, R256). -/
theorem State.makeStore_releases {g : GStore} {s : State} {c : CoreId} (hr : g.rel.isSome = true) (ha : g.addr < 2 ^ 48)
    (hclean : (s.core c).theTask.breaches g.addr g.data = false) :
    (s.makeStore c g).core c = (s.core c).supersedeOld g ∧ (untouched (s.core c) g → (s.makeStore c g).mem = written s.mem (s.core c) g) := by
  rw [State.makeStore_release hr ha, State.writeProgram_outside hclean]
  refine ⟨by rw [State.writeGlobal_core, State.spiltMasks_core, State.core_modCore], fun hu => ?_⟩
  rw [State.writeGlobal_mem_written, State.spiltMasks_none, State.modCore_mem]
  rw [State.core_modCore, Core.supersedeOld_spilt, List.forall_mem_map]
  intro l hl
  rw [GStore.cutLine_addr]
  exact hu l hl

theorem storesAreMade : StoresAreMade := by
  intro c g rest s hready
  refine ⟨_, execSTORE_ACCEPT_ready hready, ?_, fun ha => ?_, fun hn ha hg => ?_, fun hr ha hclean => ?_⟩
  · rw [State.core_modCore]
    exact s.makeStore_s c g
  · rw [State.makeStore_sram ha, State.core_modCore, State.core_setCore]
    exact ⟨rfl, rfl, rfl⟩
  · obtain ⟨hmem, lines, hcore, hlines⟩ := State.acceptStore_merges g hg
    rw [State.makeStore_plain (GStore.plain_iff.2 ⟨hn, ha⟩), State.core_modCore, hcore]
    exact ⟨hmem, rfl, hlines⟩
  · obtain ⟨hcore, hmem⟩ := State.makeStore_releases hr ha hclean
    refine ⟨by rw [State.core_modCore, hcore], hmem, fun i l hl => ⟨g.cutLine l, ?_, g.cutLine_addr l, g.cutLine_held l, fun hold => ?_, fun hyoung => ?_⟩⟩
    · rw [Core.supersedeOld_wbuf, List.getElem?_map, hl]
      rfl
    · rw [GStore.cutLine, if_pos hold]
      exact g.leaves_cutBy l.addr l.bytes
    · rw [GStore.cutLine, hyoung]
      rfl

/-- Settles O39: a store that is made, and a line that commits, each by its own lemma. -/
theorem globalStoresLand : Obligations.GlobalStoresLand := ⟨storesAreMade, linesCommit⟩

end Sys2Proof.Machine
